-- ==== Sys2Proof/Word.lean ====
section
/-! DEFINITION. The word types: bytes, byte strings, and the sparse table that
numbered things of the device (kennels, jobs, registers by offset) are held in. -/

namespace Sys2Proof

/-- One byte (R6: the unit of every record and wire format). -/
abbrev Byte := BitVec 8

/-- A byte string, lowest address or first transmitted byte first. -/
abbrev Bytes := List Byte

/-- A Hound scalar register value (R210). -/
abbrev Word := BitVec 64

/-- A sparse table by number: at most one entry for each number. -/
abbrev Tbl (α : Type) := List (Nat × α)

end Sys2Proof
end

