-- ==== Sys2Proof/Syntax.lean ====
section
/-! DEFINITION. The commands: one constructor of `Instr` per row of the table of
operations and events. Where the effect of a command depends on something the
device finds outside itself in that step (bytes it reads from host memory, an
ECC outcome, a measured value, ticks passed), the command carries it. -/

namespace Sys2Proof

/-- A unit that the power controller clock-gates (R21). -/
inductive UnitId where
  | hound (h : Fin 128)
  | fe (n : Fin 32)
  | she (n : Fin 8)
  | srt (n : Fin 4)
  | agg (n : Fin 8)
  | cze (n : Fin 4)
  | dge
  | mv (n : Fin 16)
  | shc
  deriving DecidableEq, Repr

/-- The slots that requesters wait for (R29). -/
inductive SlotKind where
  | job | tile
  deriving DecidableEq, Repr

/-- An engine of a kind that carries vertices (R91, R101). -/
inductive EngineId where
  | fe (n : Fin 32)
  | she (n : Fin 8)
  | srt (n : Fin 4)
  | agg (n : Fin 8)
  | cze (n : Fin 4)
  deriving DecidableEq, Repr

/-- A block of a RawLink lane, byte 0 lowest: a data block, a control block, or an
uncorrectable codeword or invalid sync header (R40 to R42). -/
inductive RlBlock where
  | data (b : BitVec 64)
  | control (b : BitVec 64)
  | bad
  deriving DecidableEq, Repr

/-- An event of a kennel, as the timing unit names it (R54, R59). -/
structure EventRef where
  kennel : Fin 256
  epoch : BitVec 48
  event : BitVec 32
  toffset : BitVec 24
  deriving DecidableEq, Repr

/-- A mailbox: MB0 or the mailbox of a kennel (R448). (DEDUCED, safe: log entry 24.) -/
inductive Mb where
  | mb0
  | kn (k : Fin 256)
  deriving DecidableEq, Repr

/-- A DMP request as it stands in the mailbox window, but for its opcode, which
the command gives (R450). `rsv` says that a reserved byte of it is not 0. -/
structure Msg where
  length : BitVec 16
  status : BitVec 16
  seq : BitVec 32
  rsv : Bool
  body : Bytes
  deriving DecidableEq, Repr

/-- What a read of host memory gives: its bytes, or a failure. -/
abbrev HostRead := Option Bytes

/-- What a doorbell that is written as a register makes the device read from outside: CI of
the CQ shadow, the host's memory, a measurement, TCLK in kHz, and whether the shared cache
of a device that resets has an uncorrectable tag error (R382, R448). -/
structure DoorRead where
  ci : Option (BitVec 32) := none
  host : HostRead := none
  fresh : Bytes := []
  tclkKhz : Nat := 0
  tagError : Bool := false
  deriving DecidableEq, Repr

/-- What happens beside a host write: the bits that hardware sets in the same cycle, and
what a doorbell that the write rings makes the device read (R9, R382). -/
structure WriteEnv where
  hwSet : Nat := 0
  door : DoorRead := {}
  deriving DecidableEq, Repr

/-- Work queue `w` of kennel `k`. -/
structure QueueRef where
  k : Fin 256
  w : Fin 16
  deriving DecidableEq, Repr

/-- Completion queue `c` of kennel `k`. -/
structure CqRef where
  k : Fin 256
  c : Fin 16
  deriving DecidableEq, Repr

/-- Vertex `vid` of the job numbered `job` in the state. -/
structure VertexRef where
  job : Nat
  vid : Nat
  deriving DecidableEq, Repr

/-- What ECC finds on one read (R341, R342). -/
inductive EccOutcome where
  | ok
  | corrected
  | uncorrectable
  deriving DecidableEq, Repr

/-- An ECC outcome other than `ok` on the verify copy of one Scent entry (R199). -/
structure EccHit where
  bank : Fin 8
  row : Fin 32768
  ue : Bool
  deriving DecidableEq, Repr

/-- The fields that the vector formats share (R252). -/
structure VFields where
  vd : Fin 32
  vs1 : Fin 32
  vs2 : Fin 32
  men : Bool
  msk : Fin 8
  ew : Fin 4
  deriving DecidableEq, Repr

/-- Who asks for a DRAM read: a job's vertex, a Hound, the Herder or a filler
that no job waits for (R342, R349). -/
inductive Requester where
  | vertex (v : VertexRef)
  | hound (h : Fin 128)
  | herder
  | none
  deriving DecidableEq, Repr

/-- An SHC request: a read, or a write of the bytes that `mask` names (R352). -/
inductive ShcOp where
  | read
  | write (mask : BitVec 64) (data : BitVec 512)
  deriving DecidableEq, Repr

/-- What ECC finds in the SHC arrays on a lookup (R360). -/
inductive ShcEcc where
  | ok
  | corrected
  | data
  | tag
  deriving DecidableEq, Repr

/-- What an MSI-X unmask addresses (R387): one vector, or the function. -/
inductive UnmaskTarget where
  | vector (v : Fin 2048)
  | function
  deriving DecidableEq, Repr

/-- What a boot finds outside the MRAM (R339, R344, R447, R459). -/
structure BootEnv where
  /-- The image in SPI NOR; empty where there is none. -/
  recovery : Bytes
  /-- The runtime of the image that starts (R213). -/
  runtime : Bytes
  /-- Delays that a sweep finds, by channel × 2^16 + selector. -/
  delays : List (Nat × Nat)
  /-- The environment report, with what the DIMMs' SPD gives (R339, R458). -/
  report : Bytes
  deriving DecidableEq, Repr

/-- The header fields of an exchange frame (R468). -/
structure LHdr where
  dst : BitVec 16
  src : BitVec 16
  kennel : Fin 256
  channel : BitVec 16
  deriving DecidableEq, Repr

/-- The payload of a WALK frame (R468). -/
structure WalkBody where
  next : BitVec 32
  gen : BitVec 16
  ring : Bool
  ended : Bool
  err : Bool
  errCode : BitVec 8
  count : BitVec 32
  deriving DecidableEq, Repr

/-- The priority class whose fragment leaves its FIFO, and the moment (R36, R43). -/
structure ClassAt where
  cls : Fin 8
  now : Nat
  deriving DecidableEq, Repr

/-- A vertex, and the moment at which it acts by the clock (R123, R134). -/
structure VertexAt where
  v : VertexRef
  now : Nat
  deriving DecidableEq, Repr

/-- The bytes of a DRAM write, with what ECC finds where a part of a line is written (R348). -/
structure LineWrite where
  data : BitVec 512
  ecc : EccOutcome := .ok
  dev : BitVec 5 := 0
  deriving DecidableEq, Repr

/-- An SHC request: what it does, for whom, and the ports that ask the slice in the same
round (R352, R358). -/
structure LookupBy where
  op : ShcOp
  who : Requester := .none
  rivals : BitVec 64 := 0
  deriving DecidableEq, Repr

/-- What ECC finds on a lookup: in the line itself, and in the line that has to make room
for it (R360). -/
structure LookupEcc where
  line : ShcEcc := .ok
  victim : EccOutcome := .ok
  deriving DecidableEq, Repr

/-- What ECC finds as the cache writes back: a tag error, the errors corrected, and the
lines with an uncorrectable one (R359, R360). -/
structure FlushEcc where
  tagError : Bool := false
  ces : Nat := 0
  ues : List Nat := []
  deriving DecidableEq, Repr

/-- The commands of the table (R1 to R562). (DEDUCED, safe: log entry 75.) -/
inductive Instr where
  /-- REGISTER_WRITE, R9. -/
  | registerWrite (off : Nat) (size : Nat) (val : Nat) (env : WriteEnv)
  /-- COUNTER_READ_CLEAR, R9. -/
  | counterReadClear (off : Nat) (size : Nat) (hwInc : Nat)
  /-- UNIT_CLOCK_GATE, R21. -/
  | unitClockGate (u : UnitId) (reqSameTick : Bool)
  /-- PACK_PLL_STOP, R21. -/
  | packPllStop (p : Fin 8)
  /-- UNIT_WAKE, R23. -/
  | unitWake (u : UnitId)
  /-- SLOT_GRANT, R29. -/
  | slotGrant (kind : SlotKind)
  /-- GROUP_MODE_WRITE, R32. -/
  | groupModeWrite (g : Fin 4) (val : BitVec 32)
  /-- ETH_FRAME_RECEIVE, R34. -/
  | ethFrameReceive (g : Fin 4) (port : Fin 4) (frame : Bytes) (fecBad : Bool)
  /-- RAWLINK_FRAME_RECEIVE, R42. -/
  | rawlinkFrameReceive (g : Fin 4) (lane : Fin 4) (sof : BitVec 64) (blocks : List RlBlock)
  /-- RAWLINK_STRAY_BLOCK, R42. -/
  | rawlinkStrayBlock (g : Fin 4) (lane : Fin 4)
  /-- FRAGMENT_FORWARD, R43. -/
  | fragmentForward (g : Fin 4) (port : Fin 4) (c : ClassAt)
  /-- FLOW_CONTROL_REPEAT, R43. -/
  | flowControlRepeat (g : Fin 4) (port : Fin 4) (cls : Fin 8)
  /-- EPOCH_BOUNDARY, R46. -/
  | epochBoundary
  /-- EP_LEN_WRITE, R46. -/
  | epLenWrite (val : BitVec 32)
  /-- ESYNC_EDGE, R48. -/
  | esyncEdge (dt : Nat)
  /-- EPOCH_WINDOW_MISS, R48. -/
  | epochWindowMiss
  /-- RESYNC_NOW, R49. -/
  | resyncNow (val : BitVec 32)
  /-- EPOCH_COUNTER_START, R52. -/
  | epochCounterStart (val : BitVec 32)
  /-- EPOCH_COUNTER_STOP, R52. -/
  | epochCounterStop (val : BitVec 32)
  /-- TCLK_LOST, R51. -/
  | tclkLost
  /-- TCLK_RETURN, R51. -/
  | tclkReturn
  /-- TEV_RESULT_ARRIVE, R55. -/
  | tevResultArrive (dt : Nat) (ev : EventRef) (lines : BitVec 64)
  /-- VERDICT_DUE, R55. -/
  | verdictDue (ev : EventRef)
  /-- VERDICT_MESSAGE_SEND, R59. -/
  | verdictMessageSend (quanta : Nat)
  /-- SET_DETERMINISTIC, R53. -/
  | setDeterministic (mb : Mb) (m : Msg) (tclkKhz : Nat)
  /-- PLAN_LOAD, R98. -/
  | planLoad (mb : Mb) (m : Msg) (img : HostRead)
  /-- PLAN_UNLOAD, R102. -/
  | planUnload (mb : Mb) (m : Msg)
  /-- PLAN_STATUS, R452. -/
  | planStatus (mb : Mb) (m : Msg)
  /-- JOB_START, R105. -/
  | jobStart (q : QueueRef) (e : Bytes)
  /-- NOP, R372. -/
  | nop (q : QueueRef) (e : Bytes)
  /-- ENGINE_SCHEDULE, R101. -/
  | engineSchedule (e : EngineId)
  /-- SRC_TS_TILE, R106. -/
  | srcTsTile (v : VertexRef)
  /-- TILE_PUBLISH, R116. -/
  | tilePublish (v : VertexRef) (port : Fin 8)
  /-- SPILL_READBACK, R119. -/
  | spillReadback (v : VertexRef) (port : Fin 8)
  /-- END_MARK_SEND, R108. -/
  | endMarkSend (v : VertexRef)
  /-- SINK_WRITE, R112. -/
  | sinkWrite (v : VertexRef) (port : Fin 8)
  /-- JOB_COMPLETE, R108. -/
  | jobComplete (j : Nat)
  /-- JOB_FAIL_RETIRE, R109. -/
  | jobFailRetire (j : Nat)
  /-- JOB_TIMEOUT, R110. -/
  | jobTimeout (j : Nat)
  /-- UNIT_STOP, R111. -/
  | unitStop (v : VertexRef)
  /-- FRAGMENT_BLOCK_PUBLISH, R123. -/
  | fragmentBlockPublish (w : VertexAt)
  /-- SHE_DATA_FRAGMENT, R127. -/
  | sheDataFragment (she : Fin 8) (now : Nat)
  /-- SHE_CLOSE_FRAGMENT, R129. -/
  | sheCloseFragment (she : Fin 8) (now : Nat)
  /-- SHE_HEARTBEAT, R129. -/
  | sheHeartbeat (she : Fin 8)
  /-- EVENT_WINDOW_TIMEOUT, R130. -/
  | eventWindowTimeout (v : VertexRef) (now : Nat)
  /-- TOMBSTONE_EXPIRE, R133. -/
  | tombstoneExpire (v : VertexRef) (now : Nat)
  /-- EVENT_TILE_FLUSH, R134. -/
  | eventTileFlush (w : VertexAt) (port : Fin 8)
  /-- SHE_INTAKE_RESUME, R560. -/
  | sheIntakeResume (v : VertexRef) (now : Nat)
  /-- JOIN_BUILD_TILE, R141. -/
  | joinBuildTile (she : Fin 8)
  /-- JOIN_PROBE_TILE, R141. -/
  | joinProbeTile (she : Fin 8)
  /-- WINJOIN_TILE, R142. -/
  | winjoinTile (she : Fin 8) (port : Fin 2)
  /-- FACET_TILE, R157. -/
  | facetTile (fe : Fin 32)
  /-- GATE_RELEASE, R165. -/
  | gateRelease (v : VertexRef) (port : Fin 8)
  /-- SORT_INPUT_TILE, R175. -/
  | sortInputTile (srt : Fin 4)
  /-- SORT_MERGE_PASS, R176. -/
  | sortMergePass (srt : Fin 4)
  /-- SORT_FINAL_PASS, R176. -/
  | sortFinalPass (srt : Fin 4)
  /-- AGG_INPUT_TILE, R187. -/
  | aggInputTile (agg : Fin 8)
  /-- AGG_EMIT, R182. -/
  | aggEmit (agg : Fin 8)
  /-- SCENT_SEARCH_TILE, R198. -/
  | scentSearchTile (v : VertexRef) (ecc : List EccHit)
  /-- SCENT_PATROL, R200. -/
  | scentPatrol (b : Fin 8) (ecc : EccOutcome)
  /-- SCN_LOAD, R201. -/
  | scnLoad (q : QueueRef) (e : Bytes) (host : HostRead)
  /-- SCN_INVAL, R201. -/
  | scnInval (q : QueueRef) (e : Bytes)
  /-- ADD, R219. -/
  | add (h : Fin 128) (rd : Fin 32) (rs1 : Fin 32) (rs2 : Fin 32)
  /-- SUB, R219. -/
  | sub (h : Fin 128) (rd : Fin 32) (rs1 : Fin 32) (rs2 : Fin 32)
  /-- AND, R219. -/
  | and (h : Fin 128) (rd : Fin 32) (rs1 : Fin 32) (rs2 : Fin 32)
  /-- OR, R219. -/
  | or (h : Fin 128) (rd : Fin 32) (rs1 : Fin 32) (rs2 : Fin 32)
  /-- XOR, R219. -/
  | xor (h : Fin 128) (rd : Fin 32) (rs1 : Fin 32) (rs2 : Fin 32)
  /-- SLL, R219. -/
  | sll (h : Fin 128) (rd : Fin 32) (rs1 : Fin 32) (rs2 : Fin 32)
  /-- SRL, R219. -/
  | srl (h : Fin 128) (rd : Fin 32) (rs1 : Fin 32) (rs2 : Fin 32)
  /-- SRA, R219. -/
  | sra (h : Fin 128) (rd : Fin 32) (rs1 : Fin 32) (rs2 : Fin 32)
  /-- SLT, R219. -/
  | slt (h : Fin 128) (rd : Fin 32) (rs1 : Fin 32) (rs2 : Fin 32)
  /-- SLTU, R219. -/
  | sltu (h : Fin 128) (rd : Fin 32) (rs1 : Fin 32) (rs2 : Fin 32)
  /-- MIN, R219. -/
  | min (h : Fin 128) (rd : Fin 32) (rs1 : Fin 32) (rs2 : Fin 32)
  /-- MAX, R219. -/
  | max (h : Fin 128) (rd : Fin 32) (rs1 : Fin 32) (rs2 : Fin 32)
  /-- MINU, R219. -/
  | minu (h : Fin 128) (rd : Fin 32) (rs1 : Fin 32) (rs2 : Fin 32)
  /-- MAXU, R219. -/
  | maxu (h : Fin 128) (rd : Fin 32) (rs1 : Fin 32) (rs2 : Fin 32)
  /-- MUL, R219. -/
  | mul (h : Fin 128) (rd : Fin 32) (rs1 : Fin 32) (rs2 : Fin 32)
  /-- MULH, R219. -/
  | mulh (h : Fin 128) (rd : Fin 32) (rs1 : Fin 32) (rs2 : Fin 32)
  /-- MULHU, R219. -/
  | mulhu (h : Fin 128) (rd : Fin 32) (rs1 : Fin 32) (rs2 : Fin 32)
  /-- DIV, R219. -/
  | div (h : Fin 128) (rd : Fin 32) (rs1 : Fin 32) (rs2 : Fin 32)
  /-- DIVU, R219. -/
  | divu (h : Fin 128) (rd : Fin 32) (rs1 : Fin 32) (rs2 : Fin 32)
  /-- REM, R219. -/
  | rem (h : Fin 128) (rd : Fin 32) (rs1 : Fin 32) (rs2 : Fin 32)
  /-- REMU, R219. -/
  | remu (h : Fin 128) (rd : Fin 32) (rs1 : Fin 32) (rs2 : Fin 32)
  /-- CLZ, R219. -/
  | clz (h : Fin 128) (rd : Fin 32) (rs1 : Fin 32) (rs2 : Fin 32)
  /-- CTZ, R219. -/
  | ctz (h : Fin 128) (rd : Fin 32) (rs1 : Fin 32) (rs2 : Fin 32)
  /-- POPC, R219. -/
  | popc (h : Fin 128) (rd : Fin 32) (rs1 : Fin 32) (rs2 : Fin 32)
  /-- BSWAP, R219. -/
  | bswap (h : Fin 128) (rd : Fin 32) (rs1 : Fin 32) (rs2 : Fin 32)
  /-- ADDI, R218. -/
  | addi (h : Fin 128) (rd : Fin 32) (rs1 : Fin 32) (imm : BitVec 16)
  /-- ANDI, R218. -/
  | andi (h : Fin 128) (rd : Fin 32) (rs1 : Fin 32) (imm : BitVec 16)
  /-- ORI, R218. -/
  | ori (h : Fin 128) (rd : Fin 32) (rs1 : Fin 32) (imm : BitVec 16)
  /-- XORI, R218. -/
  | xori (h : Fin 128) (rd : Fin 32) (rs1 : Fin 32) (imm : BitVec 16)
  /-- SLTI, R218. -/
  | slti (h : Fin 128) (rd : Fin 32) (rs1 : Fin 32) (imm : BitVec 16)
  /-- SLTIU, R218. -/
  | sltiu (h : Fin 128) (rd : Fin 32) (rs1 : Fin 32) (imm : BitVec 16)
  /-- SLLI, R218. -/
  | slli (h : Fin 128) (rd : Fin 32) (rs1 : Fin 32) (imm : BitVec 16)
  /-- SRLI, R218. -/
  | srli (h : Fin 128) (rd : Fin 32) (rs1 : Fin 32) (imm : BitVec 16)
  /-- SRAI, R218. -/
  | srai (h : Fin 128) (rd : Fin 32) (rs1 : Fin 32) (imm : BitVec 16)
  /-- LUI, R218. -/
  | lui (h : Fin 128) (rd : Fin 32) (rs1 : Fin 32) (imm : BitVec 16)
  /-- JALR, R218. -/
  | jalr (h : Fin 128) (rd : Fin 32) (rs1 : Fin 32) (imm : BitVec 16)
  /-- CSR_SWAP, R211. -/
  | csrSwap (h : Fin 128) (rd : Fin 32) (rs1 : Fin 32) (rsv : BitVec 2) (num : BitVec 12)
  /-- CSR_SET, R211. -/
  | csrSet (h : Fin 128) (rd : Fin 32) (rs1 : Fin 32) (rsv : BitVec 2) (num : BitVec 12)
  /-- CSR_CLEAR, R211. -/
  | csrClear (h : Fin 128) (rd : Fin 32) (rs1 : Fin 32) (rsv : BitVec 2) (num : BitVec 12)
  /-- CSR_READ, R211. -/
  | csrRead (h : Fin 128) (rd : Fin 32) (rs1 : Fin 32) (rsv : BitVec 2) (num : BitVec 12)
  /-- SYSCALL, R220. -/
  | syscall (h : Fin 128) (rd : Fin 32) (rs1 : Fin 32) (arg : BitVec 12)
  /-- ERET, R286. -/
  | eret (h : Fin 128) (rd : Fin 32) (rs1 : Fin 32) (arg : BitVec 12)
  /-- FENCE, R220. -/
  | fence (h : Fin 128) (rd : Fin 32) (rs1 : Fin 32) (arg : BitVec 12)
  /-- WFI, R283. -/
  | wfi (h : Fin 128) (rd : Fin 32) (rs1 : Fin 32) (arg : BitVec 12)
  /-- BREAKNZ, R225. -/
  | breaknz (h : Fin 128) (rd : Fin 32) (rs1 : Fin 32) (arg : BitVec 12)
  /-- LEXIT, R220. -/
  | lexit (h : Fin 128) (rd : Fin 32) (rs1 : Fin 32) (arg : BitVec 12)
  /-- BEQ, R222. -/
  | beq (h : Fin 128) (rs1 : Fin 32) (rs2 : Fin 32) (off : BitVec 16)
  /-- BNE, R222. -/
  | bne (h : Fin 128) (rs1 : Fin 32) (rs2 : Fin 32) (off : BitVec 16)
  /-- BLT, R222. -/
  | blt (h : Fin 128) (rs1 : Fin 32) (rs2 : Fin 32) (off : BitVec 16)
  /-- BGE, R222. -/
  | bge (h : Fin 128) (rs1 : Fin 32) (rs2 : Fin 32) (off : BitVec 16)
  /-- BLTU, R222. -/
  | bltu (h : Fin 128) (rs1 : Fin 32) (rs2 : Fin 32) (off : BitVec 16)
  /-- BGEU, R222. -/
  | bgeu (h : Fin 128) (rs1 : Fin 32) (rs2 : Fin 32) (off : BitVec 16)
  /-- LB, R218. -/
  | lb (h : Fin 128) (rd : Fin 32) (rs1 : Fin 32) (imm : BitVec 16)
  /-- LBU, R218. -/
  | lbu (h : Fin 128) (rd : Fin 32) (rs1 : Fin 32) (imm : BitVec 16)
  /-- LH, R218. -/
  | lh (h : Fin 128) (rd : Fin 32) (rs1 : Fin 32) (imm : BitVec 16)
  /-- LHU, R218. -/
  | lhu (h : Fin 128) (rd : Fin 32) (rs1 : Fin 32) (imm : BitVec 16)
  /-- LW, R218. -/
  | lw (h : Fin 128) (rd : Fin 32) (rs1 : Fin 32) (imm : BitVec 16)
  /-- LWU, R218. -/
  | lwu (h : Fin 128) (rd : Fin 32) (rs1 : Fin 32) (imm : BitVec 16)
  /-- LD, R218. -/
  | ld (h : Fin 128) (rd : Fin 32) (rs1 : Fin 32) (imm : BitVec 16)
  /-- SB, R218. -/
  | sb (h : Fin 128) (rs2 : Fin 32) (rs1 : Fin 32) (imm : BitVec 16)
  /-- SH, R218. -/
  | sh (h : Fin 128) (rs2 : Fin 32) (rs1 : Fin 32) (imm : BitVec 16)
  /-- SW, R218. -/
  | sw (h : Fin 128) (rs2 : Fin 32) (rs1 : Fin 32) (imm : BitVec 16)
  /-- SD, R218. -/
  | sd (h : Fin 128) (rs2 : Fin 32) (rs1 : Fin 32) (imm : BitVec 16)
  /-- LOOP, R223. -/
  | loop (h : Fin 128) (rdf : Fin 32) (rs1 : Fin 32) (len : BitVec 16)
  /-- LOOPI, R223. -/
  | loopi (h : Fin 128) (rdf : Fin 32) (rs1 : Fin 32) (aux : BitVec 11) (imm : BitVec 32)
  /-- J, R218. -/
  | j (h : Fin 128) (off : BitVec 26)
  /-- JAL, R218. -/
  | jal (h : Fin 128) (off : BitVec 26)
  /-- LI, R221. -/
  | li (h : Fin 128) (rd : Fin 32) (rs1 : Fin 32) (aux : BitVec 11) (imm : BitVec 32)
  /-- LIU, R221. -/
  | liu (h : Fin 128) (rd : Fin 32) (rs1 : Fin 32) (aux : BitVec 11) (imm : BitVec 32)
  /-- LIH, R221. -/
  | lih (h : Fin 128) (rd : Fin 32) (rs1 : Fin 32) (aux : BitVec 11) (imm : BitVec 32)
  /-- ADDIL, R221. -/
  | addil (h : Fin 128) (rd : Fin 32) (rs1 : Fin 32) (aux : BitVec 11) (imm : BitVec 32)
  /-- VADD, R253. -/
  | vadd (h : Fin 128) (scal : Bool) (f : VFields)
  /-- VSUB, R253. -/
  | vsub (h : Fin 128) (scal : Bool) (f : VFields)
  /-- VAND, R253. -/
  | vand (h : Fin 128) (scal : Bool) (f : VFields)
  /-- VOR, R253. -/
  | vor (h : Fin 128) (scal : Bool) (f : VFields)
  /-- VXOR, R253. -/
  | vxor (h : Fin 128) (scal : Bool) (f : VFields)
  /-- VANDN, R253. -/
  | vandn (h : Fin 128) (scal : Bool) (f : VFields)
  /-- VSLL, R253. -/
  | vsll (h : Fin 128) (scal : Bool) (f : VFields)
  /-- VSRL, R253. -/
  | vsrl (h : Fin 128) (scal : Bool) (f : VFields)
  /-- VSRA, R253. -/
  | vsra (h : Fin 128) (scal : Bool) (f : VFields)
  /-- VMIN, R253. -/
  | vmin (h : Fin 128) (scal : Bool) (f : VFields)
  /-- VMAX, R253. -/
  | vmax (h : Fin 128) (scal : Bool) (f : VFields)
  /-- VMINU, R253. -/
  | vminu (h : Fin 128) (scal : Bool) (f : VFields)
  /-- VMAXU, R253. -/
  | vmaxu (h : Fin 128) (scal : Bool) (f : VFields)
  /-- VMUL, R253. -/
  | vmul (h : Fin 128) (scal : Bool) (f : VFields)
  /-- VMULH, R253. -/
  | vmulh (h : Fin 128) (scal : Bool) (f : VFields)
  /-- VMULHU, R253. -/
  | vmulhu (h : Fin 128) (scal : Bool) (f : VFields)
  /-- VRSUB, R253. -/
  | vrsub (h : Fin 128) (scal : Bool) (f : VFields)
  /-- SADD, R256. -/
  | sadd (h : Fin 128) (rm : BitVec 2) (f : VFields)
  /-- SSUB, R256. -/
  | ssub (h : Fin 128) (rm : BitVec 2) (f : VFields)
  /-- UADD, R256. -/
  | uadd (h : Fin 128) (rm : BitVec 2) (f : VFields)
  /-- USUB, R256. -/
  | usub (h : Fin 128) (rm : BitVec 2) (f : VFields)
  /-- AVG, R256. -/
  | avg (h : Fin 128) (rm : BitVec 2) (f : VFields)
  /-- SABS, R256. -/
  | sabs (h : Fin 128) (rm : BitVec 2) (f : VFields)
  /-- SNEG, R256. -/
  | sneg (h : Fin 128) (rm : BitVec 2) (f : VFields)
  /-- SSHL, R256. -/
  | sshl (h : Fin 128) (rm : BitVec 2) (f : VFields)
  /-- VCMP, R258. -/
  | vcmp (h : Fin 128) (fn : BitVec 5) (f : VFields)
  /-- VQMUL, R257. -/
  | vqmul (h : Fin 128) (rm : BitVec 2) (sh : BitVec 5) (f : VFields)
  /-- VQSHR, R257. -/
  | vqshr (h : Fin 128) (rm : BitVec 2) (sh : BitVec 5) (f : VFields)
  /-- VQNRW, R257. -/
  | vqnrw (h : Fin 128) (rm : BitVec 2) (sh : BitVec 5) (f : VFields)
  /-- VMV, R259. -/
  | vmv (h : Fin 128) (f : VFields)
  /-- VMERGE, R259. -/
  | vmerge (h : Fin 128) (f : VFields)
  /-- VBCAST, R259. -/
  | vbcast (h : Fin 128) (f : VFields)
  /-- VID, R259. -/
  | vid (h : Fin 128) (f : VFields)
  /-- VEXT, R259. -/
  | vext (h : Fin 128) (f : VFields)
  /-- VINS, R259. -/
  | vins (h : Fin 128) (f : VFields)
  /-- MAND, R260. -/
  | mand (h : Fin 128) (f : VFields)
  /-- MOR, R260. -/
  | mor (h : Fin 128) (f : VFields)
  /-- MXOR, R260. -/
  | mxor (h : Fin 128) (f : VFields)
  /-- MANDN, R260. -/
  | mandn (h : Fin 128) (f : VFields)
  /-- MNOT, R260. -/
  | mnot (h : Fin 128) (f : VFields)
  /-- MPOP, R260. -/
  | mpop (h : Fin 128) (f : VFields)
  /-- MFIRST, R260. -/
  | mfirst (h : Fin 128) (f : VFields)
  /-- MFROMX, R260. -/
  | mfromx (h : Fin 128) (f : VFields)
  /-- MTOX, R260. -/
  | mtox (h : Fin 128) (f : VFields)
  /-- VLD, R261. -/
  | vld (h : Fin 128) (kind : BitVec 3) (low : BitVec 2) (f : VFields)
  /-- VST, R261. -/
  | vst (h : Fin 128) (kind : BitVec 3) (low : BitVec 2) (f : VFields)
  /-- VGATHER, R263. -/
  | vgather (h : Fin 128) (isc : BitVec 2) (low : BitVec 3) (f : VFields)
  /-- VSCATTER, R263. -/
  | vscatter (h : Fin 128) (isc : BitVec 2) (low : BitVec 3) (f : VFields)
  /-- VRED_SUM, R265. -/
  | vredSum (h : Fin 128) (f : VFields)
  /-- VRED_SUMU, R265. -/
  | vredSumu (h : Fin 128) (f : VFields)
  /-- VRED_SSUM, R265. -/
  | vredSsum (h : Fin 128) (f : VFields)
  /-- VRED_MIN, R265. -/
  | vredMin (h : Fin 128) (f : VFields)
  /-- VRED_MAX, R265. -/
  | vredMax (h : Fin 128) (f : VFields)
  /-- VRED_MINU, R265. -/
  | vredMinu (h : Fin 128) (f : VFields)
  /-- VRED_MAXU, R265. -/
  | vredMaxu (h : Fin 128) (f : VFields)
  /-- VSLDN, R266. -/
  | vsldn (h : Fin 128) (f : VFields)
  /-- VSLUP, R266. -/
  | vslup (h : Fin 128) (f : VFields)
  /-- VPERM, R266. -/
  | vperm (h : Fin 128) (f : VFields)
  /-- VCOMPRESS, R266. -/
  | vcompress (h : Fin 128) (f : VFields)
  /-- FADD, R267. -/
  | fadd (h : Fin 128) (f : VFields)
  /-- FSUB, R267. -/
  | fsub (h : Fin 128) (f : VFields)
  /-- FMUL, R267. -/
  | fmul (h : Fin 128) (f : VFields)
  /-- FMIN, R267. -/
  | fmin (h : Fin 128) (f : VFields)
  /-- FMAX, R267. -/
  | fmax (h : Fin 128) (f : VFields)
  /-- FABS, R267. -/
  | fabs (h : Fin 128) (f : VFields)
  /-- FNEG, R267. -/
  | fneg (h : Fin 128) (f : VFields)
  /-- FEQ, R267. -/
  | feq (h : Fin 128) (f : VFields)
  /-- FLT, R267. -/
  | flt (h : Fin 128) (f : VFields)
  /-- FLE, R267. -/
  | fle (h : Fin 128) (f : VFields)
  /-- I2F, R268. -/
  | i2f (h : Fin 128) (rm : BitVec 2) (f : VFields)
  /-- F2I, R268. -/
  | f2i (h : Fin 128) (rm : BitVec 2) (f : VFields)
  /-- SWLO, R268. -/
  | swlo (h : Fin 128) (rm : BitVec 2) (f : VFields)
  /-- SWHI, R268. -/
  | swhi (h : Fin 128) (rm : BitVec 2) (f : VFields)
  /-- UWLO, R268. -/
  | uwlo (h : Fin 128) (rm : BitVec 2) (f : VFields)
  /-- UWHI, R268. -/
  | uwhi (h : Fin 128) (rm : BitVec 2) (f : VFields)
  /-- INTERRUPT_TAKE, R282. -/
  | interruptTake (h : Fin 128) (raised : BitVec 3)
  /-- NI_WINDOW_EXPIRE, R285. -/
  | niWindowExpire (h : Fin 128) (raised : BitVec 3)
  /-- HOUND_RESET, R278. -/
  | houndReset (h : Fin 128)
  /-- HOUND_ABORT_TIMEOUT, R290. -/
  | houndAbortTimeout (h : Fin 128)
  /-- HOUND_JOB_START, R234. -/
  | houndJobStart (h : Fin 128)
  /-- HOUND_STAGE_TILE, R236. -/
  | houndStageTile (h : Fin 128) (port : Fin 8)
  /-- TAKE, R235. -/
  | take (h : Fin 128)
  /-- RELEASE, R235. -/
  | release (h : Fin 128)
  /-- ALLOC, R235. -/
  | alloc (h : Fin 128)
  /-- PUBLISH, R235. -/
  | publish (h : Fin 128)
  /-- SKIP, R235. -/
  | skip (h : Fin 128)
  /-- DONE, R235. -/
  | done (h : Fin 128)
  /-- FAIL, R235. -/
  | fail (h : Fin 128)
  /-- CZE_COMPRESS_TILE, R311. -/
  | czeCompressTile (cze : Fin 4) (verifyOk : Bool)
  /-- CZE_DECOMPRESS_TILE, R302. -/
  | czeDecompressTile (cze : Fin 4)
  /-- CZE_END_MARK, R311. -/
  | czeEndMark (v : VertexRef)
  /-- CZE_STATE_RESTORE, R315. -/
  | czeStateRestore (v : VertexRef)
  /-- CZE_STATE_SAVE, R316. -/
  | czeStateSave (v : VertexRef)
  /-- DGE_INIT, R329. -/
  | dgeInit (q : QueueRef) (e : Bytes)
  /-- DGE_UPDATE, R329. -/
  | dgeUpdate (q : QueueRef) (e : Bytes) (host : HostRead)
  /-- DGE_READ, R329. -/
  | dgeRead (q : QueueRef) (e : Bytes)
  /-- DGE_VERIFY, R331. -/
  | dgeVerify (q : QueueRef) (e : Bytes)
  /-- DGE_CLOSE, R329. -/
  | dgeClose (q : QueueRef) (e : Bytes)
  /-- DGE_KEY, R327. -/
  | dgeKey (q : QueueRef) (e : Bytes) (key : HostRead) (cust : HostRead)
  /-- DGE_INIT_GRANT, R323. -/
  | dgeInitGrant
  /-- DGE_BLOCK, R325. -/
  | dgeBlock (pipe : Fin 8)
  /-- DGE_VERTEX_TILE, R334. -/
  | dgeVertexTile (v : VertexRef)
  /-- DRAM_READ, R349. -/
  | dramRead (line : Nat) (who : Requester) (ecc : EccOutcome) (dev : BitVec 5)
  /-- DRAM_WRITE, R348. -/
  | dramWrite (line : Nat) (mask : BitVec 64) (w : LineWrite)
  /-- DRAM_WQ_ISSUE, R348. -/
  | dramWqIssue (ch : Fin 16) (sub : Fin 2)
  /-- DRAM_PATROL_READ, R343. -/
  | dramPatrolRead (ch : Fin 16) (ecc : EccOutcome) (dev : BitVec 5)
  /-- ROW_ACTIVATE, R346. -/
  | rowActivate (ch : Fin 16) (sub : Fin 2) (bank : Nat) (row : Nat)
  /-- REFRESH_WINDOW_END, R347. -/
  | refreshWindowEnd (ch : Fin 16)
  /-- DDR_RETUNE, R345. -/
  | ddrRetune (mb : Mb) (m : Msg)
  /-- DDR_RETUNE_AUTO, R345. -/
  | ddrRetuneAuto (ch : Fin 16) (dTemp : Nat) (dCe : Nat)
  /-- DRAM_ZEROING_DONE, R350. -/
  | dramZeroingDone
  /-- SHC_LOOKUP, R353. -/
  | shcLookup (port : Fin 64) (k : Fin 256) (line : Nat) (rq : LookupBy) (ecc : LookupEcc)
  /-- SHC_FILL, R356. -/
  | shcFill (port : Fin 64)
  /-- SHC_EVICT_WRITE, R357. -/
  | shcEvictWrite
  /-- SHC_DISABLE, R359. -/
  | shcDisable (val : BitVec 32)
  /-- SHC_ENABLE, R359. -/
  | shcEnable (val : BitVec 32)
  /-- SHC_FLUSH_DONE, R359. -/
  | shcFlushDone (e : FlushEcc)
  /-- SHC_PORT_DRAIN, R355. -/
  | shcPortDrain (port : Fin 64)
  /-- WQ_CREATE, R561. -/
  | wqCreate (mb : Mb) (m : Msg)
  /-- WQ_DESTROY, R561. -/
  | wqDestroy (mb : Mb) (m : Msg)
  /-- CQ_CREATE, R561. -/
  | cqCreate (mb : Mb) (m : Msg)
  /-- CQ_DESTROY, R561. -/
  | cqDestroy (mb : Mb) (m : Msg)
  /-- QUEUE_RESET, R389. -/
  | queueReset (mb : Mb) (m : Msg)
  /-- QUEUE_RESET_COMPLETE, R391. -/
  | queueResetComplete (q : QueueRef)
  /-- CQ_RESET, R392. -/
  | cqReset (c : CqRef)
  /-- WQ_DOORBELL, R376. -/
  | wqDoorbell (q : QueueRef)
  /-- PUSH_DOORBELL, R378. -/
  | pushDoorbell (q : QueueRef) (data : Bytes) (full : Bool)
  /-- WQ_SHADOW_READ, R376. -/
  | wqShadowRead (q : QueueRef) (pi : Option (BitVec 32))
  /-- WQ_FETCH, R373. -/
  | wqFetch (q : QueueRef) (e : HostRead) (host : HostRead) (cust : HostRead)
  /-- WQ_CI_WRITE, R375. -/
  | wqCiWrite (q : QueueRef)
  /-- CQ_DOORBELL, R382. -/
  | cqDoorbell (c : CqRef) (ci : Option (BitVec 32))
  /-- CQ_CI_POLL, R382. -/
  | cqCiPoll (c : CqRef) (ci : Option (BitVec 32))
  /-- CQ_OVERFLOW_DRAIN, R383. -/
  | cqOverflowDrain (c : CqRef)
  /-- CQ_MOD_TIMER, R385. -/
  | cqModTimer (c : CqRef)
  /-- MSIX_SEND, R387. -/
  | msixSend (v : Fin 2048)
  /-- HOST_D_STATE_CHANGE, R388. -/
  | hostDStateChange (d3 : Bool) (busMaster : Bool) (pmeEn : Bool) (linkUp : Bool)
  /-- PME_REPEAT, R388. -/
  | pmeRepeat (linkUp : Bool)
  /-- KENNEL_CREATE, R396. -/
  | kennelCreate (mb : Mb) (m : Msg)
  /-- KENNEL_DESTROY, R406. -/
  | kennelDestroy (mb : Mb) (m : Msg)
  /-- SET_SHARE, R400. -/
  | setShare (mb : Mb) (m : Msg)
  /-- GET_SHARE, R451. -/
  | getShare (mb : Mb) (m : Msg)
  /-- KENNEL_RESET, R408. -/
  | kennelReset (mb : Mb) (m : Msg)
  /-- KENNEL_RESET_DONE, R410. -/
  | kennelResetDone (k : Fin 256)
  /-- KENNEL_DRAIN_OVERRUN, R503. -/
  | kennelDrainOverrun (k : Fin 256)
  /-- TS_READ, R423. -/
  | tsRead (q : QueueRef) (e : Bytes)
  /-- TS_WRITE, R423. -/
  | tsWrite (q : QueueRef) (e : Bytes)
  /-- TS_FILL, R423. -/
  | tsFill (q : QueueRef) (e : Bytes)
  /-- TS_FLUSH, R427. -/
  | tsFlush (q : QueueRef) (e : Bytes)
  /-- TS_ISSUE, R430. -/
  | tsIssue (order : Nat)
  /-- TS_PIECE_COMPLETE, R426. -/
  | tsPieceComplete (order : Nat) (off : Nat) (host : HostRead)
  /-- TS_CREATE, R419. -/
  | tsCreate (mb : Mb) (m : Msg)
  /-- TS_ZERO_DONE, R419. -/
  | tsZeroDone (k : Fin 256)
  /-- TS_DELETE, R420. -/
  | tsDelete (mb : Mb) (m : Msg)
  /-- TS_INFO, R451. -/
  | tsInfo (mb : Mb) (m : Msg)
  /-- TS_SELFTEST, R433. -/
  | tsSelftest (mb : Mb) (m : Msg)
  /-- TS_SELFTEST_STOP, R433. -/
  | tsSelftestStop (mb : Mb) (m : Msg)
  /-- TS_SELFTEST_STATUS, R451. -/
  | tsSelftestStatus (mb : Mb) (m : Msg)
  /-- SELFTEST_UNIT, R434. -/
  | selftestUnit (ch : Fin 16) (unit : Nat) (bad : List (Fin 16)) (ueAfter : List (Fin 16)) (aclk : Nat)
  /-- SELFTEST_SUSPEND, R435. -/
  | selftestSuspend (ch : Fin 16)
  /-- SELFTEST_RESUME, R435. -/
  | selftestResume (ch : Fin 16)
  /-- BOOT, R447. -/
  | boot (env : BootEnv)
  /-- HELLO, R451. -/
  | hello (mb : Mb) (m : Msg)
  /-- GET_VERSION, R451. -/
  | getVersion (mb : Mb) (m : Msg)
  /-- GET_ENVIRONMENT, R458. -/
  | getEnvironment (mb : Mb) (m : Msg) (fresh : Bytes)
  /-- GET_LOG, R451. -/
  | getLog (mb : Mb) (m : Msg)
  /-- GET_MLOG, R461. -/
  | getMlog (mb : Mb) (m : Msg)
  /-- GET_IDENTITY, R460. -/
  | getIdentity (mb : Mb) (m : Msg)
  /-- ATTEST, R462. -/
  | attest (mb : Mb) (m : Msg)
  /-- BIND_QUARANTINE, R454. -/
  | bindQuarantine (mb : Mb) (m : Msg)
  /-- BIND_VERDICT, R453. -/
  | bindVerdict (mb : Mb) (m : Msg)
  /-- FW_WRITE, R455. -/
  | fwWrite (mb : Mb) (m : Msg) (host : HostRead)
  /-- FW_VERIFY, R455. -/
  | fwVerify (mb : Mb) (m : Msg)
  /-- FW_ACTIVATE, R456. -/
  | fwActivate (mb : Mb) (m : Msg)
  /-- FW_ACTIVATE_DRAIN_DONE, R456. -/
  | fwActivateDrainDone (runtime : Bytes)
  /-- FW_ACTIVATE_TIMEOUT, R456. -/
  | fwActivateTimeout
  /-- FW_READY_TIMEOUT, R456. -/
  | fwReadyTimeout
  /-- FW_SET_BOOT, R455. -/
  | fwSetBoot (mb : Mb) (m : Msg)
  /-- ENVIRONMENT_MEASURE, R459. -/
  | environmentMeasure (report : Bytes)
  /-- HERDER_WATCHDOG_EXPIRE, R506. -/
  | herderWatchdogExpire
  /-- LEASH_LINK_UP, R475. -/
  | leashLinkUp (p : Fin 4) (tof : Nat) (lanes : Fin 5)
  /-- LEASH_LINK_DOWN, R467. -/
  | leashLinkDown (p : Fin 4)
  /-- LEASH_LINK_RETRAIN, R467. -/
  | leashLinkRetrain (p : Fin 4)
  /-- LEASH_FRAME_RECEIVE, R467. -/
  | leashFrameReceive (p : Fin 4) (fseq : BitVec 16) (crcOk : Bool) (f : Bytes)
  /-- LEASH_ACK_TIMER, R467. -/
  | leashAckTimer (p : Fin 4)
  /-- ACK, R469. -/
  | ack (p : Fin 4) (fseq : BitVec 16)
  /-- NACK, R469. -/
  | nack (p : Fin 4) (fseq : BitVec 16)
  /-- PROBE, R469. -/
  | probe (p : Fin 4) (num : Nat) (t1 : BitVec 64) (t2 : BitVec 64) (t3 : BitVec 64)
  /-- ECHO, R469. -/
  | echo (p : Fin 4) (num : Nat) (t1 : BitVec 64) (t2 : BitVec 64) (t3 : BitVec 64) (t4 : BitVec 64)
  /-- CAP, R476. -/
  | cap (p : Fin 4) (record : BitVec 64)
  /-- TOF_MEASURE, R475. -/
  | tofMeasure (p : Fin 4) (raw : Nat)
  /-- WALK, R472. -/
  | walk (p : Fin 4) (w : WalkBody)
  /-- WALK_TIMEOUT, R473. -/
  | walkTimeout
  /-- CHAIN_DONE, R472. -/
  | chainDone (p : Fin 4) (gen : BitVec 16) (count : BitVec 32) (ring : Bool)
  /-- CHAIN_ABORT, R473. -/
  | chainAbort (p : Fin 4) (gen : BitVec 16)
  /-- CHAIN_BREAK, R477. -/
  | chainBreak (p : Fin 4) (id : BitVec 16)
  /-- CHAIN_MEND, R477. -/
  | chainMend (p : Fin 4)
  /-- EPOCH_MARK, R479. -/
  | epochMark (p : Fin 4) (num : BitVec 48) (delay : BitVec 32) (epLen : BitVec 32) (dt : Nat) (hold : Nat) (period : Nat)
  /-- LEASH_VERDICT, R481. -/
  | leashVerdict (p : Fin 4) (dt : Nat) (msg : Bytes) (lat : BitVec 32)
  /-- XDATA, R484. -/
  | xdata (p : Fin 4) (hdr : LHdr) (jobkey : BitVec 64) (off : Nat) (total : Nat) (seq : BitVec 64) (data : Bytes)
  /-- XCREDIT, R484. -/
  | xcredit (p : Fin 4) (hdr : LHdr) (jobkey : BitVec 64) (n : Nat)
  /-- XEND, R484. -/
  | xend (p : Fin 4) (hdr : LHdr) (jobkey : BitVec 64)
  /-- XABORT, R486. -/
  | xabort (p : Fin 4) (hdr : LHdr) (jobkey : BitVec 64) (status : Nat)
  /-- CHAIN_STATUS, R487. -/
  | chainStatus (mb : Mb) (m : Msg)
  /-- CHAIN_WALK, R487. -/
  | chainWalk (mb : Mb) (m : Msg)
  /-- CHAIN_SET_HEAD, R471. -/
  | chainSetHead (mb : Mb) (m : Msg)
  /-- LINK_RESET, R487. -/
  | linkReset (mb : Mb) (m : Msg)
  /-- SET_VFAN, R481. -/
  | setVfan (mb : Mb) (m : Msg)
  /-- PWR_ENTER_P1, R494. -/
  | pwrEnterP1 (mb : Mb) (m : Msg)
  /-- PWR_ENTER_P2, R494. -/
  | pwrEnterP2 (mb : Mb) (m : Msg)
  /-- PWR_ENTER_P3, R494. -/
  | pwrEnterP3 (mb : Mb) (m : Msg)
  /-- PWR_ENTER_P4, R494. -/
  | pwrEnterP4 (mb : Mb) (m : Msg)
  /-- PWR_EXIT, R494. -/
  | pwrExit (mb : Mb) (m : Msg)
  /-- PWR_STATUS, R511. -/
  | pwrStatus (mb : Mb) (m : Msg)
  /-- WARM_RESET, R498. -/
  | warmReset (mb : Mb) (m : Msg) (tagError : Bool)
  /-- COLD_RESET, R499. -/
  | coldReset (mb : Mb) (m : Msg)
  /-- PERST, R496. -/
  | perst (strap : Bool)
  /-- POWER_ON, R534. -/
  | powerOn (strap : Bool)
  /-- POWER_LIMIT_CHECK, R492. -/
  | powerLimitCheck (mA : Nat) (mW : Nat) (temp16 : Int)
  /-- RAIL_OUT_OF_RANGE, R534. -/
  | railOutOfRange (rail : Fin 7)
  /-- PMB_ALERT, R536. -/
  | pmbAlert (words : List (Option (BitVec 16)))
  /-- THERMAL_TRIP, R546. -/
  | thermalTrip (temp16 : Int)
  /-- EVT_TEST, R529. -/
  | evtTest (val : BitVec 32)
  /-- EVT_STATUS_CLEAR, R520. -/
  | evtStatusClear (idx : Fin 16) (val : BitVec 64) (raised : BitVec 64)
  /-- EVT_MASK_WRITE, R520. -/
  | evtMaskWrite (idx : Fin 16) (val : BitVec 64)
  /-- EVT_ROUTE_WRITE, R523. -/
  | evtRouteWrite (src : Fin 1024) (val : BitVec 32)
  /-- KN_EVENT_CLEAR, R527. -/
  | knEventClear (k : Fin 256) (val : BitVec 64) (raised : BitVec 2)
  /-- MSIX_UNMASK, R387. -/
  | msixUnmask (t : UnmaskTarget)
  /-- TAP_INSTRUCTION, R542. -/
  | tapInstruction (ir : BitVec 8) (released : Bool)
  /-- INGEST_LINK_UP, R42. -/
  | ingestLinkUp (g : Fin 4) (port : Fin 4)
  /-- INGEST_LINK_DOWN, R458. -/
  | ingestLinkDown (g : Fin 4) (port : Fin 4)
  /-- PAUSE_FRAME_RECEIVE, R33. -/
  | pauseFrameReceive (g : Fin 4) (port : Fin 4) (classes : BitVec 8) (quanta : Nat)
  /-- RAWLINK_IDLE_BLOCK, R42. -/
  | rawlinkIdleBlock (g : Fin 4) (lane : Fin 4)
  /-- RESERVED_INSTRUCTION, R218. -/
  | reservedInstruction (h : Fin 128) (word : BitVec 32)
  /-- MAILBOX_BAD_OPCODE, R450. -/
  | mailboxBadOpcode (mb : Mb) (opcode : BitVec 16) (m : Msg)
  /-- MAILBOX_BUSY_WRITE, R449. -/
  | mailboxBusyWrite (mb : Mb)
  /-- HERDER_CORE_LOCKUP, R506. -/
  | herderCoreLockup (core : Fin 4)
  /-- GRID_LINK_RETRY_FAIL, R504. -/
  | gridLinkRetryFail (die : Fin 4)
  /-- POWER_DOWN, R535. -/
  | powerDown (aon : Bool)
  /-- LEASH_EXCH_TILE, R483. -/
  | leashExchTile (v : VertexRef)
  deriving DecidableEq, Repr

end Sys2Proof
end

