-- ==== Sys2Proof/Decode.lean ====
section
/-! DEFINITION. Decoding by the table's bits. The table gives no row any bits: the
commands of this block are operations and events, and none is spelt by a word. -/

namespace Sys2Proof

/-- The command that a word spells by the table's bits: none, since no row of the
table has bits. (DEDUCED, safe: log entry 8.) -/
def decodeTableWord (nbits w : Nat) : Option Instr :=
  match nbits, w with
  | _, _ => none

end Sys2Proof
end

