-- ==== Sys2Proof/Machine/Bits.lean ====
section
/-! DEFINITION. Byte order, bit fields, packed arrays, sparse tables and the two
CRCs of the manual, as pure functions. -/

namespace Sys2Proof.Machine

open Sys2Proof

/-! ### Bytes and fields -/

/-- Bits `lo` to `lo + w - 1` of `v`. -/
def field (v lo w : Nat) : Nat := (v >>> lo) % 2 ^ w

/-- `v` with bits `lo` to `lo + w - 1` replaced by `x`. -/
def setField (v lo w x : Nat) : Nat :=
  v - (field v lo w) * 2 ^ lo + (x % 2 ^ w) * 2 ^ lo

/-- Bit `i` of `v`. -/
def bitAt (v i : Nat) : Bool := v.testBit i

/-- A Boolean as a bit. -/
def b2n (b : Bool) : Nat := if b then 1 else 0

/-- The value of a little-endian byte string (R6). -/
def leNat : Bytes → Nat
  | [] => 0
  | b :: bs => b.toNat + 256 * leNat bs

/-- The `n` low bytes of `v`, little-endian. -/
def toLe : Nat → Nat → Bytes
  | 0, _ => []
  | n + 1, v => BitVec.ofNat 8 v :: toLe n (v / 256)

/-- The `n` low bytes of `v`, big-endian (R37). -/
def toBe (n v : Nat) : Bytes := (toLe n v).reverse

/-- `len` bytes from `off`; bytes beyond the end read as 0. -/
def slice (b : Bytes) (off len : Nat) : Bytes :=
  let s := (b.drop off).take len
  s ++ List.replicate (len - s.length) 0

/-- The little-endian field of `n` bytes at `off` (R6). -/
def le (b : Bytes) (off n : Nat) : Nat := leNat ((b.drop off).take n)

/-- The big-endian field of `n` bytes at `off` (R37). -/
def be (b : Bytes) (off n : Nat) : Nat := leNat ((slice b off n).reverse)

/-- Every byte of `len` bytes from `off` is 0. -/
def zeroes (b : Bytes) (off len : Nat) : Bool := ((b.drop off).take len).all (· == 0)

/-- `b` with `d` written from `off`, kept at its length. -/
def putAt (b : Bytes) (off : Nat) (d : Bytes) : Bytes :=
  if off ≥ b.length then b
  else (b.take off ++ d ++ b.drop (off + d.length)).take b.length

/-- The least multiple of `m` not below `n`. -/
def alignUp (n m : Nat) : Nat := (n + m - 1) / m * m

/-- ⌈n / m⌉. -/
def ceilDiv (n m : Nat) : Nat := (n + m - 1) / m

/-- `b` padded with zero bytes to a multiple of `m`. -/
def padTo (m : Nat) (b : Bytes) : Bytes :=
  b ++ List.replicate (alignUp b.length m - b.length) 0

/-- `n` zero bytes. -/
def zeros (n : Nat) : Bytes := List.replicate n 0

/-- The signed value of the `w`-bit pattern `v`. -/
def signed (w v : Nat) : Int :=
  let u := v % 2 ^ w
  if 2 * u < 2 ^ w then (u : Int) else (u : Int) - 2 ^ w

/-- The `w`-bit pattern of an integer. -/
def pattern (w : Nat) (x : Int) : Nat := (x % (2 ^ w : Int)).toNat

/-- `v` sign-extended from `w` bits to 64. -/
def sext64 (w v : Nat) : Nat := pattern 64 (signed w v)

/-- The number of 1 bits below bit `n`. -/
def popCount : Nat → Nat → Nat
  | 0, _ => 0
  | n + 1, v => b2n (v.testBit n) + popCount n v

/-- The index of the lowest 1 bit below `n`, or `n`. -/
def lowestBit (n v : Nat) : Nat :=
  ((List.range n).find? (fun i => v.testBit i)).getD n

/-- `x - y` modulo 2^`w`, read as a signed value (R50, R54). -/
def signedDiff (w x y : Nat) : Int := signed w (x + 2 ^ w - y % 2 ^ w)

/-! ### Packed arrays (R69) -/

/-- The length in bytes of a packed array of `e` fields of `w` bits. -/
def packedLen (e w : Nat) : Nat := 8 * ceilDiv (e * w) 64

/-- `e` fields of `w` bits from a stream value. -/
def unpackNat : Nat → Nat → Nat → List Nat
  | 0, _, _ => []
  | e + 1, w, v => v % 2 ^ w :: unpackNat e w (v >>> w)

/-- The first `e` fields of `w` bits of a packed array. -/
def unpack (e w : Nat) (b : Bytes) : List Nat :=
  unpackNat e w (leNat (b.take (packedLen e w)))

/-- The stream value of fields of `w` bits. -/
def packNat (w : Nat) : List Nat → Nat
  | [] => 0
  | x :: xs => x % 2 ^ w + 2 ^ w * packNat w xs

/-- A packed array of fields of `w` bits. -/
def pack (w : Nat) (xs : List Nat) : Bytes :=
  toLe (packedLen xs.length w) (packNat w xs)

/-- Field `i` of a packed array of `w`-bit fields. -/
def packedAt (b : Bytes) (w i : Nat) : Nat :=
  let byte := i * w / 8
  (leNat ((b.drop byte).take (w / 8 + 2)) >>> (i * w % 8)) % 2 ^ w

/-! ### Tables -/

/-- The entry of `k`, if the table has one. -/
def tfind? {α : Type} (t : Tbl α) (k : Nat) : Option α :=
  match t with
  | [] => none
  | (j, a) :: r => if j = k then some a else tfind? r k

/-- The entry of `k`, or `d`. -/
def tget {α : Type} (t : Tbl α) (k : Nat) (d : α) : α := (tfind? t k).getD d

/-- The table without `k`. -/
def tdel {α : Type} (t : Tbl α) (k : Nat) : Tbl α := t.filter (fun e => e.1 != k)

/-- The table with `a` at `k`, kept in rising order of number. -/
def tset {α : Type} (t : Tbl α) (k : Nat) (a : α) : Tbl α :=
  match t with
  | [] => [(k, a)]
  | (j, b) :: r =>
    if k < j then (k, a) :: (j, b) :: r
    else if k = j then (k, a) :: r
    else (j, b) :: tset r k a

/-- The table with `f` applied to the entry of `k`, where there is one. -/
def tmod {α : Type} (t : Tbl α) (k : Nat) (f : α → α) : Tbl α :=
  t.map (fun e => if e.1 = k then (e.1, f e.2) else e)

/-- Element `i` of a list replaced by its image under `f`. -/
def lmod {α : Type} (l : List α) (i : Nat) (f : α → α) : List α :=
  l.mapIdx (fun j a => if j = i then f a else a)

/-- `x` added at the end unless the list holds it. -/
def addNew {α : Type} [BEq α] (l : List α) (x : α) : List α :=
  if l.contains x then l else l ++ [x]

/-- Every element differs from every other. -/
def allDistinct {α : Type} [BEq α] : List α → Bool
  | [] => true
  | x :: xs => !xs.contains x && allDistinct xs

/-- A sum over a list. -/
def sumOf {α : Type} (l : List α) (f : α → Nat) : Nat := l.foldl (fun n a => n + f a) 0

/-- `l` sorted by `lt`, equal elements kept in order. -/
def insertBy {α : Type} (lt : α → α → Bool) (a : α) : List α → List α
  | [] => [a]
  | b :: r => if lt a b then a :: b :: r else b :: insertBy lt a r

/-- Insertion sort, stable: an element goes behind those it does not precede. -/
def sortBy {α : Type} (lt : α → α → Bool) (l : List α) : List α :=
  l.foldl (fun acc a => insertBy lt a acc) []

/-! ### CRCs -/

/-- One bit of a reflected CRC. -/
def crcBit (poly : Nat) : Nat → Nat → Nat
  | 0, c => c
  | n + 1, c => crcBit poly n (if c % 2 = 1 then (c / 2) ^^^ poly else c / 2)

/-- A reflected CRC register after some bytes. The match is there so that an evaluation
knows the register after each byte; both arms go on with it. -/
def crcRun (poly : Nat) (c : Nat) : Bytes → Nat
  | [] => c
  | x :: r =>
    match crcBit poly 8 (c ^^^ x.toNat) with
    | 0 => crcRun poly 0 r
    | n + 1 => crcRun poly (n + 1) r

/-- CRC-32C (R38): polynomial 0x1EDC_6F41, reflected. -/
def crc32c (b : Bytes) : Nat := crcRun 0x82F63B78 0xFFFFFFFF b ^^^ 0xFFFFFFFF

/-- IEEE 802.3 CRC-32 (R41): polynomial 0x04C1_1DB7, reflected. -/
def crc32 (b : Bytes) : Nat := crcRun 0xEDB88320 0xFFFFFFFF b ^^^ 0xFFFFFFFF

end Sys2Proof.Machine
end

