-- ==== Sys2Proof/Machine/Float.lean ====
section
/-! DEFINITION. IEEE 754 binary32 and binary64 on bit patterns: exact values as
an integer times a power of two, and one rounding at the end (R77, R150, R267,
R268). -/

namespace Sys2Proof.Machine

open Sys2Proof

/-- Fraction bits of the format of `w` bits. -/
def fMant (w : Nat) : Nat := if w = 64 then 52 else 23

/-- Exponent bits of the format of `w` bits. -/
def fExpBits (w : Nat) : Nat := if w = 64 then 11 else 8

/-- The pattern of +∞, which is also the least magnitude that is no number. -/
def fInf (w : Nat) : Nat := (2 ^ fExpBits w - 1) * 2 ^ fMant w

/-- The NaN that every operation returns: sign 0, top fraction bit set (R267). -/
def fNaN (w : Nat) : Nat := fInf w + 2 ^ (fMant w - 1)

/-- The magnitude bits. -/
def fMag (w v : Nat) : Nat := v % 2 ^ (w - 1)

/-- The sign bit. -/
def fSign (w v : Nat) : Bool := bitAt v (w - 1)

def fIsNaN (w v : Nat) : Bool := fInf w < fMag w v
def fIsInf (w v : Nat) : Bool := fInf w == fMag w v
def fIsZero (w v : Nat) : Bool := fMag w v == 0

/-- The key of totalOrder (R77): it rises from −NaN to +NaN. -/
def fTotalKey (w v : Nat) : Int :=
  if fSign w v then -(fMag w v : Int) - 1 else fMag w v

/-- The key of the IEEE comparison of values that are not NaN: −0 equals +0. -/
def fValueKey (w v : Nat) : Int :=
  if fSign w v then -(fMag w v : Int) else fMag w v

/-- IEEE comparisons (R150): any NaN makes them false. -/
def fEq (w a b : Nat) : Bool := !fIsNaN w a && !fIsNaN w b && fValueKey w a == fValueKey w b
def fLt (w a b : Nat) : Bool := !fIsNaN w a && !fIsNaN w b && fValueKey w a < fValueKey w b
def fLe (w a b : Nat) : Bool := !fIsNaN w a && !fIsNaN w b && fValueKey w a ≤ fValueKey w b

/-- The exponent of the least significant bit of a subnormal. -/
def fMinExp (w : Nat) : Int := 2 - 2 ^ (fExpBits w - 1) - fMant w

/-- A finite pattern as significand and exponent: it stands for `m · 2^e`. -/
def fDecode (w v : Nat) : Nat × Int :=
  let mag := fMag w v
  let e := mag >>> fMant w
  let f := mag % 2 ^ fMant w
  if e = 0 then (f, fMinExp w) else (f + 2 ^ fMant w, fMinExp w + (e - 1 : Nat))

/-- `n / d` to the nearest integer, ties to even. -/
def divEven (n d : Nat) : Nat :=
  let q := n / d
  let r := n % d
  if 2 * r > d || (2 * r == d && q % 2 == 1) then q + 1 else q

/-- The pattern nearest to `(n / d) · 2^e`, ties to even, with the sign given. -/
def fRound (w : Nat) (sign : Bool) (n d : Nat) (e : Int) : Nat :=
  let s := if sign then 2 ^ (w - 1) else 0
  if n = 0 then s
  else
    let lead : Int := (Nat.log2 n : Int) - Nat.log2 d + e
    let q := max (fMinExp w) (lead - fMant w - 1)
    let sh := e - q
    let m := if sh ≥ 0 then divEven (n * 2 ^ sh.toNat) d else divEven n (d * 2 ^ (-sh).toNat)
    let (m, q) :=
      if m ≥ 2 ^ (fMant w + 1) then
        let q' := q + 1
        let sh' := e - q'
        (if sh' ≥ 0 then divEven (n * 2 ^ sh'.toNat) d else divEven n (d * 2 ^ (-sh').toNat), q')
      else (m, q)
    let code := (q - fMinExp w).toNat * 2 ^ fMant w + m
    s + min code (fInf w)

/-- A finite pattern as a signed significand. -/
def fSigned (w v : Nat) : Int × Int :=
  let (m, e) := fDecode w v
  (if fSign w v then -(m : Int) else m, e)

/-- Sum of two finite values, rounded; an exact zero of unlike signs is +0. -/
def fAddFinite (w a b : Nat) : Nat :=
  let (ma, ea) := fSigned w a
  let (mb, eb) := fSigned w b
  let e := min ea eb
  let x := ma * 2 ^ (ea - e).toNat + mb * 2 ^ (eb - e).toNat
  if x = 0 then (if fSign w a && fSign w b then 2 ^ (w - 1) else 0)
  else fRound w (decide (x < 0)) x.natAbs 1 e

/-- The value with its sign inverted. -/
def fNegate (w v : Nat) : Nat := if fSign w v then fMag w v else fMag w v + 2 ^ (w - 1)

/-- IEEE addition, nearest even (R267). -/
def fAdd (w a b : Nat) : Nat :=
  if fIsNaN w a || fIsNaN w b then fNaN w
  else if fIsInf w a then
    (if fIsInf w b && fSign w a != fSign w b then fNaN w else a)
  else if fIsInf w b then b
  else fAddFinite w a b

/-- IEEE subtraction. -/
def fSub (w a b : Nat) : Nat :=
  if fIsNaN w a || fIsNaN w b then fNaN w else fAdd w a (fNegate w b)

/-- IEEE multiplication. -/
def fMul (w a b : Nat) : Nat :=
  let s := fSign w a != fSign w b
  if fIsNaN w a || fIsNaN w b then fNaN w
  else if fIsInf w a || fIsInf w b then
    (if fIsZero w a || fIsZero w b then fNaN w else fInf w + (if s then 2 ^ (w - 1) else 0))
  else
    let (ma, ea) := fDecode w a
    let (mb, eb) := fDecode w b
    fRound w s (ma * mb) 1 (ea + eb)

/-- IEEE division. -/
def fDiv (w a b : Nat) : Nat :=
  let s := fSign w a != fSign w b
  let sb := if s then 2 ^ (w - 1) else 0
  if fIsNaN w a || fIsNaN w b then fNaN w
  else if fIsInf w a then (if fIsInf w b then fNaN w else fInf w + sb)
  else if fIsInf w b then sb
  else if fIsZero w b then (if fIsZero w a then fNaN w else fInf w + sb)
  else
    let (ma, ea) := fDecode w a
    let (mb, eb) := fDecode w b
    fRound w s ma mb (ea - eb)

/-- FMIN (R267): a NaN yields to the other operand; −0 counts below +0. -/
def fMin (w a b : Nat) : Nat :=
  if fIsNaN w a then (if fIsNaN w b then fNaN w else b)
  else if fIsNaN w b then a
  else if fTotalKey w b < fTotalKey w a then b else a

/-- FMAX (R267). -/
def fMax (w a b : Nat) : Nat :=
  if fIsNaN w a then (if fIsNaN w b then fNaN w else b)
  else if fIsNaN w b then a
  else if fTotalKey w a < fTotalKey w b then b else a

/-- The exact integer part and remainder of `x / 2^s` as floor, with the fraction
kept over `2^s`. -/
def floorDiv (x : Int) (s : Nat) : Int × Nat := (x / 2 ^ s, (x % 2 ^ s).toNat)

/-- The rounding modes of R254 applied to `x / 2^s`. -/
def rnd (rm : Nat) (x : Int) (s : Nat) : Int :=
  let (q, f) := floorDiv x s
  let half := 2 ^ s
  match rm with
  | 0 => if 2 * f ≥ half && s > 0 then q + 1 else q
  | 1 => if 2 * f > half || (2 * f == half && s > 0 && q % 2 == 1) then q + 1 else q
  | 2 => q
  | _ => if x < 0 && f != 0 then q + 1 else q

/-- SAT_S of R255. -/
def satS (w : Nat) (y : Int) : Int := max (-(2 ^ (w - 1))) (min (2 ^ (w - 1) - 1) y)

/-- SAT_U of R255. -/
def satU (w : Nat) (y : Int) : Int := max 0 (min (2 ^ w - 1) y)

/-- Signed integer to a float of the same width, nearest even (R268). -/
def i2f (w v : Nat) : Nat :=
  let x := signed w v
  fRound w (decide (x < 0)) x.natAbs 1 0

/-- The value of a finite float rounded to an integer (R254). -/
def fToInt (rm w v : Nat) : Int :=
  let (m, e) := fSigned w v
  if e ≥ 0 then m * 2 ^ e.toNat else rnd rm m (-e).toNat

/-- F2I of R268, before SAT_S: NaN gives 0 and an infinity lies beyond the range. -/
def f2iExact (rm w v : Nat) : Int :=
  if fIsNaN w v then 0
  else if fIsInf w v then (if fSign w v then -(2 ^ w) else 2 ^ w)
  else fToInt rm w v

/-- A binary32 pattern as the binary64 pattern of the same value. -/
def f32to64 (v : Nat) : Nat :=
  if fIsNaN 32 v then fNaN 64
  else if fIsInf 32 v then fInf 64 + (if fSign 32 v then 2 ^ 63 else 0)
  else
    let (m, e) := fDecode 32 v
    fRound 64 (fSign 32 v) m 1 e

end Sys2Proof.Machine
end

