-- ==== Sys2Proof/Machine/Arbiter.lean ====
section
/-! DEFINITION. Round-robin arbiters with ageing (R358, R379, R507): the pointer, the
rounds that each requester has lost, and who wins. -/

namespace Sys2Proof.Machine

open Sys2Proof

/-- The next of the ready requesters, in rising order, after the last winner. -/
def rrNext (last : Nat) (ready : List Nat) : Option Nat :=
  match ready.find? (fun n => last < n) with
  | some n => some n
  | none => ready.head?

/-- The winner of a round: an urgent requester before every other. -/
def rrPick (age last : Nat) (lost : Tbl Nat) (ready : List Nat) : Option Nat :=
  let urgent := ready.filter (fun n => age ≤ tget lost n 0)
  rrNext last (if urgent.isEmpty then ready else urgent)

/-- The rounds lost after a grant to `win`; a requester that was not ready starts again. -/
def rrLost (lost : Tbl Nat) (ready : List Nat) (win : Nat) : Tbl Nat :=
  (ready.filter (· != win)).foldl (fun t n => tset t n (tget lost n 0 + 1)) []

/-- An arbiter: the last winner, and the rounds that each requester has lost in a row;
`inner` holds the arbiter within each requester. -/
structure ArbSt where
  last : Nat := 65535
  lost : Tbl Nat := []
  inner : Tbl (Nat × Tbl Nat) := []
  deriving DecidableEq, Repr

/-- The winner among the ready requesters. -/
def ArbSt.pick (a : ArbSt) (age : Nat) (ready : List Nat) : Option Nat := rrPick age a.last a.lost ready

/-- The arbiter after its grant to `w`. -/
def ArbSt.won (a : ArbSt) (ready : List Nat) (w : Nat) : ArbSt :=
  { a with last := w, lost := rrLost a.lost ready w }

end Sys2Proof.Machine
end

