-- ==== Sys2Proof/Config.lean ====
section
/-! DEFINITION. What an implementation fixes or the spec leaves open: constants
without a body, so that no proof can rest on a value of theirs. -/

namespace Sys2Proof

/-- The stream of free choices: the nth choice that the spec leaves open takes
`freeNat n` (DESIGN CHOICE, safe: log entry 2). -/
opaque Config.freeNat : Nat → Nat

/-- The stream of free byte strings: the nth open string of a given length
(log entry 2). Only its first `len` bytes are used. -/
opaque Config.freeBytes : Nat → Nat → Nat

/-- What a line of an eighth of DRAM that was lost reads as before it has been zeroed,
and whether it reads as poisoned (R350): from a free number and the line. -/
opaque Config.lostLine : Nat → Nat → Nat
opaque Config.lostPoison : Nat → Nat → Bool

/-- Whether a row decoded in a job takes the old entry at a code of a table-space
dictionary that software has written meanwhile (R78): from the count of free values taken,
the row and the code. -/
opaque Config.dictOld : Nat → Nat → Nat → Bool

/-- The bin of a value on a float axis where binary64 gives its index as an infinity or a
NaN (R183): from LO, HI and the value. -/
opaque Config.openBin : Nat → Nat → Nat → Nat

/-- The interface delay that a re-tune settled, by the number of the free choice that it
took, the channel, and DDR_DLY_SEL (R345). -/
opaque Config.delayValue : Nat → Nat → Nat → Nat

/-- The Ruisk runtime's handler of a cause as a word of RTCODE, the window that its
vector entry names, and the base of its stack in lines of SPAD_RT (R272, R274): the
manual gives the runtime no layout. (DEDUCED, safe: log entry 33.) -/
opaque Config.runtimeEntry : Nat → Nat
opaque Config.runtimeWindow : Nat → Nat
opaque Config.runtimeStack : Nat

/-- The grade of the device: true for EPN-7740-FE, false for EPN-7740-FC (R3). -/
opaque Config.gradeFe : Bool

/-- What an 8-bit TAP instruction code stands for: 1 IDCODE, 2 SAMPLE/PRELOAD, 3 EXTEST,
4 CLAMP, 5 HIGHZ, anything else BYPASS; the manual gives no codes (R542).
(PRESUMED, unsafe: log entry 52.) -/
opaque Config.tapCode : Nat → Nat

/-- The ROM version that GET_VERSION reports (R451; DESIGN CHOICE, safe: log entry 6). -/
opaque Config.romVersion : Nat

/-- The device identity that GET_IDENTITY returns: the public key (R462). -/
opaque Config.identityKey : Nat → Nat

/-- Bytes of the device certificate, at most 2,048 (R451). -/
opaque Config.certLength : Nat

/-- The fused key hashes, 32 bytes as a little-endian number, and the fused revocation
bits (R446). -/
opaque Config.keyHash : Nat → Nat
opaque Config.keyRevoked : Nat → Bool

/-- The device certificate of GET_IDENTITY (R462), as bytes by index. -/
opaque Config.certificate : Nat → Nat

/-- The Ed448 signature of ATTEST over a message (R462), as bytes by index. -/
opaque Config.ed448Sign : List Nat → Nat → Nat

/-- Whether an Ed448 signature over an image verifies under a key (R444). -/
opaque Config.ed448Verify : List Nat → List Nat → List Nat → Bool

/-- The earlier positions that the compressor compares at a position of a block, as
distances in the order of comparing (R304, R305): from the level, the window, the history
(newest byte first), the bytes of the block and the position in it. The level says how many
of them are compared (DESIGN CHOICE, safe: log entry 42). -/
opaque Config.candidates : Nat → Nat → List Nat → List Nat → Nat → List Nat

end Sys2Proof
end

