-- ==== Sys2Proof/Machine/Tiles.lean ====
section
/-! DEFINITION. Tiles, strips and encodings (R62 to R86): reading a tile with the
two-stage check of R85, and building the tiles that engines emit. -/

namespace Sys2Proof.Machine

open Sys2Proof

/-! ### Types -/

/-- Width in bits of a logical type; 0 for a reserved TYPE (R67). -/
def tyWidth (ty : Nat) : Nat :=
  match ty with
  | 0 => 1
  | 1 | 2 | 9 => 8
  | 3 | 4 | 0xA => 16
  | 5 | 6 | 0xB | 0xC => 32
  | 7 | 8 | 0xD => 64
  | _ => 0

/-- TYPE is one of R67. -/
def tyOk (ty : Nat) : Bool := ty ≤ 0xD

/-- Integer types 0x01 to 0x0B, fixed point included (R68). -/
def tyInteger (ty : Nat) : Bool := 1 ≤ ty && ty ≤ 0xB

/-- Fixed-point types. -/
def tyFixed (ty : Nat) : Bool := 9 ≤ ty && ty ≤ 0xB

/-- FLOAT32 and FLOAT64. -/
def tyFloat (ty : Nat) : Bool := ty == 0xC || ty == 0xD

/-- The value is a signed two's-complement integer. -/
def tySigned (ty : Nat) : Bool := ty == 1 || ty == 3 || ty == 5 || ty == 7 || tyFixed ty

/-- FRAC is in range for TYPE (R67). -/
def fracOk (ty frac : Nat) : Bool := if tyFixed ty then frac < tyWidth ty else frac == 0

/-- The integer that a pattern of an integer type stands for. -/
def valInt (ty v : Nat) : Int :=
  if tySigned ty then signed (tyWidth ty) v else ((v % 2 ^ tyWidth ty : Nat) : Int)

/-- A 64-bit field holds a value of TYPE as BASE does (R73). -/
def baseOk (ty v : Nat) : Bool :=
  if tySigned ty then sext64 (tyWidth ty) v == v else v < 2 ^ tyWidth ty

/-- The value of TYPE as BASE holds it (R73). -/
def asBase (ty v : Nat) : Nat :=
  if tySigned ty then sext64 (tyWidth ty) v else v % 2 ^ tyWidth ty

/-! ### Status codes (R86) -/

def eTileFormat : Nat := 0x0301
def eTileEncoding : Nat := 0x0302
def eTileDictCode : Nat := 0x0303
def eTileDictType : Nat := 0x0304
def eTileRuns : Nat := 0x0305
def eTileRange : Nat := 0x0306

/-! ### Dictionaries -/

/-- A dictionary as it can be read: its header and its entries (R76). -/
structure DictView where
  header : Bytes
  /-- Bytes from the header's start to the end of what holds it. -/
  size : Nat
  /-- `entry row w i`: entry `i` of `w` bits, as a row takes it (R78). -/
  entry : Nat → Nat → Nat → Nat

/-- What a well-formed DICTREF names, if anything (R75). -/
abbrev DictEnv := Nat → Option DictView

/-- TYPE, FRAC, COUNT and ORDERED of a dictionary. -/
def dictType (d : DictView) : Nat := le d.header 1 1
def dictFrac (d : DictView) : Nat := le d.header 2 1
def dictCount (d : DictView) : Nat := le d.header 4 4
def dictOrdered (d : DictView) : Bool := bitAt (le d.header 3 1) 0

/-- The dictionary's header and entries lie within what holds it.
(DESIGN CHOICE, unsafe: log entry 124.) -/
def dictFits (d : DictView) : Bool :=
  32 ≤ d.size && 32 + packedLen (dictCount d) (tyWidth (dictType d)) ≤ d.size

/-- The view of a dictionary held in bytes. -/
def dictOfBytes (b : Bytes) : DictView :=
  { header := b.take 32, size := b.length, entry := fun _ w i => packedAt (b.drop 32) w i }

/-- A dictionary as a job first read it, laid over what stands there now: each row takes
the old or the new entry at its code, and nothing fails (R78). -/
def dictOver (n : Nat) (old : DictView) (now : Option DictView) : DictView :=
  let new := now.filter (fun d => le d.header 0 1 == 1 && dictType d == dictType old &&
    dictFrac d == dictFrac old && dictFits d)
  match new with
  | none => old
  | some d =>
    { header := putAt old.header 4 (toLe 4 (max (dictCount old) (dictCount d))),
      size := max old.size d.size,
      entry := fun row w i =>
        if dictCount old ≤ i then d.entry row w i
        else if dictCount d ≤ i || Config.dictOld n row i then old.entry row w i
        else d.entry row w i }

/-- The DICTREF keeps R75's form. -/
def dictRefOk (r : Nat) : Bool :=
  let space := field r 62 2
  if space = 0 then r < 65536
  else if space = 1 then field r 60 2 == 0 && field r 0 48 % 64 == 0
  else false

/-! ### Strips -/

/-- A strip of a tile: the fields of its header and where its parts are. -/
structure Strip where
  enc : Nat
  ty : Nat
  frac : Nat
  width : Nat
  hasValid : Bool
  colid : Nat
  dataLen : Nat
  nruns : Nat
  base : Nat
  bitmap : Bytes
  data : Bytes
  dict : Option DictView

/-- A tile that passed the first stage of R85. -/
structure PTile where
  log2cap : Nat
  rows : Nat
  seq : Nat
  rowidBase : Nat
  kennel : Nat
  dense : Bool
  event : Bool
  strips : List Strip

/-- The data area size that R71 gives. -/
def dataSize (enc ty width rows nruns : Nat) : Nat :=
  match enc with
  | 0 => packedLen rows (tyWidth ty)
  | 3 => packedLen nruns 16 + packedLen nruns (tyWidth ty)
  | _ => packedLen rows width

/-- ENC and TYPE go together (R68). -/
def encAllows (enc ty : Nat) : Bool :=
  match enc with
  | 0 | 3 => tyOk ty
  | 1 | 4 | 5 => tyInteger ty
  | 2 => tyOk ty && ty != 0
  | _ => false

/-- WIDTH is in range for the encoding (R68). -/
def widthOk (enc ty width : Nat) : Bool :=
  match enc with
  | 0 | 3 => width == 0
  | 2 => 1 ≤ width && width ≤ 20
  | _ => 1 ≤ width && width ≤ min 32 (tyWidth ty)

/-- BASE keeps R66, R73 and R75 for the encoding. -/
def stripBaseOk (enc ty base : Nat) : Bool :=
  match enc with
  | 2 => dictRefOk base
  | 4 | 5 => baseOk ty base
  | _ => base == 0

/-- TYPE that R82 gives a system column. -/
def sysType (colid : Nat) : Nat :=
  match colid with
  | 0xFF00 | 0xFF01 | 0xFF04 => 8
  | _ => 6

/-- The strip header at the start of `b`, of a strip of LEN `len` (R66, R68, R71).
(DESIGN CHOICE, unsafe: log entry 123.) -/
def readStrip (b : Bytes) (len rows : Nat) : Except Nat Strip :=
  let enc := le b 0 1
  let ty := le b 1 1
  let frac := le b 2 1
  let width := le b 3 1
  let flags := le b 4 2
  let colid := le b 6 2
  let dataLen := le b 8 4
  let nruns := le b 12 4
  let base := le b 16 8
  let bm := if bitAt flags 0 then 8 * ceilDiv rows 64 else 0
  if flags ≥ 2 || !zeroes b 24 8 || colid > 0xFF05 then .error eTileFormat
  else if !encAllows enc ty || !widthOk enc ty width || !fracOk ty frac then .error eTileEncoding
  else if (if enc = 3 then nruns = 0 || nruns > rows else nruns != 0) then .error eTileEncoding
  else if dataLen != dataSize enc ty width rows nruns then .error eTileEncoding
  else if !stripBaseOk enc ty base then .error eTileEncoding
  else if len != 32 + bm + dataLen then .error eTileFormat
  else .ok { enc, ty, frac, width, hasValid := bitAt flags 0, colid, dataLen, nruns, base,
             bitmap := slice b 32 bm, data := slice b (32 + bm) dataLen, dict := none }

/-- VER, LOG2CAP, ROWS, NCOLS and TOTAL_LEN of a tile header keep R63: what a sink checks
(R112). -/
def tileSizesOk (b : Bytes) : Bool :=
  let log2cap := le b 1 1
  let ncols := le b 2 2
  let rows := le b 4 4
  let total := le b 24 4
  le b 0 1 == 1 && 8 ≤ log2cap && log2cap ≤ 16 && 1 ≤ ncols && ncols ≤ 1024 &&
  1 ≤ rows && rows ≤ 2 ^ log2cap && total % 64 == 0 && 64 + alignUp (8 * ncols) 64 < total

/-- Checks the tile header of `b` (R63): the fields of step 1 of R106.
(DEDUCED, safe: log entry 87.) -/
def tileHeaderOk (b : Bytes) : Bool :=
  tileSizesOk b && le b 23 1 < 4 && (bitAt (le b 23 1) 1 || zeroes b 16 6) && zeroes b 28 36

/-- TOTAL_LEN of a tile header. -/
def tileTotal (b : Bytes) : Nat := le b 24 4

/-- The directory entries from `i` on keep R64: offsets that are multiples of 64
and rise past the strip before, up to TOTAL_LEN. -/
def dirOk (b : Bytes) (total : Nat) : Nat → Nat → Nat → Bool
  | 0, _, prev => alignUp prev 64 == total
  | n + 1, i, prev =>
    let off := le b (64 + 8 * i) 4
    let len := le b (68 + 8 * i) 4
    off % 64 == 0 && alignUp prev 64 ≤ off && 32 ≤ len && off + len ≤ total &&
    dirOk b total n (i + 1) (off + len)

/-- The strips in directory order. -/
def readStrips (b : Bytes) (rows : Nat) : Nat → Nat → Except Nat (List Strip)
  | 0, _ => .ok []
  | n + 1, i => do
    let off := le b (64 + 8 * i) 4
    let len := le b (68 + 8 * i) 4
    let s ← readStrip (slice b off len) len rows
    let rest ← readStrips b rows n (i + 1)
    .ok (s :: rest)

/-- The dictionary of each DICT strip, checked against the strip (R76, R86). -/
def bindDicts (env : DictEnv) : List Strip → Except Nat (List Strip)
  | [] => .ok []
  | s :: rest => do
    let s' ←
      if s.enc = 2 then
        match env s.base with
        | none => .error eTileDictType
        | some d =>
          if le d.header 0 1 == 1 && dictType d == s.ty && dictFrac d == s.frac && dictFits d
          then .ok { s with dict := some d } else .error eTileDictType
      else .ok s
    let rest' ← bindDicts env rest
    .ok (s' :: rest')

/-- The tile-wide rules of R80, R82 and R64. -/
def tileWideOk (dense event : Bool) (ss : List Strip) : Bool :=
  let ids := ss.map (·.colid)
  allDistinct ids &&
  (dense != ids.contains 0xFF00) &&
  ss.all (fun s => s.colid < 0xFF00 || (!s.hasValid && s.ty == sysType s.colid)) &&
  (!event || [0xFF01, 0xFF02, 0xFF03, 0xFF04, 0xFF05].all (fun c => ids.contains c))

/-- The first stage of R85. -/
def parseTile (env : DictEnv) (b : Bytes) : Except Nat PTile :=
  let ncols := le b 2 2
  let rows := le b 4 4
  let flags := le b 23 1
  let total := tileTotal b
  if !tileHeaderOk b || total > b.length then .error eTileFormat
  else if !dirOk b total ncols 0 (64 + 8 * ncols) then .error eTileFormat
  else do
    let ss ← readStrips b rows ncols 0
    let ss ← bindDicts env ss
    if tileWideOk (bitAt flags 1) (bitAt flags 0) ss then
      .ok { log2cap := le b 1 1, rows, seq := le b 8 8, rowidBase := le b 16 6,
            kennel := le b 22 1, dense := bitAt flags 1, event := bitAt flags 0, strips := ss }
    else .error eTileFormat

/-! ### The second stage: reading strip data -/

/-- Row `i` is valid (R70). -/
def rowValid (s : Strip) (i : Nat) : Bool :=
  !s.hasValid || bitAt (le s.bitmap (i / 8) 1) (i % 8)

/-- The LAST values rise strictly and end at ROWS - 1 (R72). -/
def runsOk (rows : Nat) : List Nat → Bool
  | [] => false
  | [l] => l + 1 == rows
  | l :: m :: r => l < m && runsOk rows (m :: r)

/-- Expands runs to rows, from row `i` on. -/
def expandRuns : Nat → Nat → List (Nat × Nat) → List Nat
  | 0, _, _ => []
  | _ + 1, _, [] => []
  | n + 1, i, (l, v) :: r =>
    v :: expandRuns n (i + 1) (if i < l then (l, v) :: r else r)

/-- Running sums modulo 2^`t` of signed deltas of `w` bits (R71, R73). -/
def deltaSums (t w : Nat) : Nat → List Nat → List Nat
  | _, [] => []
  | acc, d :: ds =>
    let v := pattern t ((acc : Int) + signed w d)
    v :: deltaSums t w v ds

/-- The value of one slot of a strip that is not RLE or DELTA, or why not. -/
def slotValue (s : Strip) (row raw : Nat) : Except Nat Nat :=
  let t := tyWidth s.ty
  match s.enc with
  | 1 => .ok (if tySigned s.ty then pattern t (signed s.width raw) else raw)
  | 2 =>
    match s.dict with
    | none => .error eTileDictType
    | some d => if raw < dictCount d then .ok (d.entry row t raw) else .error eTileDictCode
  | 5 =>
    let v := valInt s.ty s.base + raw
    if valInt s.ty (pattern t v) = v then .ok (pattern t v) else .error eTileRange
  | _ => .ok raw

/-- The slots of a strip, one per row: its packed fields, run values or sums. -/
def stripSlots (s : Strip) (rows : Nat) : Except Nat (List Nat) :=
  let t := tyWidth s.ty
  match s.enc with
  | 0 => .ok (unpack rows t s.data)
  | 3 =>
    let lasts := unpack s.nruns 16 s.data
    let vals := unpack s.nruns t (s.data.drop (packedLen s.nruns 16))
    if runsOk rows lasts then .ok (expandRuns rows 0 (lasts.zip vals)) else .error eTileRuns
  | 4 => .ok (deltaSums t s.width s.base (unpack rows s.width s.data))
  | _ => .ok (unpack rows s.width s.data)

/-- Reads the rows in order, each as its value or `none` where it is null. -/
def readRows (s : Strip) : Nat → List Nat → Except Nat (List (Option Nat))
  | _, [] => .ok []
  | i, raw :: rest => do
    let v ← if rowValid s i then (slotValue s i raw).map some else .ok none
    let vs ← readRows s (i + 1) rest
    .ok (v :: vs)

/-- The values of a strip, checked on each valid row (R71, R85). -/
def stripValues (s : Strip) (rows : Nat) : Except Nat (List (Option Nat)) := do
  let slots ← stripSlots s rows
  readRows s 0 slots

/-- The first fault of the second stage of R85, with every row of every strip read. -/
def valuesFault (rows : Nat) : List Strip → Option Nat
  | [] => none
  | s :: r =>
    match stripValues s rows with
    | .error e => some e
    | .ok _ => valuesFault rows r

/-- The strip of a column. -/
def stripOf (t : PTile) (colid : Nat) : Option Strip := t.strips.find? (·.colid == colid)

/-- The values of a system strip, which is never null. -/
def sysValues (t : PTile) (colid : Nat) : Except Nat (List Nat) :=
  match stripOf t colid with
  | none => .error eTileFormat
  | some s => do
    let vs ← stripValues s t.rows
    .ok (vs.map (·.getD 0))

/-- The row ids of a tile (R80). -/
def rowIds (t : PTile) : Except Nat (List Nat) :=
  if t.dense then .ok ((List.range t.rows).map (fun i => (t.rowidBase + i) % 2 ^ 48))
  else do
    let vs ← sysValues t 0xFF00
    .ok (vs.map (· % 2 ^ 48))

/-! ### Building tiles -/

/-- A column to be emitted: its values, or codes where it keeps a DICTREF. -/
structure Col where
  colid : Nat
  ty : Nat
  frac : Nat := 0
  /-- DICTREF and WIDTH of a strip emitted as DICT; otherwise PLAIN. -/
  dict : Option (Nat × Nat) := none
  hasValid : Bool := false
  vals : List (Option Nat)

/-- The bytes of a strip (R66, R71); a null slot holds 0 (R74). -/
def colBytes (c : Col) : Bytes :=
  let t := tyWidth c.ty
  let w := match c.dict with
    | some (_, w) => w
    | none => t
  let data := pack w (c.vals.map (·.getD 0))
  let bm := if c.hasValid then pack 1 (c.vals.map (fun v => b2n v.isSome)) else []
  let hdr := toLe 1 (if c.dict.isSome then 2 else 0) ++ toLe 1 c.ty ++ toLe 1 c.frac ++
    toLe 1 (if c.dict.isSome then w else 0) ++ toLe 2 (b2n c.hasValid) ++ toLe 2 c.colid ++
    toLe 4 data.length ++ toLe 4 0 ++
    toLe 8 (match c.dict with | some (r, _) => r | none => 0) ++ zeros 8
  hdr ++ bm ++ data

/-- Directory entries and strip bytes, from offset `off` on. -/
def layStrips : Nat → List Bytes → Bytes × Bytes
  | _, [] => ([], [])
  | off, s :: rest =>
    let p := padTo 64 s
    let (d, b) := layStrips (off + p.length) rest
    (toLe 4 off ++ toLe 4 s.length ++ d, p ++ b)

/-- The header fields of a tile to be built. -/
structure TileHead where
  log2cap : Nat
  rows : Nat
  seq : Nat
  rowidBase : Nat
  kennel : Nat
  dense : Bool
  event : Bool

/-- The bytes of a strip as it was read (R66). -/
def stripBytes (s : Strip) : Bytes :=
  toLe 1 s.enc ++ toLe 1 s.ty ++ toLe 1 s.frac ++ toLe 1 s.width ++ toLe 2 (b2n s.hasValid) ++
  toLe 2 s.colid ++ toLe 4 s.dataLen ++ toLe 4 s.nruns ++ toLe 8 s.base ++ zeros 8 ++
  s.bitmap ++ s.data

/-- The bytes of a tile of the strips given (R63, R64). -/
def layTile (h : TileHead) (strips : List Bytes) : Bytes :=
  let start := 64 + alignUp (8 * strips.length) 64
  let (dir, body) := layStrips start strips
  let total := start + body.length
  toLe 1 1 ++ toLe 1 h.log2cap ++ toLe 2 strips.length ++ toLe 4 h.rows ++ toLe 8 h.seq ++
  toLe 6 (if h.dense then h.rowidBase else 0) ++ toLe 1 h.kennel ++
  toLe 1 (2 * b2n h.dense + b2n h.event) ++ toLe 4 total ++ zeros 36 ++
  padTo 64 dir ++ body

/-- The bytes of a tile of the columns given. -/
def buildTile (h : TileHead) (cols : List Col) : Bytes := layTile h (cols.map colBytes)

/-- A strip carried as it stands: DICT keeps its codes and DICTREF, every other
encoding becomes PLAIN. -/
def carry (s : Strip) (rows : Nat) : Except Nat Col := do
  let vals ← stripValues s rows
  if s.enc = 2 then
    let codes := unpack rows s.width s.data
    .ok { colid := s.colid, ty := s.ty, frac := s.frac, dict := some (s.base, s.width),
          hasValid := s.hasValid,
          vals := (vals.zip codes).map (fun p => p.1.map (fun _ => p.2)) }
  else .ok { colid := s.colid, ty := s.ty, frac := s.frac, hasValid := s.hasValid, vals }

/-- The rows of a column at the indices `keep`. -/
def pickRows (c : Col) (keep : List Nat) : Col :=
  { c with vals := keep.map (fun i => (c.vals[i]?).getD none) }

/-- The indices are consecutive. -/
def consecutive : List Nat → Bool
  | [] => true
  | [_] => true
  | a :: b :: r => b == a + 1 && consecutive (b :: r)

/-- Row ids of the rows kept of a tile: dense with a base, or a SYS_ROWID column
(R80 and the FILTER rule of the Facet chapter). -/
def keptRowIds (t : PTile) (keep : List Nat) : Except Nat (Bool × Nat × List Col) := do
  let ids ← rowIds t
  let col : Col := { colid := 0xFF00, ty := 8, vals := keep.map (fun i => some ((ids[i]?).getD 0)) }
  if t.dense && consecutive keep then
    .ok (true, (t.rowidBase + keep.headD 0) % 2 ^ 48, [])
  else .ok (false, 0, [col])

/-! ### Sequence numbers (R114) -/

/-- A SEQ value from its fields. -/
def mkSeq (origin ordinal last part : Nat) : Nat :=
  origin * 2 ^ 54 + (ordinal % 2 ^ 42) * 2 ^ 12 + last * 2 ^ 11 + part % 2 ^ 11

def seqOrigin (s : Nat) : Nat := field s 54 10
def seqOrdinal (s : Nat) : Nat := field s 12 42
def seqLast (s : Nat) : Bool := bitAt s 11
def seqPart (s : Nat) : Nat := field s 0 11

/-- SEQ of a tile. -/
def tileSeq (b : Bytes) : Nat := le b 8 8

/-- A tile with its SEQ replaced. -/
def setTileSeq (b : Bytes) (seq : Nat) : Bytes := putAt b 8 (toLe 8 seq)

end Sys2Proof.Machine
end

