-- ==== Sys2Proof/Machine/CzeCore.lean ====
section
/-! DEFINITION. The Ruisk Stream Format and the compression engines' work on one
stream (R294 to R317), as pure functions. -/

namespace Sys2Proof.Machine

open Sys2Proof

def eCzeIllegal : Nat := 0x0A01
def eCzeDistance : Nat := 0x0A02
def eCzeOverrun : Nat := 0x0A03
def eCzeTruncated : Nat := 0x0A04
def eCzeCheck : Nat := 0x0A05
def eCzeVerify : Nat := 0x0A06
def eCzeState : Nat := 0x0A10
def eCzeColumn : Nat := 0x0A11

/-- One step of the CRC-64 of R301 over bytes, from a register value. -/
def crc64 (c : Nat) (b : Bytes) : Nat := crcRun 0xC96C5795D7870F42 c b

/-- The register's initial value, and the final exclusive-OR. -/
def crc64Ones : Nat := 0xFFFFFFFFFFFFFFFF

/-- The stream state of a CZE vertex (R299, R314). -/
structure CzeSt where
  /-- A stream is open. -/
  isOpen : Bool := false
  cls : Nat := 0
  wlog : Nat := 16
  level : Nat := 0
  streamId : Nat := 0
  /-- The history, newest byte first. -/
  hist : Bytes := []
  total : Nat := 0
  crc : Nat := 0xFFFFFFFFFFFFFFFF
  coff : Nat := 0
  /-- The compressor's held output: stream bytes, SEQ, stream offset (R311). -/
  held : Option (Bytes × Nat × Nat) := none
  /-- SEQs of skip marks that wait behind the held output (R115). -/
  skips : List Nat := []
  /-- The job has restored, and has saved, its state. -/
  restored : Bool := false
  saved : Bool := false
  deriving DecidableEq, Repr

/-! ### Configuration record (R312) -/

def czeDir (cfg : Bytes) : Nat := le cfg 1 1
def czeLevel (cfg : Bytes) : Nat := le cfg 2 1
def czeWlog (cfg : Bytes) : Nat := le cfg 3 1
def czeRaw (cfg : Bytes) : Bool := bitAt (le cfg 4 1) 4
def czeRestore (cfg : Bytes) : Bool := bitAt (le cfg 4 1) 3
def czeSave (cfg : Bytes) : Bool := bitAt (le cfg 4 1) 2
def czeClass (cfg : Bytes) : Nat := le cfg 4 1 % 2
def czeBlock (cfg : Bytes) : Nat := 2 ^ le cfg 5 1
def czeCol (cfg : Bytes) : Nat := le cfg 6 2
def czeStream (cfg : Bytes) : Nat := le cfg 8 4
def czeTs (cfg : Bytes) : Nat := le cfg 12 2
def czeOff (cfg : Bytes) : Nat := le cfg 16 8

/-- Check 5 of R99 for a CZE vertex (R313). -/
def czeConfigOk (cfg : Bytes) (sramKib spillKib maxJobs inTile outCap outTile : Nat) : Bool :=
  let comp := czeDir cfg == 0
  let st := czeSave cfg || czeRestore cfg
  cfg.length == 64 && le cfg 0 1 == 1 && czeDir cfg ≤ 1 && le cfg 4 1 < 32 &&
  !bitAt (le cfg 4 1) 1 &&
  (if comp then 1 ≤ czeLevel cfg && czeLevel cfg ≤ 12 && 12 ≤ le cfg 5 1 && le cfg 5 1 ≤ 15
   else czeLevel cfg == 0 && le cfg 5 1 == 0 && czeClass cfg == 0) &&
  16 ≤ czeWlog cfg && czeWlog cfg ≤ 20 && czeCol cfg ≤ 0xFEFF && czeTs cfg < 4096 &&
  (st || (czeTs cfg == 0 && czeOff cfg == 0)) && czeOff cfg % 64 == 0 &&
  zeroes cfg 14 2 && zeroes cfg 24 40 &&
  (!comp || czeRaw cfg || inTile ≤ 491520) &&
  (!comp || (outCap == 16 && 524480 ≤ outTile)) &&
  (!st || maxJobs == 1) &&
  2 ^ czeWlog cfg / 1024 + (if comp then 576 else 64) ≤ sramKib && spillKib == 0

/-! ### Decoding (R298, R302) -/

/-- The payload of a CODED block: bytes left, output so far, all bytes newest
first with their number, and the window. -/
structure CodedRun where
  p : Bytes
  n : Nat
  all : Bytes
  count : Nat

/-- Appends `ll` literal bytes. -/
def putLits : Nat → CodedRun → CodedRun
  | 0, r => r
  | k + 1, r =>
    match r.p with
    | [] => r
    | b :: p => putLits k { p, n := r.n + 1, all := b :: r.all, count := r.count + 1 }

/-- Copies `ml` bytes from distance `d`, byte by byte. -/
def putCopy (d : Nat) : Nat → CodedRun → CodedRun
  | 0, r => r
  | k + 1, r =>
    let b := (r.all[d - 1]?).getD 0
    putCopy d k { r with n := r.n + 1, all := b :: r.all, count := r.count + 1 }

/-- One LIT of `ll` bytes, its command bytes taken. -/
def codedLit (ulen ll : Nat) (r : CodedRun) : Except Nat CodedRun :=
  if r.p.length < ll || ulen < r.n + ll then .error eCzeOverrun else .ok (putLits ll r)

/-- One COPY of `ml` bytes, its distance field still to come. -/
def codedCopy (ulen window dw ml : Nat) (r : CodedRun) : Except Nat CodedRun :=
  if r.p.length < dw then .error eCzeOverrun
  else
    let dm1 := leNat (r.p.take dw)
    let r := { r with p := r.p.drop dw }
    if 2 ^ 20 ≤ dm1 then .error eCzeIllegal
    else if min window r.count < dm1 + 1 then .error eCzeDistance
    else if ulen < r.n + ml then .error eCzeOverrun
    else .ok (putCopy (dm1 + 1) ml r)

/-- One command. -/
def codedCommand (ulen window : Nat) (r : CodedRun) : Except Nat CodedRun :=
  match r.p with
  | [] => .ok r
  | b :: p =>
    let c := b.toNat
    let r := { r with p }
    if c < 0x40 then codedLit ulen (c + 1) r
    else if c < 0x80 then
      match p with
      | [] => .error eCzeOverrun
      | b2 :: p2 => codedLit ulen ((c - 0x40) * 256 + b2.toNat + 65) { r with p := p2 }
    else if c % 4 != 0 then .error eCzeIllegal
    else
      let lcode := field c 3 4
      let dw := if bitAt c 2 then 3 else 2
      if lcode = 15 then
        if p.length < 2 then .error eCzeOverrun
        else codedCopy ulen window dw (18 + leNat (p.take 2)) { r with p := p.drop 2 }
      else codedCopy ulen window dw (lcode + 3) r

/-- The commands of a payload; each takes at least one byte. -/
def codedRun (ulen window : Nat) : Nat → CodedRun → Except Nat CodedRun
  | 0, r => .ok r
  | fuel + 1, r =>
    if r.p.isEmpty then (if r.n = ulen then .ok r else .error eCzeOverrun)
    else
      match codedCommand ulen window r with
      | .error e => .error e
      | .ok r => codedRun ulen window fuel r

/-- Decodes a CODED payload against a history; the bytes newest first. -/
def decodeCoded (window ulen : Nat) (hist payload : Bytes) : Except Nat Bytes := do
  let r ← codedRun ulen window (payload.length + 1)
    { p := payload, n := 0, all := hist, count := hist.length }
  .ok (r.all.take ulen)

/-- The state after uncompressed bytes, given newest first. -/
def czeGrow (st : CzeSt) (rev : Bytes) : CzeSt :=
  { st with hist := (rev ++ st.hist).take (2 ^ st.wlog), total := (st.total + rev.length) % 2 ^ 64,
            crc := if st.cls = 1 then crc64 st.crc rev.reverse else st.crc }

/-- A stream header (R295). -/
def streamHeader (wlog cls level sid : Nat) : Bytes :=
  let b := toLe 4 0x31465352 ++ toLe 1 1 ++ toLe 1 wlog ++ toLe 1 cls ++ toLe 1 level ++ toLe 4 sid
  b ++ toLe 4 (crc32c b)

/-- Order 2 of R302. -/
def streamHeaderOk (cfg h : Bytes) : Bool :=
  le h 0 4 == 0x31465352 && le h 4 1 == 1 && le h 6 1 < 2 && le h 12 4 == crc32c (h.take 12) &&
  16 ≤ le h 5 1 && le h 5 1 ≤ czeWlog cfg && (czeStream cfg == 0 || czeStream cfg == le h 8 4)

/-- A decoder error: status and stream offset of the failing structure. -/
abbrev CzeErr := Nat × Nat

/-- What a decoder has made of a tile so far; `out` is newest first. -/
structure DecRun where
  st : CzeSt
  out : Bytes := []
  blocks : Nat := 0
  stored : Nat := 0
  /-- Uncompressed stream offset of the first output byte. -/
  first : Option Nat := none

/-- The END block's checks (orders 8 and 9 of R302). -/
def endOk (st : CzeSt) (p : Bytes) : Option Nat :=
  if st.cls = 0 && le p 8 8 != 0 then some eCzeIllegal
  else if le p 0 8 != st.total then some eCzeCheck
  else if st.cls = 1 && le p 8 8 != st.crc ^^^ crc64Ones then some eCzeCheck
  else none

/-- A data block's bytes, newest first (orders 5 and 6). -/
def decodeBlock (st : CzeSt) (btype ulen clen : Nat) (p : Bytes) : Except Nat Bytes :=
  if btype = 1 then (if clen != ulen then .error eCzeOverrun else .ok p.reverse)
  else decodeCoded (2 ^ st.wlog) ulen st.hist p

/-- One block at the start of `b` (orders 1 and 3 to 9): the run and the bytes left. -/
def decodeOne (r : DecRun) (b : Bytes) : Except CzeErr (DecRun × Bytes) :=
  let st := r.st
  let fail := fun (e : Nat) => (.error (e, st.coff) : Except CzeErr (DecRun × Bytes))
  if b.length < 8 then fail eCzeTruncated
  else
    let btype := le b 0 1
    let ulen := le b 2 2 + 1
    let clen := le b 4 2
    let plen := alignUp clen 8
    if btype = 0 || 3 < btype || !zeroes b 1 1 || !zeroes b 6 2 || clen = 0 ||
      (btype = 3 && (ulen != 1 || clen != 16)) then fail eCzeIllegal
    else if b.length < 8 + plen then fail eCzeTruncated
    else
      let p := (b.drop 8).take clen
      let rest := b.drop (8 + plen)
      let padOk := zeroes b (8 + clen) (plen - clen)
      let next := st.coff + 8 + plen
      if btype = 3 then
        match endOk st p with
        | some e => fail e
        | none => .ok ({ r with st := { st with isOpen := false, coff := next } }, rest)
      else
        match decodeBlock st btype ulen clen p with
        | .error e => fail e
        | .ok rev =>
          if !padOk then fail eCzeIllegal
          else
            .ok ({ st := { czeGrow st rev with coff := next }, out := rev ++ r.out,
                   blocks := r.blocks + 1, stored := r.stored + b2n (btype == 1),
                   first := r.first.or (some st.total) }, rest)

/-- A stream header at the start of `b` (orders 1 and 2). -/
def decodeHeader (cfg : Bytes) (r : DecRun) (b : Bytes) : Except CzeErr (DecRun × Bytes) :=
  if b.length < 16 then .error (eCzeTruncated, 0)
  else if !streamHeaderOk cfg (b.take 16) then .error (eCzeIllegal, 0)
  else
    .ok ({ r with st := { r.st with
      isOpen := true, cls := le b 6 1, wlog := le b 5 1, level := 0, streamId := le b 8 4,
      hist := [], total := 0, crc := crc64Ones, coff := 16 } }, b.drop 16)

/-- The structures of an input tile; each takes at least 8 bytes. -/
def decodeStream (cfg : Bytes) : Nat → DecRun → Bytes → Except CzeErr DecRun
  | 0, r, _ => .ok r
  | fuel + 1, r, b =>
    if b.isEmpty then .ok r
    else
      match (if r.st.isOpen then decodeOne r b else decodeHeader cfg r b) with
      | .error e => .error e
      | .ok (r, rest) => decodeStream cfg fuel r rest

/-! ### Encoding (R297, R305) -/

/-- LIT commands for bytes, at most 16,448 each. -/
def encodeLits : Nat → Bytes → Bytes
  | 0, _ => []
  | fuel + 1, b =>
    if b.isEmpty then []
    else
      let ll := min b.length 16448
      let c := if ll ≤ 64 then toLe 1 (ll - 1)
        else toLe 1 (0x40 + (ll - 65) / 256) ++ toLe 1 ((ll - 65) % 256)
      c ++ b.take ll ++ encodeLits fuel (b.drop ll)

/-- A COPY command. -/
def encodeCopy (ml d : Nat) : Bytes :=
  let far := 65536 < d
  let lcode := if ml ≤ 17 then ml - 3 else 15
  toLe 1 (0x80 + lcode * 8 + (if far then 4 else 0)) ++
  (if lcode = 15 then toLe 2 (ml - 18) else []) ++ toLe (if far then 3 else 2) (d - 1)

/-- The commands that a guide describes, with literals for what is left over. -/
def encodeGuide : List (Nat × Nat × Nat) → Bytes → Bytes
  | [], b => encodeLits b.length b
  | (lits, ml, d) :: r, b =>
    encodeLits lits (b.take lits) ++ encodeCopy ml d ++ encodeGuide r (b.drop (lits + ml))

/-- Earlier positions that the compressor compares at each input position (R304). -/
def czeCands (level : Nat) : Nat :=
  ([0, 1, 2, 4, 8, 16, 16, 32, 64, 128, 256, 512, 1024][level]?).getD 0

/-- Bytes from here on that equal those `d` positions back; `back` is newest first. -/
def matchLen (d : Nat) : Bytes → Bytes → Nat
  | [], _ => 0
  | b :: r, back => if back[d - 1]? = some b then 1 + matchLen d r (b :: back) else 0

/-- The longest match at a position among the distances compared there: length, distance. -/
def bestMatch (window : Nat) (dists : List Nat) (rest back : Bytes) : Nat × Nat :=
  (dists.filter (fun d => 1 ≤ d && d ≤ min window back.length)).foldl (fun m d =>
    let n := matchLen d rest back
    if m.1 < n then (n, d) else m) (0, 0)

/-- The copies of a block: literals before each, its length and its distance. `inside` bytes
of a match are still to be passed. With `lazy`, a match gives way by one byte where the next
position has a longer one (R304). -/
def blockGuide (best : Nat → Bytes → Bytes → Nat × Nat) (lazy : Bool) :
    Nat → Nat → Nat → Bytes → Bytes → List (Nat × Nat × Nat)
  | _, _, _, [], _ => []
  | pos, lits, inside + 1, b :: r, back => blockGuide best lazy (pos + 1) lits inside r (b :: back)
  | pos, lits, 0, b :: r, back =>
    let m := best pos (b :: r) back
    if m.1 < 3 || (lazy && m.1 < (best (pos + 1) r (b :: back)).1) then
      blockGuide best lazy (pos + 1) (lits + 1) 0 r (b :: back)
    else (lits, m.1, m.2) :: blockGuide best lazy (pos + 1) 0 (m.1 - 1) r (b :: back)

/-- A coded payload for a block (R304, R305). Which earlier positions are compared at a
position is open. (DESIGN CHOICE, safe: log entry 42.) -/
def encodePayload (level wlog : Nat) (hist block : Bytes) : Bytes :=
  let best := fun (pos : Nat) (rest back : Bytes) =>
    let dists := Config.candidates level wlog (hist.map (·.toNat)) (block.map (·.toNat)) pos
    bestMatch (2 ^ wlog) (dists.take (czeCands level)) rest back
  encodeGuide (blockGuide best (decide (6 ≤ level)) 0 0 0 block hist) block

/-- A block header and its padded payload (R294, R296). -/
def blockBytes (btype ulen : Nat) (p : Bytes) : Bytes :=
  toLe 1 btype ++ zeros 1 ++ toLe 2 (ulen - 1) ++ toLe 2 p.length ++ zeros 2 ++ padTo 8 p

/-- What the compressor has made of a tile so far. -/
structure EncRun where
  st : CzeSt
  out : Bytes := []
  blocks : Nat := 0
  stored : Nat := 0

/-- One block of the compressor (R305). -/
def encodeBlock (r : EncRun) (block : Bytes) : EncRun :=
  let p := encodePayload r.st.level r.st.wlog r.st.hist block
  let coded := p.length < block.length
  let b := if coded then blockBytes 2 block.length p else blockBytes 1 block.length block
  { st := { czeGrow r.st block.reverse with coff := r.st.coff + b.length }, out := r.out ++ b,
    blocks := r.blocks + 1, stored := r.stored + b2n (!coded) }

/-- The blocks of one input tile. -/
def encodeBlocks (size : Nat) : Nat → EncRun → Bytes → EncRun
  | 0, r, _ => r
  | fuel + 1, r, b =>
    if b.isEmpty then r else encodeBlocks size fuel (encodeBlock r (b.take size)) (b.drop size)

/-- The stream bytes that a compressor makes of one input tile (R311). -/
def encodeTile (cfg : Bytes) (st : CzeSt) (data : Bytes) : EncRun :=
  let r0 : EncRun :=
    if st.isOpen then { st := { st with level := czeLevel cfg } }
    else
      let h := streamHeader (czeWlog cfg) (czeClass cfg) (czeLevel cfg) (czeStream cfg)
      { st := { st with
          isOpen := true, cls := czeClass cfg, wlog := czeWlog cfg, level := czeLevel cfg,
          streamId := czeStream cfg, hist := [], total := 0, crc := crc64Ones, coff := 16 },
        out := h }
  encodeBlocks (czeBlock cfg) (data.length + 1) r0 data

/-- The END block of a stream (R300). -/
def endBlock (st : CzeSt) : Bytes :=
  blockBytes 3 1 (toLe 8 st.total ++ toLe 8 (if st.cls = 1 then st.crc ^^^ crc64Ones else 0))

/-! ### The state area (R314 to R316) -/

/-- Bytes 0 to 251 of the control record. -/
def czeControl (cfg : Bytes) (st : CzeSt) : Bytes :=
  toLe 4 0x53465352 ++ toLe 1 1 ++ toLe 1 st.wlog ++ toLe 1 (2 * czeDir cfg + st.cls) ++
  toLe 1 (if czeDir cfg = 0 then st.level else 0) ++ toLe 4 st.streamId ++ toLe 4 st.hist.length ++
  toLe 8 st.total ++ toLe 8 (if st.cls = 1 then st.crc else 0) ++ toLe 8 st.coff ++ zeros 212

/-- The state area of an open stream; of no stream, an all-zero control record. -/
def czeArea (cfg : Bytes) (st : CzeSt) : Bytes :=
  if st.isOpen then
    let c := czeControl cfg st
    let h := st.hist.reverse
    c ++ toLe 4 (crc32c (c ++ h)) ++ h
  else zeros 256

/-- Length of the state area (R314). -/
def czeAreaLen (cfg : Bytes) : Nat := 256 + 2 ^ czeWlog cfg

/-- A restored state, or none where the record is invalid (R315). -/
def czeRestored (cfg area : Bytes) : Option CzeSt :=
  if zeroes area 0 256 then some {}
  else
    let wlog := le area 5 1
    let flags := le area 6 1
    let hlen := le area 12 4
    let h := (area.drop 256).take hlen
    let comp := czeDir cfg == 0
    if le area 0 4 == 0x53465352 && le area 4 1 == 1 && flags < 4 && flags / 2 == czeDir cfg &&
      zeroes area 40 212 && 16 ≤ wlog && wlog ≤ czeWlog cfg && hlen ≤ 2 ^ wlog &&
      h.length == hlen && le area 252 4 == crc32c (area.take 252 ++ h) &&
      (if comp then flags % 2 == czeClass cfg && wlog == czeWlog cfg && le area 8 4 == czeStream cfg
       else czeStream cfg == 0 || le area 8 4 == czeStream cfg)
    then
      some { isOpen := true, cls := flags % 2, wlog, level := le area 7 1, streamId := le area 8 4,
             hist := h.reverse, total := le area 16 8,
             crc := if flags % 2 = 1 then le area 24 8 else crc64Ones, coff := le area 32 8 }
    else none

/-! ### Tiles on each side (R309, R310) -/

/-- The bytes of the COL_BYTES strip of a tile, of the TYPE given. -/
def byteStrip (colid ty : Nat) (t : PTile) : Except Nat Bytes :=
  match stripOf t colid with
  | some s =>
    if s.ty == ty && s.enc == 0 && !s.hasValid then
      .ok (s.data.take (t.rows * tyWidth ty / 8))
    else .error eCzeColumn
  | none => .error eCzeColumn

/-- A tile of one byte strip. -/
def byteTile (log2cap kennel seq base colid ty : Nat) (b : Bytes) : Bytes :=
  let w := tyWidth ty
  let rows := b.length * 8 / w
  buildTile { log2cap, rows, seq, rowidBase := base % 2 ^ 48, kennel, dense := true, event := false }
    [{ colid, ty, vals := (unpack rows w (padTo 8 b)).map some }]

end Sys2Proof.Machine
end

