-- ==== Sys2Proof/Machine/DgeHash.lean ====
section
/-! DEFINITION. The hash functions that R321 takes by name from FIPS 180-4,
FIPS 202, RFC 2104 and SP 800-185, block by block (PRESUMED, unsafe: log entry 43). -/

namespace Sys2Proof.Machine

open Sys2Proof

/-! ### Constants -/

/-- The greatest `r` with `r ^ e ≤ n`, bit by bit from bit `bits - 1`. -/
def rootBits (e n : Nat) : Nat → Nat → Nat
  | 0, r => r
  | b + 1, r => rootBits e n b (if (r + 2 ^ b) ^ e ≤ n then r + 2 ^ b else r)

/-- The first `n` primes from `p` on, trying at most `fuel` numbers. -/
def primesFrom : Nat → Nat → Nat → List Nat
  | 0, _, _ => []
  | _, 0, _ => []
  | fuel + 1, n + 1, p =>
    if (List.range p).all (fun d => d < 2 || p % d != 0) then p :: primesFrom fuel n (p + 1)
    else primesFrom fuel (n + 1) (p + 1)

/-- The first 80 primes. -/
def primes80 : List Nat := primesFrom 420 80 2

/-- 64 bits of the fraction of the cube root of a prime. -/
def cubeFrac (p : Nat) : Nat := rootBits 3 (p * 2 ^ 192) 70 0 % 2 ^ 64

/-- 64 bits of the fraction of the square root of a prime. -/
def sqrtFrac (p : Nat) : Nat := rootBits 2 (p * 2 ^ 128) 70 0 % 2 ^ 64

/-- The round constants of SHA-512, and of SHA-256. -/
def sha512K : List Nat := primes80.map cubeFrac
def sha256K : List Nat := (sha512K.take 64).map (· >>> 32)

/-- The initial states of SHA-512 and SHA-256. -/
def sha512Init : List Nat := (primes80.take 8).map sqrtFrac
def sha256Init : List Nat := sha512Init.map (· >>> 32)

/-! ### SHA-2 (FIPS 180-4) -/

/-- Rotation of a `w`-bit word to the right. -/
def rotr (w n x : Nat) : Nat := (x >>> n) ||| (x <<< (w - n)) % 2 ^ w

/-- The parameters of a SHA-2 function: word width, rotations, constants. -/
structure Sha2 where
  w : Nat
  big0 : Nat × Nat × Nat
  big1 : Nat × Nat × Nat
  small0 : Nat × Nat × Nat
  small1 : Nat × Nat × Nat
  k : List Nat

def sha256P : Sha2 :=
  { w := 32, big0 := (2, 13, 22), big1 := (6, 11, 25), small0 := (7, 18, 3),
    small1 := (17, 19, 10), k := sha256K }

def sha512P : Sha2 :=
  { w := 64, big0 := (28, 34, 39), big1 := (14, 18, 41), small0 := (1, 8, 7),
    small1 := (19, 61, 6), k := sha512K }

def bigSigma (w : Nat) (r : Nat × Nat × Nat) (x : Nat) : Nat :=
  rotr w r.1 x ^^^ rotr w r.2.1 x ^^^ rotr w r.2.2 x

def smallSigma (w : Nat) (r : Nat × Nat × Nat) (x : Nat) : Nat :=
  rotr w r.1 x ^^^ rotr w r.2.1 x ^^^ (x >>> r.2.2)

/-- The message schedule, newest word first, extended by `n` words. -/
def sha2Extend (p : Sha2) : Nat → List Nat → List Nat
  | 0, ws => ws
  | n + 1, ws =>
    let g := fun i => (ws[i]?).getD 0
    let x := (smallSigma p.w p.small1 (g 1) + g 6 + smallSigma p.w p.small0 (g 14) + g 15) % 2 ^ p.w
    sha2Extend p n (x :: ws)

/-- One round on the eight working words. -/
def sha2Round (p : Sha2) (v : List Nat) (kw : Nat × Nat) : List Nat :=
  match v with
  | [a, b, c, d, e, f, g, h] =>
    let ch := (e &&& f) ^^^ ((2 ^ p.w - 1 - e) &&& g)
    let t1 := h + bigSigma p.w p.big1 e + ch + kw.1 + kw.2
    let maj := (a &&& b) ^^^ (a &&& c) ^^^ (b &&& c)
    let t2 := bigSigma p.w p.big0 a + maj
    [(t1 + t2) % 2 ^ p.w, a, b, c, (d + t1) % 2 ^ p.w, e, f, g]
  | _ => v

/-- The compression function on one block. -/
def sha2Block (p : Sha2) (chain : List Nat) (block : Bytes) : List Nat :=
  let m := (List.range 16).map (fun i => be block (i * (p.w / 8)) (p.w / 8))
  let ws := (sha2Extend p (p.k.length - 16) m.reverse).reverse
  let v := (p.k.zip ws).foldl (sha2Round p) chain
  List.zipWith (fun x y => (x + y) % 2 ^ p.w) chain v

/-- The padding of a message of `n` bytes. -/
def sha2Pad (w n : Nat) : Bytes :=
  let b := 2 * w
  let lenBytes := w / 4
  let body := alignUp (n + 1 + lenBytes) b
  toLe 1 0x80 ++ zeros (body - n - 1 - lenBytes) ++ toBe lenBytes (8 * n)

/-! ### Keccak (FIPS 202) -/

/-- One step of the round-constant register. -/
def keccakLfsr (r : Nat) : Nat := ((r <<< 1) ^^^ (if bitAt r 7 then 0x171 else 0)) % 256

/-- The register after `n` steps. -/
def lfsrAfter : Nat → Nat
  | 0 => 1
  | n + 1 => keccakLfsr (lfsrAfter n)

/-- The round constant of round `i`. -/
def keccakRc (i : Nat) : Nat :=
  sumOf (List.range 7) (fun j => if lfsrAfter (j + 7 * i) % 2 = 1 then 2 ^ (2 ^ j - 1) else 0)

/-- Rotation of a 64-bit lane to the left. -/
def rotl64 (n x : Nat) : Nat := (x <<< (n % 64)) % 2 ^ 64 ||| (x >>> (64 - n % 64))

/-- Lane (x, y) of a state. -/
def lane (a : List Nat) (x y : Nat) : Nat := (a[5 * (y % 5) + x % 5]?).getD 0

/-- The rho and pi steps: the walk over the lanes from (1, 0). -/
def rhoPi (a : List Nat) : Nat → Nat → Nat → Nat → List Nat → List Nat
  | 0, _, _, _, b => b
  | n + 1, t, x, y, b =>
    let y' := (2 * x + 3 * y) % 5
    rhoPi a n (t + 1) y y' (b.set (5 * y' + y) (rotl64 ((t + 1) * (t + 2) / 2) (lane a x y)))

/-- One round of Keccak-f. -/
def keccakRound (a : List Nat) (i : Nat) : List Nat :=
  let c := fun x => (List.range 5).foldl (fun n y => n ^^^ lane a x y) 0
  let d := (List.range 5).map (fun x => c (x + 4) ^^^ rotl64 1 (c (x + 1)))
  let th := (List.range 25).map (fun j => (a[j]?).getD 0 ^^^ (d[j % 5]?).getD 0)
  let b := rhoPi th 24 0 1 0 th
  let ch := (List.range 25).map (fun j =>
    let x := j % 5
    let y := j / 5
    lane b x y ^^^ ((2 ^ 64 - 1 - lane b (x + 1) y) &&& lane b (x + 2) y))
  ch.set 0 ((ch[0]?).getD 0 ^^^ keccakRc i)

/-- The permutation. -/
def keccakF (a : List Nat) : List Nat := (List.range 24).foldl keccakRound a

/-- Absorbs one block of the rate's length. -/
def keccakBlock (a : List Nat) (block : Bytes) : List Nat :=
  keccakF ((List.range 25).map (fun j =>
    (a[j]?).getD 0 ^^^ (if 8 * j < block.length then le block (8 * j) 8 else 0)))

/-- The empty state. -/
def keccakInit : List Nat := List.replicate 25 0

/-- The padding to a multiple of `rate` after `n` bytes, with domain byte `dom`. -/
def keccakPad (rate dom n : Nat) : Bytes :=
  let q := rate - n % rate
  if q = 1 then toLe 1 (dom + 0x80) else toLe 1 dom ++ zeros (q - 2) ++ toLe 1 0x80

/-! ### Encodings of SP 800-185 -/

/-- The bytes of a number, big-endian, at least one. -/
def minBytes (x : Nat) : Nat :=
  ((List.range 9).find? (fun n => 1 ≤ n && x < 256 ^ n)).getD 9

def leftEncode (x : Nat) : Bytes := toLe 1 (minBytes x) ++ toBe (minBytes x) x
def rightEncode (x : Nat) : Bytes := toBe (minBytes x) x ++ toLe 1 (minBytes x)
def encodeString (s : Bytes) : Bytes := leftEncode (8 * s.length) ++ s
def bytepad (w : Nat) (x : Bytes) : Bytes := padTo w (leftEncode w ++ x)

/-! ### The algorithms of R321 -/

/-- The block length b of an algorithm. -/
def dgeBlock (alg : Nat) : Nat :=
  match alg with
  | 1 | 7 => 64
  | 2 | 8 => 128
  | 4 => 72
  | 5 => 168
  | _ => 136

/-- The algorithm needs a key slot. -/
def dgeKeyed (alg : Nat) : Bool := 7 ≤ alg && alg ≤ 9

/-- OUTLEN is allowed for the algorithm. -/
def dgeOutOk (alg outlen : Nat) : Bool :=
  match alg with
  | 1 | 3 | 7 => outlen == 32
  | 2 | 4 | 8 => outlen == 64
  | 5 | 6 | 9 => 1 ≤ outlen && outlen ≤ 64
  | _ => false

/-- The most bytes of a message. -/
def dgeLimit (alg : Nat) : Nat := if alg = 1 || alg = 7 then 2 ^ 61 - 1 else 2 ^ 64 - 1

/-- The chaining state of a new message without a key. -/
def hashInit (alg : Nat) : List Nat :=
  match alg with
  | 1 | 7 => sha256Init
  | 2 | 8 => sha512Init
  | _ => keccakInit

/-- One block of a message. -/
def hashBlock (alg : Nat) (chain : List Nat) (block : Bytes) : List Nat :=
  match alg with
  | 1 | 7 => sha2Block sha256P chain block
  | 2 | 8 => sha2Block sha512P chain block
  | _ => keccakBlock chain block

/-- All whole blocks of a byte string. -/
def hashBlocks (alg : Nat) : Nat → List Nat → Bytes → List Nat
  | 0, chain, _ => chain
  | n + 1, chain, b =>
    hashBlocks alg n (hashBlock alg chain (b.take (dgeBlock alg))) (b.drop (dgeBlock alg))

/-- The bytes that end a message of `n` bytes; for a keyed SHA-2 the key block
counts too. -/
def hashEnd (alg outlen n : Nat) : Bytes :=
  match alg with
  | 1 => sha2Pad 32 n
  | 2 => sha2Pad 64 n
  | 7 => sha2Pad 32 (n + 64)
  | 8 => sha2Pad 64 (n + 128)
  | 3 | 4 => keccakPad (dgeBlock alg) 0x06 n
  | 9 => let e := rightEncode (8 * outlen)
         e ++ keccakPad 136 0x04 (n + e.length)
  | _ => keccakPad (dgeBlock alg) 0x1F n

/-- The output bytes of a chaining state. -/
def hashOut (alg outlen : Nat) (chain : List Nat) : Bytes :=
  (match alg with
   | 1 | 7 => chain.flatMap (toBe 4)
   | 2 | 8 => chain.flatMap (toBe 8)
   | _ => chain.flatMap (toLe 8)).take outlen

/-- The whole hash of a byte string without a key. -/
def hashAll (alg outlen : Nat) (b : Bytes) : Bytes :=
  let m := b ++ hashEnd alg outlen b.length
  hashOut alg outlen (hashBlocks alg (m.length / dgeBlock alg) (hashInit alg) m)

/-- The states that a key slot holds (R327): inner and outer for HMAC, the state
after the padded strings for KMAC256. -/
def keyStates (alg : Nat) (key cust : Bytes) : List Nat × List Nat :=
  if alg = 9 then
    let name : Bytes := [0x4B, 0x4D, 0x41, 0x43]
    let m := bytepad 136 (encodeString name ++ encodeString cust) ++ bytepad 136 (encodeString key)
    (hashBlocks 9 (m.length / 136) keccakInit m, [])
  else
    let b := dgeBlock alg
    let k := if b < key.length then hashAll (alg - 6) (b / 2) key else key
    let k := k ++ zeros (b - k.length)
    (hashBlock alg (hashInit alg) (k.map (· ^^^ 0x36)), hashBlock alg (hashInit alg) (k.map (· ^^^ 0x5C)))

end Sys2Proof.Machine
end

