-- ==== Sys2Proof/Machine/DgeCore.lean ====
section
/-! DEFINITION. The digest engine's contexts, key slots and waiting commands
(R323 to R335), and one block of a pipe. -/

namespace Sys2Proof.Machine

open Sys2Proof

def eDgeField : Nat := 0x0B01
def eDgeMsgid : Nat := 0x0B02
def eDgeSlot : Nat := 0x0B03
def eDgeSlotBusy : Nat := 0x0B04
def eDgeQuota : Nat := 0x0B05
def eDgeSource : Nat := 0x0B06
def eDgeState : Nat := 0x0B07
def eDgeLength : Nat := 0x0B08
def eDgeMismatch : Nat := 0x0B09
def eDgeColumn : Nat := 0x0B10
def eDgeNokey : Nat := 0x0B11

/-- The states of a context (R324). -/
inductive CtxState where
  | empty | opened | finished
  deriving DecidableEq, Repr

/-- Who uses a context: a message of the command pool, or a DGE vertex. -/
inductive CtxUser where
  | msg (id : Nat)
  | vertex (plan vid n : Nat)
  deriving DecidableEq, Repr

/-- A context (R323, R324). -/
structure DgeCtx where
  kennel : Nat
  user : CtxUser
  alg : Nat
  slot : Nat
  outlen : Nat
  state : CtxState := .empty
  chain : List Nat := []
  /-- Bytes taken and not yet hashed. -/
  buf : Bytes := []
  /-- Message bytes absorbed. -/
  count : Nat := 0
  /-- The message's end is in `buf`; the outer hash of HMAC runs. -/
  finishing : Bool := false
  outer : Bool := false
  output : Bytes := []
  /-- The job and SEQ of the tile being hashed, for a vertex. -/
  tile : Option (Nat × Nat) := none
  deriving DecidableEq, Repr

/-- A key slot: owner, ALG (0 when empty) and the keyed states (R327). -/
structure DgeSlot where
  kennel : Nat
  alg : Nat
  inner : List Nat
  outer : List Nat
  deriving DecidableEq, Repr

/-- A command that has been accepted and has not completed (R329). -/
structure DgeCmd where
  order : Nat
  kennel : Nat
  wq : Nat
  seq : Nat
  opc : Nat
  body : Bytes
  /-- What the host read of its data or key gave, and that of S. -/
  host : Option Bytes
  cust : Option Bytes
  /-- An UPDATE whose data is being absorbed. -/
  started : Bool := false
  deriving DecidableEq, Repr

/-- The digest engine. -/
structure DgeSt where
  ctxs : Tbl DgeCtx := []
  slots : Tbl DgeSlot := []
  cmds : List DgeCmd := []
  /-- The arbiters of the pipes, by context, and of waiting DGE_INITs, by kennel. -/
  pipeArb : ArbSt := {}
  initArb : ArbSt := {}
  deriving DecidableEq, Repr

/-- The chaining state that a new message starts from: the slot's for a keyed ALG. -/
def ctxInit (c : DgeCtx) (slot : Option DgeSlot) : List Nat :=
  if dgeKeyed c.alg then (slot.map (·.inner)).getD [] else hashInit c.alg

/-- Back to EMPTY, with ALG, SLOT, OUTLEN and the user kept (R324, R330, R335). -/
def ctxEmpty (c : DgeCtx) : DgeCtx :=
  { kennel := c.kennel, user := c.user, alg := c.alg, slot := c.slot, outlen := c.outlen }

/-- Takes data, and the message's end where `final` holds (R324, R329). -/
def ctxTake (c : DgeCtx) (slot : Option DgeSlot) (data : Bytes) (final : Bool) : DgeCtx :=
  let chain := if c.state = .empty then ctxInit c slot else c.chain
  let n := c.count + data.length
  { c with
    chain, count := n, finishing := final,
    state := if data.isEmpty && !final && c.state = .empty then .empty else .opened,
    buf := c.buf ++ data ++ (if final then hashEnd c.alg c.outlen n else []) }

/-- The context can use a pipe: a full block, or finishing (R325). -/
def ctxReady (c : DgeCtx) : Bool := dgeBlock c.alg ≤ c.buf.length

/-- One block through a pipe; after the last of a message the outer hash of HMAC
starts, or the output stands and the context is FINISHED (R324 to R326). -/
def ctxBlock (c : DgeCtx) (slot : Option DgeSlot) : DgeCtx :=
  let b := dgeBlock c.alg
  let chain := hashBlock c.alg c.chain (c.buf.take b)
  let buf := c.buf.drop b
  let c := { c with chain, buf }
  if !(c.finishing && buf.isEmpty) then c
  else if (c.alg = 7 || c.alg = 8) && !c.outer then
    let inner := hashOut c.alg c.outlen chain
    { c with
      chain := (slot.map (·.outer)).getD [], outer := true,
      buf := inner ++ hashEnd c.alg c.outlen inner.length }
  else
    { c with output := hashOut c.alg c.outlen chain, state := .finished, finishing := false,
             outer := false }

end Sys2Proof.Machine
end

