-- ==== Sys2Proof/Machine/Mem.lean ====
section
/-! DEFINITION. Byte memories in one canonical form: cells by rising address, and
no cell that holds the value an unlisted address reads as. -/

namespace Sys2Proof.Machine

open Sys2Proof

/-- A memory: its cells that are not 0, by rising address. -/
abbrev Memory := List Host.Cell

/-- What an address reads as. An unlisted address reads as 0 (DESIGN CHOICE, unsafe: log entry 4). -/
def Memory.get (m : Memory) (a : Nat) : Byte :=
  match m with
  | [] => 0
  | (b, v) :: r => if b = a then v else if a < b then 0 else Memory.get r a

/-- Writes one byte, keeping the form. -/
def Memory.set (m : Memory) (a : Nat) (v : Byte) : Memory :=
  match m with
  | [] => if v = 0 then [] else [(a, v)]
  | (b, w) :: r =>
    if a < b then (if v = 0 then (b, w) :: r else (a, v) :: (b, w) :: r)
    else if a = b then (if v = 0 then r else (a, v) :: r)
    else (b, w) :: Memory.set r a v

/-- The canonical form, from addresses at or above `lo`. -/
def Memory.wfFrom (lo : Nat) (m : Memory) : Bool :=
  match m with
  | [] => true
  | (b, v) :: r => decide (lo ≤ b) && v != 0 && Memory.wfFrom (b + 1) r

/-- The canonical form. -/
def Memory.wf (m : Memory) : Bool := Memory.wfFrom 0 m

/-- `n` bytes from `a`. -/
def Memory.read (m : Memory) (a : Nat) : Nat → Bytes
  | 0 => []
  | n + 1 => m.get a :: Memory.read m (a + 1) n

/-- Writes bytes from `a` on. -/
def Memory.write (m : Memory) (a : Nat) : Bytes → Memory
  | [] => m
  | b :: bs => Memory.write (m.set a b) (a + 1) bs

/-- The memory without the cells from `lo` to below `hi`. -/
def Memory.clear (m : Memory) (lo hi : Nat) : Memory :=
  m.filter (fun c => c.1 < lo || hi ≤ c.1)

end Sys2Proof.Machine
end

