-- ==== Sys2Proof/Machine/HoundCore.lean ====
section
/-! DEFINITION. A Hound core (R210 to R293): its registers, the instruction
words, and what an instruction does to the registers alone. -/

namespace Sys2Proof.Machine

open Sys2Proof

/-- A line of the L1 data cache (R215). -/
structure L1Line where
  data : Bytes
  dirty : Bool
  deriving DecidableEq, Repr

/-- The registers that a program and the runtime see (R210 to R212, R240). -/
structure HoundRegs where
  x : List (BitVec 64) := List.replicate 32 0
  v : List (BitVec 512) := List.replicate 32 0
  m : List (BitVec 64) := List.replicate 8 0
  pc : BitVec 64 := 0
  status : BitVec 64 := 1
  estatus : BitVec 64 := 0
  epc : BitVec 64 := 0
  ecause : BitVec 64 := 0
  eaddr : BitVec 64 := 0
  einfo : BitVec 64 := 0
  vlen : BitVec 64 := 0x200
  vprog : BitVec 64 := 0
  ssp : BitVec 64 := 0
  sstkBase : BitVec 64 := 0
  sstkLimit : BitVec 64 := 0
  lcnt0 : BitVec 64 := 0
  lcnt1 : BitVec 64 := 0
  deriving DecidableEq, Repr

/-- An input buffer of a Hound: the tile it holds and its port (R236). -/
structure InBuf where
  port : Nat
  seq : Nat
  len : Nat
  /-- TAKE has handed it to the program. -/
  taken : Bool := false
  /-- Its place in the order of staging. -/
  order : Nat := 0
  /-- The parts of its answer on each port, and whether the last one was among them (R114). -/
  sent : Tbl (Nat × Bool) := []
  deriving DecidableEq, Repr

/-- A Hound (R210 to R293). -/
structure HoundSt where
  regs : HoundRegs := {}
  /-- PRV_CEIL of HND_CTRL (R288). -/
  privCeil : BitVec 2 := 1
  /-- The vector table (R272); an unlisted entry is 0. -/
  vec : Tbl (BitVec 64) := []
  ipend : BitVec 3 := 0
  ien : BitVec 3 := 7
  /-- The window counter (R284). -/
  window : Nat := 0
  /-- HND_LOCKINFO (R293). -/
  lockInfo : BitVec 64 := 0
  lockup : Bool := false
  /-- A WFI waits for a line (R283), or a service waits (R235). -/
  wfi : Bool := false
  waiting : Bool := false
  spad : Memory := []
  /-- L1D by line number, and the lines of L1I (R215). -/
  l1d : Tbl L1Line := []
  l1i : List Nat := []
  /-- Kennel, plan handle, VID and index of the vertex served (R239). -/
  serves : Option (Nat × Nat × Nat × Nat) := none
  /-- The job it runs, the jobs it has finished with, and DONE (R234, R235). -/
  job : Option Nat := none
  past : List Nat := []
  /-- The runtime has set up its table and stack (R272). -/
  setUp : Bool := false
  inbufs : Tbl InBuf := []
  /-- Output buffers that are bound, with their port (R235). -/
  outbufs : Tbl Nat := []
  /-- The SEQ that a PUBLISH which waits has been given (R114, R236). -/
  pubSeq : Option Nat := none
  deriving DecidableEq, Repr

/-! ### Causes (R270) -/

def cIllegal : Nat := 1
def cPriv : Nat := 2
def cFetch : Nat := 3
def cLoad : Nat := 4
def cStore : Nat := 5
def cMisaligned : Nat := 6
def cSyscall : Nat := 7
def cReturn : Nat := 8

/-- An exception that an instruction raises: cause, EADDR and the low half of
EINFO (R270, R276). -/
structure Trap where
  cause : Nat
  eaddr : Nat := 0
  info : Nat := 0
  deriving DecidableEq, Repr

/-! ### Registers -/

/-- An X register; X0 reads as 0 (R210). -/
def HoundRegs.rx (r : HoundRegs) (i : Nat) : BitVec 64 :=
  if i = 0 then 0 else (r.x[i]?).getD 0

/-- Writes an X register; a write to X0 is discarded (R210). -/
def HoundRegs.wx (r : HoundRegs) (i : Nat) (v : BitVec 64) : HoundRegs :=
  if i = 0 then r else { r with x := r.x.set i v }

/-- A vector register. -/
def HoundRegs.rv (r : HoundRegs) (i : Nat) : BitVec 512 := (r.v[i]?).getD 0

/-- A mask register. -/
def HoundRegs.rm (r : HoundRegs) (i : Nat) : BitVec 64 := (r.m[i]?).getD 0

/-- STATUS.PRV, IE, NIW and LOOPn (R212). -/
def HoundRegs.prv (r : HoundRegs) : Nat := r.status.toNat % 4
def HoundRegs.ie (r : HoundRegs) : Bool := r.status.getLsbD 2
def HoundRegs.niw (r : HoundRegs) : Bool := r.status.getLsbD 3
def HoundRegs.loopOn (r : HoundRegs) (n : Nat) : Bool := r.status.getLsbD (4 + n)

/-- S mode. -/
def HoundRegs.smode (r : HoundRegs) : Bool := r.prv == 1

/-- A STATUS bit set or cleared. -/
def setBit64 (v : BitVec 64) (i : Nat) (b : Bool) : BitVec 64 :=
  BitVec.ofNat 64 (setField v.toNat i 1 (b2n b))

/-- STATUS.LOOPn set or cleared. -/
def HoundRegs.setLoop (r : HoundRegs) (n : Nat) (b : Bool) : HoundRegs :=
  { r with status := setBit64 r.status (4 + n) b }

/-- LCNTn. -/
def HoundRegs.lcnt (r : HoundRegs) (n : Nat) : Nat := if n = 0 then r.lcnt0.toNat else r.lcnt1.toNat

/-- LCNTn replaced. -/
def HoundRegs.setLcnt (r : HoundRegs) (n v : Nat) : HoundRegs :=
  if n = 0 then { r with lcnt0 := BitVec.ofNat 64 v } else { r with lcnt1 := BitVec.ofNat 64 v }

/-- START, LEN and COUNT of LCNTn (R223). -/
def HoundRegs.loopStart (r : HoundRegs) (n : Nat) : Nat := field (r.lcnt n) 40 24
def HoundRegs.loopLen (r : HoundRegs) (n : Nat) : Nat := field (r.lcnt n) 24 16
def HoundRegs.loopCount (r : HoundRegs) (n : Nat) : Nat := field (r.lcnt n) 0 24

/-- VPROG.DONE (R247). -/
def HoundRegs.vdone (r : HoundRegs) : Nat := r.vprog.toNat % 8

/-- VPROG.DONE replaced. -/
def HoundRegs.setVdone (r : HoundRegs) (d : Nat) : HoundRegs :=
  { r with vprog := BitVec.ofNat 64 (setField r.vprog.toNat 0 3 d) }

/-- VPROG.SAT set where `sat` holds (R247). -/
def HoundRegs.orSat (r : HoundRegs) (sat : Bool) : HoundRegs :=
  if sat then { r with vprog := r.vprog ||| 0x100 } else r

/-- k = VLEN / 512 (R241). -/
def HoundRegs.vk (r : HoundRegs) : Nat := field r.vlen.toNat 0 13 / 512

/-! ### Address map (R213) -/

def codeBase : Nat := 0x10000000
def codeEnd : Nat := 0x14000000
def rtBase : Nat := 0x08000000
def rtEnd : Nat := 0x0C000000
def constBase : Nat := 0x20000000
def constEnd : Nat := 0x30000000
def spillBase : Nat := 0x1000000000
def spillEnd : Nat := 0x2000000000
def tsBase : Nat := 0x10000000000000
def tsEnd : Nat := 0x20000000000000
def lmmioBase : Nat := 0xFFFFFF0000000000
def spadUser : Nat := 0xBC000
def spadEnd : Nat := 0xC0000

/-- A region of R213, with the offset in it. -/
inductive Region where
  | spad (off : Nat)
  | spadRt (off : Nat)
  | rtcode (off : Nat)
  | code (off : Nat)
  | const (off : Nat)
  | spill (off : Nat)
  | ts (n off : Nat)
  | lmmio (off : Nat)
  | hole
  deriving DecidableEq, Repr

/-- The region of an address. -/
def regionOf (a : Nat) : Region :=
  if a < spadUser then .spad a
  else if a < spadEnd then .spadRt a
  else if rtBase ≤ a && a < rtEnd then .rtcode (a - rtBase)
  else if codeBase ≤ a && a < codeEnd then .code (a - codeBase)
  else if constBase ≤ a && a < constEnd then .const (a - constBase)
  else if spillBase ≤ a && a < spillEnd then .spill (a - spillBase)
  else if tsBase ≤ a && a < tsEnd then .ts ((a - tsBase) / 2 ^ 40) ((a - tsBase) % 2 ^ 40)
  else if lmmioBase ≤ a && a < lmmioBase + 0x10000 then .lmmio (a - lmmioBase)
  else .hole

/-- The base that START counts from at a privilege (R227). -/
def loopBase (smode : Bool) : Nat := if smode then rtBase else codeBase

/-! ### Instruction words (R217, R252) -/

/-- Format R. -/
def wordR (major rd rs1 rs2 func : Nat) : Nat :=
  major * 2 ^ 26 + rd * 2 ^ 21 + rs1 * 2 ^ 16 + rs2 * 2 ^ 11 + func

/-- Formats I, S and B: two registers and 16 bits. -/
def wordI (major a b imm : Nat) : Nat := major * 2 ^ 26 + a * 2 ^ 21 + b * 2 ^ 16 + imm

/-- Format J. -/
def wordJ (major off : Nat) : Nat := major * 2 ^ 26 + off

/-- Format L, word 0. -/
def wordL (rd rs1 sub aux : Nat) : Nat :=
  0x3F * 2 ^ 26 + rd * 2 ^ 21 + rs1 * 2 ^ 16 + sub * 2 ^ 11 + aux

/-- The vector formats. -/
def wordV (major : Nat) (f : VFields) (fn : Nat) : Nat :=
  major * 2 ^ 26 + f.vd.val * 2 ^ 21 + f.vs1.val * 2 ^ 16 + f.vs2.val * 2 ^ 11 +
  b2n f.men * 2 ^ 10 + f.msk.val * 2 ^ 7 + f.ew.val * 2 ^ 5 + fn

/-! ### Scalar arithmetic (R219) -/

/-- The number of leading zeros of a 64-bit value. -/
def clz64 (v : BitVec 64) : Nat :=
  ((List.range 64).find? (fun i => v.getLsbD (63 - i))).getD 64

/-- The bytes of a 64-bit value reversed. -/
def bswap64 (v : BitVec 64) : BitVec 64 := BitVec.ofNat 64 (leNat (toLe 8 v.toNat).reverse)

/-- DIV of R219: truncating, all ones for a division by 0. -/
def divS (a b : BitVec 64) : BitVec 64 :=
  if b = 0 then BitVec.allOnes 64 else BitVec.ofInt 64 (a.toInt.tdiv b.toInt)

/-- REM of R219. -/
def remS (a b : BitVec 64) : BitVec 64 :=
  if b = 0 then a else BitVec.ofInt 64 (a.toInt.tmod b.toInt)

def divU (a b : BitVec 64) : BitVec 64 := if b = 0 then BitVec.allOnes 64 else a / b
def remU (a b : BitVec 64) : BitVec 64 := if b = 0 then a else a % b

/-- The high half of the signed product. -/
def mulHigh (a b : BitVec 64) : BitVec 64 := BitVec.ofInt 64 (a.toInt * b.toInt / 2 ^ 64)

/-- The high half of the unsigned product. -/
def mulHighU (a b : BitVec 64) : BitVec 64 := BitVec.ofNat 64 (a.toNat * b.toNat / 2 ^ 64)

/-- A condition as a 64-bit value. -/
def flag64 (b : Bool) : BitVec 64 := if b then 1 else 0

/-- The shift count of a register operand (R219). -/
def shCount (b : BitVec 64) : Nat := b.toNat % 64

/-- IMM16 sign-extended. -/
def imm64 (i : BitVec 16) : BitVec 64 := i.signExtend 64

/-- IMM32 sign-extended. -/
def imm32s (i : BitVec 32) : BitVec 64 := i.signExtend 64

/-! ### Control registers (R211, R212) -/

/-- Reads a control register; none where the number is not in the table. -/
def csrGet (r : HoundRegs) (ceil : BitVec 2) (n : Nat) : Option (BitVec 64) :=
  match n with
  | 0x000 => some r.status
  | 0x001 => some r.estatus
  | 0x002 => some r.epc
  | 0x003 => some r.ecause
  | 0x004 => some r.eaddr
  | 0x005 => some r.einfo
  | 0x010 => some r.vlen
  | 0x011 => some r.vprog
  | 0x020 => some r.ssp
  | 0x021 => some r.sstkBase
  | 0x022 => some r.sstkLimit
  | 0x023 => some (ceil.setWidth 64)
  | 0x030 => some r.lcnt0
  | 0x031 => some r.lcnt1
  | _ => none

/-- U mode may read the register (R211). -/
def csrUserRead (n : Nat) : Bool := n == 0 || n == 0x10 || n == 0x11 || n == 0x30 || n == 0x31

/-- The register may be written at the privilege (R211). -/
def csrMayWrite (smode : Bool) (n : Nat) : Bool :=
  if smode then n != 0x23 else n == 0x10 || n == 0x11 || n == 0x30 || n == 0x31

/-- The window counter and STATUS after an S-mode write of STATUS (R212, R284):
PRV, NIW and the reserved bits keep their values; a change of IE opens or
closes a window. -/
def statusWrite (r : HoundRegs) (window niMax v : Nat) : HoundRegs × Nat :=
  let ie := bitAt v 2
  let base := setField (setField r.status.toNat 2 1 (b2n ie)) 4 2 (field v 4 2)
  if ie then ({ r with status := BitVec.ofNat 64 (setField base 3 1 0) }, 0)
  else if r.ie then ({ r with status := BitVec.ofNat 64 (setField base 3 1 1) }, niMax)
  else ({ r with status := BitVec.ofNat 64 base }, window)

/-- Writes a control register: the registers and the window counter, or none
where the value is refused (R227, R241). -/
def csrPut (r : HoundRegs) (window niMax n : Nat) (v : BitVec 64) : Option (HoundRegs × Nat) :=
  match n with
  | 0x000 => some (statusWrite r window niMax v.toNat)
  | 0x001 => some ({ r with estatus := v &&& 0x3F }, window)
  | 0x002 => some ({ r with epc := v }, window)
  | 0x003 => some ({ r with ecause := v &&& 0xFF }, window)
  | 0x004 => some ({ r with eaddr := v }, window)
  | 0x005 => some ({ r with einfo := v &&& 0xFFFFFFFF00FFC3FF }, window)
  | 0x010 =>
    let bits := v.toNat % 2 ^ 13
    if bits % 512 = 0 && 512 ≤ bits && bits ≤ 4096 then
      some ({ r with vlen := BitVec.ofNat 64 bits }, window)
    else none
  | 0x011 => some ({ r with vprog := v &&& 0x107 }, window)
  | 0x020 => some ({ r with ssp := v }, window)
  | 0x021 => some ({ r with sstkBase := v }, window)
  | 0x022 => some ({ r with sstkLimit := v }, window)
  | 0x030 => if field v.toNat 24 16 = 0 then none else some ({ r with lcnt0 := v }, window)
  | 0x031 => if field v.toNat 24 16 = 0 then none else some ({ r with lcnt1 := v }, window)
  | _ => none

/-! ### Loops (R223 to R227) -/

/-- Evaluates level `n` where the instruction's last word has index `w`; the new
PC where the loop goes back (R224). -/
def loopLevel (n w : Nat) (r : HoundRegs) : HoundRegs × Option Nat :=
  if r.loopOn n && w + 1 == r.loopStart n + r.loopLen n then
    let left := r.loopCount n - 1
    let r := r.setLcnt n (setField (r.lcnt n) 0 24 left)
    if left = 0 then (r.setLoop n false, none) else (r, some (r.loopStart n))
  else (r, none)

/-- The registers after an instruction that ends at byte `next` and transfers no
control: PC at `next`, or at a loop's start (R224, R227). -/
def advance (r : HoundRegs) (next : Nat) : HoundRegs :=
  let base := loopBase r.smode
  let w := (next - 4 - base) / 4
  let go := fun (r : HoundRegs) (start : Option Nat) =>
    { r with pc := BitVec.ofNat 64 (match start with | some i => base + 4 * i | none => next) }
  if next < base + 4 then go r none
  else
    match loopLevel 1 w r with
    | (r, some i) => go r (some i)
    | (r, none) =>
      let (r, t) := loopLevel 0 w r
      go r t

/-- An instruction at words `w` to `w2` is the last of the body of an active
loop (R226). -/
def lastOfBody (r : HoundRegs) (w2 : Nat) : Bool :=
  (r.loopOn 0 && w2 + 1 == r.loopStart 0 + r.loopLen 0) ||
  (r.loopOn 1 && w2 + 1 == r.loopStart 1 + r.loopLen 1)

/-- LOOP and LOOPI at level `n`, the body starting at byte `next` (R223, R226,
R227): none where the instruction is illegal. `last` is its last word's address;
`limit` the length of the section that holds the code. -/
def openLoop (r : HoundRegs) (n count len next limit : Nat) : Option HoundRegs :=
  let base := loopBase r.smode
  let start := (next - base) / 4
  let e := start + len
  if len = 0 || r.loopOn n || next < base || limit < 4 * e then none
  else if lastOfBody r (start - 1) then none
  else if n = 1 && r.loopOn 0 && r.loopStart 0 + r.loopLen 0 < e then none
  else if count = 0 then some { r with pc := BitVec.ofNat 64 (base + 4 * e) }
  else
    let v := (start % 2 ^ 24) * 2 ^ 40 + len * 2 ^ 24 + min count 0xFFFFFF
    some { (r.setLcnt n v).setLoop n true with pc := BitVec.ofNat 64 next }

end Sys2Proof.Machine
end

