-- ==== Sys2Proof/Machine/ScentBank.lean ====
section
/-! DEFINITION. Scent banks: search, verification, patrol and loading (R193 to
R203), as pure functions over the banks of one vertex. -/

namespace Sys2Proof.Machine

open Sys2Proof

/-- Entries of one bank (R193). -/
def scentEntries : Nat := 32768

/-- A Scent bank: its match array and its verify copy, by row; an unlisted row
holds 0 with VALID = 0 (R193, R195). -/
structure ScentBank where
  /-- Kennel, plan handle, VID and logical bank number of the owner. -/
  owner : Option (Nat × Nat × Nat × Nat) := none
  matchArr : Tbl (Nat × Bool) := []
  verify : Tbl (Nat × Bool) := []
  /-- The row that the next patrol rewrite takes (R200). -/
  patrol : Nat := 0
  /-- A scrub has run, and a patrol rewrite has been made, since the last reset. -/
  scrubbed : Bool := false
  patrolled : Bool := false
  deriving DecidableEq, Repr

/-- Sets a row of an array; the reset contents are not listed. -/
def scentSet (arr : Tbl (Nat × Bool)) (row : Nat) (e : Nat × Bool) : Tbl (Nat × Bool) :=
  if e = (0, false) then tdel arr row else tset arr row e

/-- A row of an array. -/
def scentGet (arr : Tbl (Nat × Bool)) (row : Nat) : Nat × Bool := tget arr row (0, false)

/-- Entry `e` matches `key` under mask `m` (R197). -/
def scentMatches (key m : Nat) (e : Nat × Bool) : Bool := e.2 && ((e.1 ^^^ key) &&& m == 0)

/-- Writes an entry into both arrays (R201). -/
def scentWrite (b : ScentBank) (row : Nat) (e : Nat × Bool) : ScentBank :=
  { b with matchArr := scentSet b.matchArr row e, verify := scentSet b.verify row e }

/-- Clears VALID of an entry in both arrays, its key kept (R199, R201). -/
def scentClear (b : ScentBank) (row : Nat) : ScentBank :=
  { b with matchArr := scentSet b.matchArr row ((scentGet b.matchArr row).1, false),
           verify := scentSet b.verify row ((scentGet b.verify row).1, false) }

/-- A scrub (R195). -/
def scentScrub (b : ScentBank) : ScentBank :=
  { b with matchArr := [], verify := [], scrubbed := true }

/-- Entries with VALID = 1 of the verify copy (R209). -/
def scentCount (b : ScentBank) : Nat := (b.verify.filter (fun e => e.2.2)).length

/-- What a bank counts (R209): SEARCH, HIT, OTHER, FALSE_HIT, ECC_CE, ECC_UE,
LOAD_ENT and PATROL_FIX, in this order. -/
abbrev ScentCounts := List Nat

/-- No counts. -/
def noScentCounts : ScentCounts := List.replicate 8 0

/-- Adds `n` to count `i`. -/
def scentAdd (c : ScentCounts) (i n : Nat) : ScentCounts := lmod c i (· + n)

/-- What one bank finds for one row: the verified rows, the bank, its counts and
whether a read was uncorrectable. -/
structure BankHit where
  rows : List Nat
  bank : ScentBank
  counts : ScentCounts
  ue : Bool
  /-- The rows read for verification. -/
  raw : List Nat := []

/-- Verifies one raw match (R198, R199). -/
def scentVerify (key m row : Nat) (ecc : List (Nat × Bool)) (h : BankHit) : BankHit :=
  let hit := ecc.find? (·.1 == row)
  match hit with
  | some (_, true) =>
    { h with bank := scentClear h.bank row, counts := scentAdd h.counts 5 1, ue := true }
  | _ =>
    let counts := if hit.isSome then scentAdd h.counts 4 1 else h.counts
    let v := scentGet h.bank.verify row
    if scentMatches key m v then { h with rows := h.rows ++ [row], counts }
    else
      { h with bank := { h.bank with matchArr := scentSet h.bank.matchArr row v },
               counts := scentAdd counts 3 1 }

/-- Searches one bank for one row; `ecc` gives row and uncorrectable. -/
def scentBankSearch (key m : Nat) (ecc : List (Nat × Bool)) (b : ScentBank) : BankHit :=
  let raw := (b.matchArr.filter (fun e => scentMatches key m e.2)).map (·.1)
  let h0 : BankHit := { rows := [], bank := b, counts := scentAdd noScentCounts 0 1, ue := false }
  let h := raw.foldl (fun h row => scentVerify key m row ecc h) h0
  { h with counts := scentAdd (scentAdd h.counts 1 (b2n !h.rows.isEmpty)) 2 (h.rows.length - 1), raw }

/-- Search of a tile in progress: the vertex's banks in logical order, their
counts, the REPLICA pointer and the results so far. -/
structure ScentRun where
  banks : List ScentBank
  counts : List ScentCounts
  next : Nat
  ue : Bool := false
  /-- MATCH and NOTHER of each row searched so far. -/
  results : List (Option Nat × Nat) := []
  /-- Logical bank and row of every entry read for verification so far: an error found
  there has been corrected and written back (R199). -/
  seen : List (Nat × Nat) := []

/-- Adds two lists of counts. -/
def addCounts (a b : ScentCounts) : ScentCounts := List.zipWith (· + ·) a b

/-- MATCH and NOTHER from the verified addresses, which rise (R198). -/
def scentResult (addrs : List Nat) : Option Nat × Nat :=
  (addrs.head?, min 65535 (addrs.length - 1))

/-- Searches one row (R194, R196 to R199); `none` is a row that is not searched.
`ecc` gives for each logical bank the rows whose verify read has an error. -/
def scentRow (replica : Bool) (ecc : Nat → List (Nat × Bool)) (r : ScentRun)
    (row : Option (Nat × Nat)) : ScentRun :=
  match row with
  | none => { r with results := r.results ++ [(none, 0)] }
  | some (key, m) =>
    let used := if replica then [r.next % max 1 r.banks.length] else List.range r.banks.length
    let hits := (r.banks.zip (List.range r.banks.length)).map (fun (b, i) =>
      if used.contains i then
        scentBankSearch key m ((ecc i).filter (fun e => !r.seen.contains (i, e.1))) b
      else { rows := [], bank := b, counts := noScentCounts, ue := false })
    let addrs := (hits.zip (List.range hits.length)).flatMap (fun (h, i) =>
      h.rows.map (fun x => if replica then x else i * scentEntries + x))
    { banks := hits.map (·.bank), counts := List.zipWith addCounts r.counts (hits.map (·.counts)),
      next := if replica then (r.next + 1) % max 1 r.banks.length else r.next,
      ue := r.ue || hits.any (·.ue), results := r.results ++ [scentResult addrs],
      seen := r.seen ++ (hits.zip (List.range hits.length)).flatMap (fun (h, i) =>
        h.raw.map (fun x => (i, x))) }

/-- One patrol rewrite (R199, R200): the bank, its counts, and whether an
uncorrectable error was found. -/
def scentPatrolStep (b : ScentBank) (ce ue : Bool) : ScentBank × ScentCounts × Bool :=
  let row := b.patrol
  let b := { b with patrol := (row + 1) % scentEntries, patrolled := true }
  if ue then (scentClear b row, scentAdd noScentCounts 5 1, true)
  else
    let v := scentGet b.verify row
    let counts := scentAdd noScentCounts 4 (b2n ce)
    if scentGet b.matchArr row = v then (b, counts, false)
    else ({ b with matchArr := scentSet b.matchArr row v }, scentAdd counts 7 1, false)

end Sys2Proof.Machine
end

