-- ==== Sys2Proof/Machine/State.lean ====
section
/-! DEFINITION. The state of the device as plain data: everything the spec names
as kept between two steps, grouped by the unit that keeps it. -/

namespace Sys2Proof.Machine

open Sys2Proof

/-! ### Outcomes -/

/-- Why a step stops with a fault. No meaning of this model raises one: every
command of the table has an effect, or finds nothing to act on. -/
inductive Fault where
  /-- Raised by no meaning; kept so that the type has a value. Safe. -/
  | none
  deriving DecidableEq, Repr

/-- Why a step is refused. -/
inductive Refusal where
  /-- Raised by a dispatch arm whose command has no meaning yet. Safe. -/
  | notModelled (mnemonic : String)
  deriving DecidableEq, Repr

/-! ### What leaves the device -/

/-- One thing that the device gives out, in the order in which it does.
(DESIGN CHOICE, safe: log entry 10.) -/
inductive Out where
  /-- A posted write to host memory under a PASID (R20, R562). -/
  | hostWrite (pasid addr : Nat) (data : Bytes)
  /-- The value that a register read returned (R9). -/
  | regRead (off val : Nat)
  /-- An MSI-X message for a vector (R387). -/
  | msix (vector : Nat)
  /-- A frame sent on an Ethernet port of a group (R453). -/
  | ethTx (group port : Nat) (frame : Bytes)
  /-- A frame sent on a RawLink lane of a group (R59). -/
  | rawTx (group lane : Nat) (frame : Bytes)
  /-- Flow control sent on an Ethernet port: the class, and asserted or released (R43). -/
  | flow (group port cls : Nat) (on : Bool)
  /-- A control block sent on a RawLink lane (R40). -/
  | rawCtl (group lane : Nat) (block : Bytes)
  /-- A frame sent on a Leash port: FSEQ, then header and payload (R467, R468). -/
  | leashTx (port fseq : Nat) (frame : Bytes)
  /-- A pulse starts on a VERDICT pin and lasts `width` TCLK (R57). -/
  | pulse (pin tick width : Nat)
  /-- VERDICT[15:0] are held low (R51, R52). -/
  | pinsLow
  /-- A response stands in a mailbox window: MB0 is 256 (R449). -/
  | response (mailbox : Nat) (data : Bytes)
  /-- A PM_PME message, or WAKE# in L2 (R388). -/
  | pme (wake : Bool)
  /-- A value shifted out by a TAP instruction (R542). -/
  | tap (value : Nat)
  deriving DecidableEq, Repr

/-! ### Ingest -/

/-- A fragment as received, with what the parser notes beside it (R44, R122). -/
structure Frag where
  /-- PORT byte of R44. -/
  port : Nat
  /-- LINK: 0 Ethernet, 1 RawLink. -/
  link : Nat
  /-- EP_TICK at arrival. -/
  tick : Nat
  bytes : Bytes
  deriving DecidableEq, Repr

/-- A port of an ingest group, or a lane of a RawLink group. -/
structure PortSt where
  up : Bool := false
  /-- The port's share of the FIFO: class and fragment, oldest first (R36, R43). -/
  fifo : List (Nat × Frag) := []
  /-- Classes on which flow control is asserted (R43). -/
  asserted : List Nat := []
  /-- Classes that the partner holds, with the quanta left (R33). -/
  held : List (Nat × Nat) := []
  /-- FSEQ of the previous SOF since the link came up (R42). -/
  prevFseq : Option Nat := none
  /-- The lane is skipping to its next control block (R42). -/
  skipping : Bool := false
  deriving DecidableEq, Repr

/-- A port group: its ports, and whether it retrains after a MODE write (R32). -/
structure GroupSt where
  ports : List PortSt := List.replicate 4 {}
  retrain : Bool := false
  deriving DecidableEq, Repr

/-- The binding of a kennel's quarantine column (R45, R454). -/
structure QuarSt where
  tspace : Nat
  offset : Nat
  length : Nat
  used : Nat := 0
  entries : Nat := 0
  deriving DecidableEq, Repr

/-! ### Timing unit -/

/-- An event that the timing unit knows and whose verdict is pending (R54, R55). -/
structure VEvent where
  kennel : Nat
  epoch : Nat
  event : Nat
  toffset : Nat
  /-- D, once it could be computed. -/
  due : Option Nat := none
  /-- The decision lines of the held result. -/
  result : Option Nat := none
  /-- A kennel reset passed: the verdict will be the default (R56). -/
  dead : Bool := false
  deriving DecidableEq, Repr

/-- A verdict that has been issued (R55, R56). -/
structure Issued where
  kennel : Nat
  epoch : Nat
  event : Nat
  accept : Bool
  late : Bool
  deriving DecidableEq, Repr

/-- A verdict message in the transmit queue, with its destinations (R59, R453). -/
structure VMsg where
  kennel : Nat
  bytes : Bytes
  dests : List Bytes
  /-- LAT of the Leash broadcast, when one is due (R481). -/
  leash : Option Nat
  deriving DecidableEq, Repr

/-- The epoch counter and the verdict machinery. -/
structure TimingSt where
  epoch : Nat := 0
  count : Nat := 0
  tick : Nat := 0
  /-- The EP_LEN in force (R46). -/
  len : Nat := 0x1000
  /-- The window of the current epoch's starting boundary is used (R48). -/
  startUsed : Bool := false
  /-- The current starting window has closed (counted or used). -/
  startClosed : Bool := true
  /-- B of the 256 most recent epochs, newest first (R54); epoch 0 starts at tick 0. -/
  bTable : List (Nat × Nat) := [(0, 0)]
  events : List VEvent := []
  issued : List Issued := []
  txq : List VMsg := []
  /-- SEQ of the next verdict message of each kennel (R59). -/
  vseq : Tbl Nat := []
  /-- Pins that are high, with the tick at which each falls (R57, R58). -/
  pulses : List (Nat × Nat) := []
  /-- Pins on which verdicts started a pulse in the tick named, one entry for each
  verdict (R58). -/
  starts : List (Nat × Nat) := []
  deriving DecidableEq, Repr

/-! ### Queues -/

/-- What an accepted entry of a WQ became. -/
inductive Work where
  | job (id : Nat)
  | ts (order : Nat)
  | dge (id : Nat)
  | scn (id : Nat)
  | now
  deriving DecidableEq, Repr

/-- An accepted entry that has not retired (R371). -/
structure Inflight where
  seq : Nat
  opc : Nat
  tag : Nat
  solicit : Bool
  work : Work
  /-- The table space from which it reads or to which it writes (R420). -/
  space : Option Nat := none
  deriving DecidableEq, Repr

/-- A queue reset in progress on a WQ (R390, R391). -/
structure QReset where
  discarded : Nat
  abandoned : Nat
  finished : Nat
  /-- SEQNOs that must still retire before it completes. -/
  waitFor : List Nat
  deriving DecidableEq, Repr

/-- A work queue (R365 to R378). -/
structure Wq where
  ring : Nat
  shadow : Nat
  log2 : Nat
  cq : Nat
  pi : Nat := 0
  ci : Nat := 0
  seq : Nat := 0
  stopped : Bool := false
  /-- The push buffer: the index of its slot, and the entry (R378). -/
  push : Option (Nat × Bytes) := none
  /-- The entry at the head has been read and cannot be accepted yet (R373): 2 where
  it waits for a range-lock entry (R428), 1 for any other cause. -/
  waits : Nat := 0
  /-- A shadow read is outstanding, and a doorbell came during it (R376). -/
  reading : Bool := false
  again : Bool := false
  /-- CI has advanced since the shadow was last written (R375). -/
  ciDirty : Bool := false
  inflight : List Inflight := []
  /-- Highest SEQNO whose completion was written (R391). -/
  lastSeq : Option Nat := none
  reset : Option QReset := none
  /-- A doorbell recorded while the device sleeps or activates (R456, R495). -/
  recorded : Bool := false
  deriving DecidableEq, Repr

/-- A DMP QUEUE_RESET whose reply waits: its mailbox, the WQs that have not written
their reset completion, and the records of those that have (R391). -/
structure QReply where
  mailbox : Nat
  left : List Nat
  records : Tbl (Nat × Nat × Nat × Nat) := []
  deriving DecidableEq, Repr

/-- A completion on its way to a CQ (R380). -/
structure Compl where
  cq : Nat
  wq : Nat
  seq : Nat
  /-- Bytes 0 to 30 of the entry; byte 31 gets its PHASE when written. -/
  bytes : Bytes
  solicit : Bool
  /-- The entry is a retirement of SEQNO `seq`, and of this job (R371, R26). -/
  retires : Bool
  job : Option Nat
  deriving DecidableEq, Repr

/-- A completion queue (R367, R369, R385). -/
structure Cq where
  ring : Nat
  shadow : Nat
  log2 : Nat
  modCount : Nat
  irq : Bool
  wake : Bool
  modTime : Nat
  vector : Nat
  tail : Nat := 0
  ci : Nat := 0
  pend : Nat := 0
  timer : Bool := false
  /-- A CQ reset has been requested with the resets of its WQs (R392). -/
  resetting : Bool := false
  deriving DecidableEq, Repr

/-! ### Plans and jobs -/

/-- A vertex record of a loaded plan (R90), with where it was placed (R101). -/
structure Vertex where
  kind : Nat
  flags : Nat
  nin : Nat
  nout : Nat
  place : Nat
  nhounds : Nat
  /-- The configuration record, and the code segment or TEV network. -/
  cfg : Bytes
  body : Bytes
  sramKib : Nat
  spillKib : Nat
  /-- The instance of an engine vertex; the first bank order of a SCENT vertex. -/
  inst : Nat := 0
  /-- The Hounds of a HOUND vertex, or the banks of a SCENT vertex. -/
  units : List Nat := []
  deriving DecidableEq, Repr

/-- An edge record of a loaded plan (R92). -/
structure Edge where
  src : Nat
  srcPort : Nat
  credits : Nat
  /-- Destinations: VID and input port. -/
  dsts : List (Nat × Nat)
  flags : Nat
  log2cap : Nat
  tileBytes : Nat
  deriving DecidableEq, Repr

/-- An ingest binding (R97). -/
structure Bind where
  first : Nat
  last : Nat
  vid : Nat
  groups : Nat
  deriving DecidableEq, Repr

/-- A tombstone: its job, the event, and the FCLK tick of its end (R133). -/
structure Tomb where
  job : Nat
  epoch : Nat
  event : Nat
  death : Nat
  deriving DecidableEq, Repr

/-- A code bitmap in the dictionary cache of a FACET vertex (R154): its job, predicate and
DICTREF, and its bytes. -/
structure Bitmap where
  job : Nat
  pred : Nat
  ref : Nat
  size : Nat
  deriving DecidableEq, Repr

/-- A loaded plan (R98 to R102, R107, R452). -/
structure Plan where
  kennel : Nat
  handle : Nat
  planId : Nat
  mode : Nat
  image : Bytes
  verts : List Vertex
  edges : List Edge
  binds : List Bind
  /-- Dictionaries of the CONST section: DICT_ID and bytes from there on. -/
  dicts : List (Nat × Bytes)
  maxJobs : Nat
  tileSlots : Nat
  scentBanks : Nat
  dgeContexts : Nat
  shcWays : Nat
  dramBytes : Nat
  /-- 2 MiB granules that the plan holds. -/
  granules : List Nat
  /-- Tombstones of each event-build vertex, oldest first: its jobs share the table (R100,
  R133). -/
  tombs : Tbl (List Tomb) := []
  /-- Code bitmaps of each FACET vertex, least recently used first: its jobs share the
  dictionary cache (R100, R154). -/
  bitmaps : Tbl (List Bitmap) := []
  /-- The arbiter of each HOUND vertex, by Hound index (R236). -/
  stageArb : Tbl ArbSt := []
  /-- Fragments that wait for a job on each SRC_INGEST vertex, in blocks (R107). -/
  pool : Tbl (List (List Frag)) := []
  nojob : Nat := 0
  lastStatus : Nat := 0
  lastVid : Nat := 0xFFFF
  lastTag : Nat := 0
  details : List Nat := [0, 0, 0, 0]
  /-- Counts of the vertices since the load: 64 × VID + index (R452). -/
  counts : Tbl Nat := []
  deriving DecidableEq, Repr

/-- What travels on an edge to one destination (R108, R114, R119). -/
inductive EItem where
  | tile (slot : Nat) (data : Bytes)
  | block (slot : Nat) (data : Bytes)
  | skip (seq : Nat)
  /-- A tile that stands in the destination's spill area (R119). -/
  | spilled (data : Bytes)
  | endMark
  deriving DecidableEq, Repr

/-- What a vertex is about to publish on one of its ports. -/
inductive OItem where
  | tile (data : Bytes)
  | skip (seq : Nat)
  deriving DecidableEq, Repr

/-- An edge of a job: the slots held, with the consumers yet to release each,
and what waits for each destination (R94, R116, R119). -/
structure EdgeSt where
  nextSlot : Nat := 0
  slots : List (Nat × Nat) := []
  queues : List (List EItem) := []
  deriving DecidableEq, Repr

/-- A row that an event-build vertex appends at a close (R133, R134). -/
structure BuildRow where
  epoch : Nat
  event : Nat
  toffset : Nat
  srcsum : Nat
  build : Nat
  fields : List (Option Nat)
  evref : Nat
  evbytes : Nat
  deriving DecidableEq, Repr

/-- An open event of an event-build vertex (R127, R128). -/
structure OpenEv where
  epoch : Nat
  event : Nat
  toffset : Nat
  /-- Sources that delivered, each once. -/
  srcs : List Nat
  /-- SYS_BUILD bits gathered so far. -/
  flags : Nat
  /-- FCLK tick at which the slot was opened. -/
  opened : Nat
  /-- Values of the extraction fields captured so far, by field index. -/
  caps : List (Nat × Nat)
  /-- Store offset of the newest entry, and the sum of entry lengths (R136). -/
  newest : Nat := 0xFFFFFFFF
  evbytes : Nat := 0
  deriving DecidableEq, Repr

/-- The state of an event-build vertex. -/
structure BuildSt where
  opens : List OpenEv := []
  /-- Epochs of the job that have closed at this vertex: first and last of each
  run, counted from the job's first epoch. -/
  closed : List (Nat × Nat) := []
  /-- Source CLOSEs taken: epoch and source (R129). -/
  closes : List (Nat × Nat) := []
  /-- The rows of the open output tile of each port (R134). -/
  outs : Tbl (List BuildRow) := []
  /-- FCLK tick at which the first of those rows was appended, by port (R134). -/
  firsts : Tbl Nat := []
  /-- Rows closed but not yet appended, in close order, with their port (R560). -/
  heldRows : List (Nat × BuildRow) := []
  /-- What is left of the fragment block in service: SEQ_GAP flag and fragment. -/
  block : List (Nat × Frag) := []
  /-- The event store: entry offset, length, epoch; oldest first (R136, R137). -/
  store : List (Nat × Nat × Nat) := []
  storeAt : Nat := 0
  /-- Bytes of the store. -/
  storeData : Memory := []
  /-- The wait in progress has been counted: order 6, or the store (R127, R137). -/
  openStall : Bool := false
  storeStall : Bool := false
  deriving DecidableEq, Repr

/-- A value that an engine keeps: none for a null, and for a DICT column its code,
DICTREF and WIDTH beside it. -/
structure Cell where
  val : Option Nat
  dict : Option (Nat × Nat × Nat) := none
  deriving DecidableEq, Repr

/-- A column as first seen by a vertex: TYPE, FRAC and, for a DICT column that
must keep it, DICTREF; whether it carries validity, and the widest WIDTH.
(DEDUCED, safe: log entry 73.) -/
structure ColSig where
  colid : Nat
  ty : Nat
  frac : Nat
  dict : Option Nat
  width : Nat := 0
  hasValid : Bool := false
  deriving DecidableEq, Repr

/-- One row kept by a join vertex (R141, R142). -/
structure JRow where
  /-- The key, or none where it can match nothing. -/
  key : Option (List Cell)
  time : Int
  cols : List Cell
  rowid : Nat
  deriving DecidableEq, Repr

/-- The state of a join vertex (R141 to R143). -/
structure JoinSt where
  rows0 : List JRow := []
  rows1 : List JRow := []
  /-- Watermark of each port: the largest time taken. -/
  mark0 : Option Int := none
  mark1 : Option Int := none
  /-- Key, time and carried columns of each port as in its first tile. -/
  sig0 : List ColSig := []
  sig1 : List ColSig := []
  nextRow : Nat := 0
  /-- Output rows not yet in a tile: carried cells, then the row ids. -/
  outRows : List (List Cell) := []
  deriving DecidableEq, Repr

/-- A sort entry with its row's carried values (R169). `tie` orders equal keys
where STABLE = 0 leaves them open (R172). -/
structure SRow where
  key : List Int
  /-- The reference: the input-store tile number above bit 16, the row within it below. -/
  ref : Nat
  /-- What orders rows of one key: the reference with STABLE, else an open choice. -/
  tie : Nat
  rowid : Nat
  cols : List Cell
  deriving DecidableEq, Repr

/-- The state of a SORT vertex. -/
structure SortSt where
  /-- Rows taken since the last run, in arrival order. -/
  cur : List SRow := []
  runs : List (List SRow) := []
  taken : Nat := 0
  /-- Tiles copied to the input store; the next one takes this number (R169). -/
  tiles : Nat := 0
  storeBytes : Nat := 0
  sig : Option (List ColSig) := none
  event : Option Bool := none
  finished : Bool := false
  deriving DecidableEq, Repr

/-- A group of an AGG vertex (R179, R181). -/
structure AggGroup where
  key : List Cell
  rows : Nat
  flags : Nat
  /-- Each accumulator, or none where it has taken no valid input. -/
  accs : List (Option Int)
  deriving DecidableEq, Repr

/-- The state of an AGG vertex. -/
structure AggSt where
  /-- The resident groups, in their SRAM slots (R179). -/
  groups : List AggGroup := []
  /-- The overflow table in the vertex's spill area, in its order (R179). -/
  overflow : List AggGroup := []
  /-- Bins that are not 0, by linear index (R184). -/
  bins : Tbl Nat := []
  /-- The arbiter among the input ports (R186, R507). -/
  arb : ArbSt := {}
  finished : Bool := false
  deriving DecidableEq, Repr

/-- What a GATE port holds back: a built tile with every row, or a skip mark behind
one (R165). -/
structure GateTile where
  port : Nat
  item : OItem
  deriving DecidableEq, Repr

/-- The state of a FACET vertex. -/
structure FacetSt where
  /-- Prescale counter of each line (R163). -/
  pre : Tbl Nat := []
  /-- Held GATE tiles, oldest first. -/
  gate : List GateTile := []
  deriving DecidableEq, Repr

/-- An open fragment block: its slot, the FCLK tick of its first record, and its records,
each with its SEQ_GAP (R122, R123). -/
structure OpenBlock where
  slot : Nat
  first : Nat
  frags : List (Nat × Frag)
  deriving DecidableEq, Repr

/-- The state of an SRC_INGEST vertex in a job. -/
structure IngestSrc where
  /-- Last SEQ of each source (R124). -/
  lastSeq : Tbl Nat := []
  /-- The open block of each destination (R123, R125). -/
  opens : Tbl OpenBlock := []
  /-- Fragments that waited for the job, not yet put in a block (R107). -/
  early : List Frag := []
  deriving DecidableEq, Repr

/-- The state of an SRC_TS vertex (R106): the range record in service, the
position in it, and whether the last tile has been read. -/
structure TsSrc where
  range : Nat := 0
  pos : Nat := 0
  deriving DecidableEq, Repr

/-- The state of a sink (R112, R115). -/
structure SinkSt where
  /-- Bytes written, and that the closing zero header has been dealt with. -/
  pos : Nat := 0
  closed : Bool := false
  /-- ORDINAL and PART that an ORDERED sink writes next. -/
  ordinal : Nat := 0
  part : Nat := 0
  /-- Rows of the head tile of each port that a verdict sink has taken. -/
  rows : Tbl Nat := []
  deriving DecidableEq, Repr

/-- A tile of a DGE vertex on its way: SEQ, and the digest once it stands (R334). -/
structure DgeTile where
  seq : Nat
  digest : Option Bytes
  deriving DecidableEq, Repr

/-- A tile that arrives in pieces from a sender (R484). -/
structure ExchIn where
  src : Nat
  total : Nat
  seq : Nat
  data : Bytes
  deriving DecidableEq, Repr

/-- The state of a LEASH_EXCH vertex (R484 to R486). -/
structure ExchSt where
  jobkey : Nat := 0
  /-- Credits held at each destination node. -/
  credits : Tbl Nat := []
  /-- Tiles ready to go, each with its destination node. -/
  sends : List (Nat × Bytes) := []
  parts : List ExchIn := []
  /-- Whole tiles received: sender and bytes; they hold a receive slot. -/
  got : List (Nat × Bytes) := []
  /-- Senders whose XEND has arrived; XEND has been sent; credits were given. -/
  ended : List Nat := []
  sentEnd : Bool := false
  opened : Bool := false
  deriving DecidableEq, Repr

/-- What the engine of a vertex keeps for one job. -/
inductive EngSt where
  | none
  | ingest (s : IngestSrc)
  | ts (s : TsSrc)
  | build (s : BuildSt)
  | join (s : JoinSt)
  | facet (s : FacetSt)
  | sort (s : SortSt)
  | agg (s : AggSt)
  | cze (s : CzeSt)
  | dge (tiles : List DgeTile)
  | sink (s : SinkSt)
  | exch (s : ExchSt)
  deriving DecidableEq, Repr

/-- An input slot that a vertex holds until its outputs are published (R116):
the edge, and the destination's place on it. -/
structure InHold where
  edge : Nat
  dst : Nat
  slot : Nat
  deriving DecidableEq, Repr

/-- A vertex of a job in flight. -/
structure VertSt where
  /-- What it is about to publish, with its ports, oldest first. -/
  outq : List (Nat × OItem) := []
  inHold : List InHold := []
  /-- Input ports whose end mark it has taken (R108). -/
  ended : List Nat := []
  /-- It will emit no further tile, and it has sent its end marks. -/
  finished : Bool := false
  endSent : Bool := false
  /-- It has stopped after a failure (R109). -/
  stopped : Bool := false
  /-- The next ordinal of each port of an origin (R114). -/
  ordinals : Tbl Nat := []
  /-- Bytes of its spill area that are in use (R119). -/
  spilled : Nat := 0
  /-- A Hound vertex's spill area (R213), one for the job. -/
  spill : Memory := []
  /-- Hounds of the vertex that have called DONE (R235). -/
  houndsDone : List Nat := []
  eng : EngSt := .none
  deriving DecidableEq, Repr

/-- A job in flight (R103 to R110). -/
structure Job where
  kennel : Nat
  wq : Nat
  seq : Nat
  plan : Nat
  entry : Bytes
  edges : List EdgeSt := []
  verts : List VertSt := []
  /-- The failing status and VID (R109). -/
  failed : Option (Nat × Nat) := none
  /-- A queue or kennel reset abandoned it (R390, R408); no entry is written. -/
  abandoned : Bool := false
  /-- Its completion stands to be written; the slot is still held. -/
  retired : Bool := false
  /-- The row-id counter of an epoch-mode job (R81). -/
  rowid : Nat := 0
  /-- The Shepherd whose event tile took row ids last (R81). -/
  rowArb : ArbSt := {}
  /-- Table-space dictionaries as its tiles first named them, by DICTREF (R78). -/
  dicts : Tbl Bytes := []
  /-- Table spaces of dictionaries that its tiles named (R420). -/
  dictSpaces : List Nat := []
  /-- Bytes that its SINK_HOST vertices wrote (R113). -/
  result0 : Nat := 0
  deriving DecidableEq, Repr

/-- A kennel that exists (R396, R399). -/
structure Kennel where
  pasid : Nat
  /-- The share record of R399, 64 bytes. -/
  share : Bytes
  /-- STATE of KN_STATUS: 1 active, 2 frozen, 3 resetting. -/
  state : Nat := 1
  wqs : Tbl Wq := []
  cqs : Tbl Cq := []
  /-- Completions in the overflow buffer, oldest first, and those beyond it. -/
  ovf : List Compl := []
  stalled : List Compl := []
  plans : Tbl Plan := []
  quar : Option QuarSt := none
  /-- Destination records of BIND_VERDICT (R453). -/
  vdests : List Bytes := []
  /-- The mailbox that waits for the reply of a kennel reset (R410). -/
  resetReply : Option Nat := none
  /-- Each QUEUE_RESET that has not been answered: K0's may come on two mailboxes (R391). -/
  qreplies : List QReply := []
  deriving DecidableEq, Repr

/-- Where the weighted round robin of an engine stands (R101, R402), and the
vertex that it serves. -/
structure EngineSt where
  serving : Option VertexRef := none
  /-- The kennel under the pointer, and the tiles it may still start. -/
  cur : Nat := 65535
  budget : Nat := 0
  /-- Rounds lost in a row, by kennel (R507). -/
  lost : Tbl Nat := []
  /-- The last winner of each kennel: plan handle, VID and job. -/
  last : Tbl (Nat × Nat × Nat) := []
  deriving DecidableEq, Repr

/-- A work queue, or a vertex, of a kennel that waits for a slot (R26, R27, R29). -/
structure SlotReq where
  kennel : Nat
  a : Nat
  b : Nat := 0
  deriving DecidableEq, Repr

/-- Requesters of job slots and tile slots (R29): those that wait, those granted
a slot that they have not taken, and the kennel of the last winner. -/
structure SlotSt where
  jobWait : List SlotReq := []
  jobGrant : List SlotReq := []
  jobArb : ArbSt := {}
  tileWait : List SlotReq := []
  tileGrant : List SlotReq := []
  tileArb : ArbSt := {}
  deriving DecidableEq, Repr

/-! ### DRAM and shared cache -/

/-- A line in a write queue (R348). -/
structure WqLine where
  line : Nat
  data : BitVec 512
  poison : Bool
  deriving DecidableEq, Repr

/-- A write that waits for a free entry of its write queue (R348), with what ECC finds
where it covers only a part of its line, which is then read first. -/
structure HeldWrite where
  line : Nat
  mask : BitVec 64
  data : BitVec 512
  ecc : EccOutcome := .ok
  dev : Nat := 0
  deriving DecidableEq, Repr

/-- A request that the pause of a re-tune holds (R345). -/
inductive DramReq where
  | read (line : Nat) (who : Requester) (ecc : EccOutcome) (dev : BitVec 5)
  | write (w : HeldWrite)
  deriving DecidableEq, Repr

/-- Device DRAM (R338 to R350). -/
structure DramSt where
  mem : Memory := []
  poison : List Nat := []
  /-- Write queues by 2 × channel + subchannel, and the writes that wait. -/
  wqs : Tbl (List WqLine) := []
  held : Tbl (List HeldWrite) := []
  /-- Row tables by bank: (row, count) entries in table order (R346). -/
  rows : Tbl (List (Nat × Nat)) := []
  /-- The line that patrol reads next, by channel: its place among the channel's lines
  (R343). -/
  patrol : Tbl Nat := []
  /-- Eighths whose contents were lost and are not yet zeroed (R350). -/
  lost : BitVec 8 := 0
  /-- Delays by channel × 2^16 + DDR_DLY_SEL, and the channels that have been re-tuned
  since, with the free choice that the re-tune took (R344, R345). -/
  delays : Tbl Nat := []
  retuned : Tbl Nat := []
  /-- The channel that pauses for a re-tune, the mailbox that waits for its end, and the
  requests that the pause holds, oldest first; errors that each channel has corrected
  since its last tune (R345, R450). -/
  pause : Option Nat := none
  pauseReply : Option Nat := none
  pauseReqs : List DramReq := []
  ceSince : Tbl Nat := []
  deriving DecidableEq, Repr

/-- A line of the shared cache (R353, R356). -/
structure ShcLine where
  line : Nat
  dirty : Bool
  poison : Bool
  age : Nat
  data : BitVec 512
  deriving DecidableEq, Repr

/-- A line of the eviction buffer (R357). -/
structure EbufLine where
  line : Nat
  data : BitVec 512
  poison : Bool
  deriving DecidableEq, Repr

/-- A port's outstanding miss (R352, R354, R356). -/
structure ShcMiss where
  kennel : Nat
  line : Nat
  op : ShcOp
  /-- The reserved way: 16 × set + way; none for a bypass or a joined fill. -/
  way : Option Nat
  joined : Bool := false
  /-- Who waits for it (R342). -/
  who : Requester := .none
  /-- The data has come and a direct write has then invalidated the line, so that only
  the answer is due: whether the data was poisoned (R19). -/
  came : Option Bool := none
  deriving DecidableEq, Repr

/-- A request that a port holds back. -/
structure ShcReq where
  kennel : Nat
  line : Nat
  op : ShcOp
  who : Requester := .none
  deriving DecidableEq, Repr

/-- The shared cache (R351 to R360). -/
structure ShcSt where
  /-- Lines by 16 × set + way. -/
  lines : Tbl ShcLine := []
  ebuf : List EbufLine := []
  misses : Tbl ShcMiss := []
  waiting : Tbl (List ShcReq) := []
  /-- The round robin of each slice (R358). -/
  arbs : Tbl ArbSt := []
  /-- Kennel masks that wait for the drain of the ports that they alter, with the mailboxes
  whose replies wait for them (R355, R401). -/
  kmasks : Tbl (Nat × List Nat) := []
  /-- A write of EN = 1 that waits for the end of the write-back (R359). -/
  enableLater : Bool := false
  deriving DecidableEq, Repr

/-! ### Table store and self-test -/

/-- A table space of the directory (R417, R418, R421). -/
structure TSpace where
  /-- The owner, or none where the space is orphaned; and the owner's number. -/
  owner : Option Nat
  former : Nat
  pasid : Nat
  eighths : Nat
  granules : List Nat
  lost : Bool := false
  deriving DecidableEq, Repr

/-- An accepted table-store command (R423 to R430). -/
structure TsCmd where
  order : Nat
  kennel : Nat
  wq : Nat
  seq : Nat
  opc : Nat
  space : Nat
  off : Nat
  len : Nat
  /-- HADDR or PATTERN. -/
  arg : Nat
  /-- It has issued; its pieces that have not completed, as offset and length. -/
  issued : Bool := false
  pieces : List (Nat × Nat) := []
  /-- The first failure: its status, and the offset from which bytes are not certain. -/
  status : Nat := 0
  upTo : Nat := 0
  /-- A flush: orders of the earlier writes that it waits for (R427). -/
  waits : List Nat := []
  deriving DecidableEq, Repr

/-- A TS_CREATE whose granules are being zeroed: the number and what the space will be
(R419). -/
structure TsCreating where
  space : Nat
  body : TSpace
  deriving DecidableEq, Repr

/-- The table store. -/
structure TableStore where
  spaces : Tbl TSpace := []
  cmds : List TsCmd := []
  /-- Creates in progress, by the number of the mailbox that waits. -/
  creating : Tbl TsCreating := []
  deriving DecidableEq, Repr

/-- The DRAM self-test (R433 to R436). -/
structure SelfTestSt where
  running : Bool := false
  extended : Bool := false
  stopping : Bool := false
  /-- Units tested by channel, mismatches and first failing line by channel. -/
  units : Tbl Nat := []
  errs : Tbl Nat := []
  fails : Tbl Nat := []
  deriving DecidableEq, Repr

/-! ### Herder -/

/-- A DMP request: the number of its mailbox, its opcode, and what comes with it.
It may be held until the mailboxes are served (R447, R456, R495). -/
structure HeldMsg where
  mb : Nat
  opcode : Nat
  msg : Msg
  host : Option Bytes
  fresh : Bytes
  tclkKhz : Nat
  tagError : Bool
  deriving DecidableEq, Repr

/-- A firmware activation in progress (R456). -/
structure Activation where
  slot : Nat
  force : Bool
  /-- The old firmware has stopped; the new one has not reached READY. -/
  restarted : Bool := false
  /-- What runs again where it never does: slot, header, runtime and boot slot. -/
  previous : Nat := 0
  header : Bytes := []
  runtime : Bytes := []
  boot : Nat := 0
  deriving DecidableEq, Repr

/-- The Herder: MRAM, the running firmware and what it keeps (R441 to R462).
(DESIGN CHOICE, safe: log entry 80.) -/
structure HerderSt where
  /-- Slots A and B. -/
  slotA : Memory := []
  slotB : Memory := []
  verified : BitVec 2 := 0
  bootSlot : Nat := 0
  minSvn : Nat := 0
  coldBoots : Nat := 0
  /-- DIMM serial numbers and delays of the delay table (R344). -/
  serials : List Nat := []
  delayTable : Tbl Nat := []
  /-- The error log: records dropped off the ring, and the ring (R443, R444). -/
  logBase : Nat := 0
  log : List Bytes := []
  /-- The running image: slot (2 recovery), its header, and the runtime (R213). -/
  slot : Nat := 0
  header : Bytes := []
  runtime : Bytes := []
  hello : Bool := false
  /-- The boot that is to come follows a warm reset, or P4 (R344, R500). -/
  warm : Bool := false
  /-- Firmware that has started in a cold boot waits for the grade's minimum temperature
  (R545). -/
  cold : Bool := false
  /-- The measurement log (R461). -/
  mlog : List Bytes := []
  trunc : Bool := false
  /-- The environment report (R458). -/
  env : Bytes := []
  held : List HeldMsg := []
  /-- The arbiter of the mailboxes: 0 for MB0, k + 1 for kennel k (R450). -/
  mbArb : ArbSt := {}
  act : Option Activation := none
  /-- Herder cores that are locked up (R277, R506). -/
  lockups : List Nat := []
  deriving DecidableEq, Repr

/-! ### Leash -/

/-- A Leash port (R467 to R470, R475). -/
structure LPort where
  up : Bool := false
  txSeq : Nat := 0
  rxSeq : Nat := 0
  /-- Frames sent and not acknowledged: FSEQ, VC and bytes (R467). -/
  replay : List (Nat × Nat × Bytes) := []
  /-- The FSEQ that the last NACK named, and how often in a row. -/
  nacked : Nat := 65536
  tries : Nat := 0
  /-- Frames received and not yet acknowledged. -/
  unacked : Nat := 0
  /-- Frames that wait for a credit of their VC: VC and bytes (R470). -/
  wait : List (Nat × Bytes) := []
  /-- The arbiter of the VCs (R470). -/
  arb : ArbSt := {}
  /-- Delays measured since the link came up, in 0.1 ns (R475). -/
  samples : List Nat := []
  deriving DecidableEq, Repr

/-- A fanned-out verdict that waits for its tick: kennel, lines, flags, tick. -/
structure RemoteVerdict where
  kennel : Nat
  lines : Nat
  flags : Nat
  epoch : Nat
  toffset : Nat
  lat : Nat
  deriving DecidableEq, Repr

/-- Credits and an end that came for an exchange job not yet accepted here (R484). -/
structure ExchEarly where
  kennel : Nat
  channel : Nat
  jobkey : Nat
  src : Nat
  credits : Nat := 0
  ended : Bool := false
  deriving DecidableEq, Repr

/-- An exchange frame that waits for the end of a walk (R472). -/
structure ExchOut where
  kennel : Nat
  channel : Nat
  type : Nat
  dst : Nat
  payload : Bytes
  deriving DecidableEq, Repr

/-- The Leash chain (R466 to R487). -/
structure LeashSt where
  ports : List LPort := List.replicate 4 {}
  /-- Head by election (R471). -/
  elected : Bool := false
  gen : Nat := 0
  /-- The ID held before this walk (R474). -/
  prevId : Option Nat := none
  /-- An ID has been taken in the walk in progress. -/
  tempId : Option Nat := none
  /-- CHAIN_WALK waits for its reply (R487). -/
  reply : Bool := false
  remote : List RemoteVerdict := []
  early : List ExchEarly := []
  outbox : List ExchOut := []
  deriving DecidableEq, Repr

/-! ### Power, pins and interrupts -/

/-- Power control (R490 to R495). -/
structure PowerSt where
  /-- Fetching of WQ entries is stopped: activation, sleep or a device error. -/
  fetchStopped : Bool := false
  gated : List UnitId := []
  pllOff : List Nat := []
  /-- Consecutive checks over a limit at 2.0 GHz, and with every value below 95 %. -/
  overTicks : Nat := 0
  calmTicks : Nat := 0
  deriving DecidableEq, Repr

/-- The pins and the PCIe function's state (R388, R534 to R547). -/
structure PinSt where
  chainHead : Bool := false
  perst : Bool := false
  railsOk : Bool := true
  /-- Active-low outputs, true where they are driven low. -/
  fatalLow : Bool := false
  thermtripLow : Bool := false
  alertLow : Bool := false
  wakeLow : Bool := false
  /-- The TAP instruction in effect: 0 BYPASS, 1 IDCODE, 2 SAMPLE/PRELOAD, 3 EXTEST,
  4 CLAMP, 5 HIGHZ (R542). -/
  tapIr : Nat := 1
  /-- The Revision ID of the PCIe configuration header: stepping B1 (R2). -/
  revisionId : Nat := 0xB1
  /-- PCIe function: D3hot, Bus Master Enable, PME_En, PME_Status, Function Mask. -/
  d3 : Bool := false
  busMaster : Bool := false
  pmeEn : Bool := false
  pmeStatus : Bool := false
  functionMask : Bool := false
  /-- The PCIe link is up (not in L2). -/
  linkUp : Bool := true
  deriving DecidableEq, Repr

/-! ### The device -/

/-- The state of the block. -/
structure State where
  /-- Registers of BAR0 by offset; an unlisted register holds its reset value. -/
  regs : Tbl Nat
  groups : List GroupSt
  timing : TimingSt
  /-- Kennels that exist, by number. -/
  kennels : Tbl Kennel
  jobs : Tbl Job
  /-- The number of the next job, and the next acceptance order. -/
  nextJob : Nat
  nextOrder : Nat
  /-- Engines whose round robin has moved. -/
  engines : List (EngineId × EngineSt)
  slots : SlotSt
  /-- The fetch round robin, by kennel and then by WQ (R379). -/
  qe : ArbSt
  hounds : Tbl HoundSt
  scent : Tbl ScentBank
  /-- Pointers of REPLICA vertices: (kennel, plan, VID) and the next bank (R194). -/
  scentNext : List (Nat × Nat × Nat × Nat)
  dge : DgeSt
  dram : DramSt
  shc : ShcSt
  store : TableStore
  selfTest : SelfTestSt
  herder : HerderSt
  leash : LeashSt
  power : PowerSt
  pins : PinSt
  /-- Vectors that have been requested, and neither sent nor held yet (R387). -/
  vreq : List Nat
  /-- The PBA: vectors whose bit is 1 (R387). -/
  pba : List Nat
  /-- Mailbox windows by number, MB0 as 256 (R448). -/
  windows : Tbl Bytes
  /-- The latest FCLK tick that a command has named; the model's own (log entry 107). -/
  fclk : Nat
  /-- How many free values have been taken; the model's own (log entry 2). -/
  free : Nat
  /-- What the device has given out, oldest first; the model's own. -/
  out : List Out
  /-- Commands that wait, first in first out; the model's own. -/
  pending : List Instr
  deriving DecidableEq, Repr

/-- The device right after a cold reset, before it boots (DESIGN CHOICE, unsafe: log entry 1). -/
def State.reset : State :=
  { regs := [], groups := List.replicate 4 {}, timing := {}, kennels := [], jobs := [],
    nextJob := 0, nextOrder := 0, engines := [], slots := {}, qe := {}, hounds := [], scent := [],
    scentNext := [], dge := {}, dram := {}, shc := {}, store := {}, selfTest := {}, herder := {},
    leash := {}, power := {}, pins := {}, vreq := [], pba := [], windows := [], fclk := 0, free := 0, out := [],
    pending := [] }

end Sys2Proof.Machine
end

