-- ==== Sys2Proof/Machine/SortCore.lean ====
section
/-! DEFINITION. Cells kept by engines, and the sort engine: normalized keys
(R170, R171), run generation, merging and output (R172 to R175), and the checks
of its configuration record (R177, R178). -/

namespace Sys2Proof.Machine

open Sys2Proof

def eSrtColumn : Nat := 0x0701
def eSrtRows : Nat := 0x0702
def eSrtStore : Nat := 0x0703
def eSrtNull : Nat := 0x0704

/-! ### Cells -/

/-- The rows of a strip as cells: values, with code and DICTREF for DICT. -/
def stripCells (s : Strip) (rows : Nat) : Except Nat (List Cell) := do
  let vals ← stripValues s rows
  if s.enc = 2 then
    let codes := unpack rows s.width s.data
    .ok ((vals.zip codes).map (fun p =>
      { val := p.1, dict := some (if p.1.isSome then p.2 else 0, s.base, s.width) }))
  else .ok (vals.map (fun v => { val := v }))

/-- The signature of a strip. -/
def stripSig (s : Strip) : ColSig :=
  { colid := s.colid, ty := s.ty, frac := s.frac,
    dict := if s.enc = 2 then some s.base else none, width := s.width, hasValid := s.hasValid }

/-- A column from cells: DICT where every cell names one DICTREF, else PLAIN. -/
def cellCol (colid ty frac : Nat) (hasValid : Bool) (cells : List Cell) : Col :=
  let refs := cells.map (fun c => c.dict.map (fun d => d.2.1))
  match refs.headD none with
  | some r =>
    if refs.all (· == some r) then
      let w := cells.foldl (fun m c => max m ((c.dict.map (fun d => d.2.2)).getD 0)) 1
      { colid, ty, frac, dict := some (r, w), hasValid,
        vals := cells.map (fun c => c.val.bind (fun _ => c.dict.map (·.1))) }
    else { colid, ty, frac, hasValid, vals := cells.map (·.val) }
  | none => { colid, ty, frac, hasValid, vals := cells.map (·.val) }

/-- Column `i` of a list of rows of cells. -/
def columnOf (rows : List (List Cell)) (i : Nat) : List Cell :=
  rows.map (fun r => (r[i]?).getD { val := none })

/-- A list cut into pieces of `n`. -/
def chunks {α : Type} (n : Nat) : Nat → List α → List (List α)
  | 0, _ => []
  | k + 1, l => if l.isEmpty then [] else l.take n :: chunks n k (l.drop n)

/-- A list cut into pieces of `n`, the last one shorter. -/
def cut {α : Type} (n : Nat) (l : List α) : List (List α) := chunks n l.length l

/-! ### The record (R177) -/

/-- A key descriptor. -/
structure SKey where
  colid : Nat
  ty : Nat
  frac : Nat
  flags : Nat
  width : Nat
  dict : Nat
  clean : Bool

def sortNKey (cfg : Bytes) : Nat := le cfg 1 1
def sortNCarry (cfg : Bytes) : Nat := le cfg 2 2
def sortMaxRows (cfg : Bytes) : Nat := le cfg 4 4
def sortLimit (cfg : Bytes) : Nat := le cfg 8 4
def sortFanin (cfg : Bytes) : Nat := le cfg 12 1
def sortStable (cfg : Bytes) : Bool := bitAt (le cfg 13 1) 0
def sortAllCols (cfg : Bytes) : Bool := bitAt (le cfg 13 1) 1
def sortStoreKib (cfg : Bytes) : Nat := le cfg 16 4

def sortKeyAt (cfg : Bytes) (i : Nat) : SKey :=
  let b := slice cfg (64 + 16 * i) 16
  { colid := le b 0 2, ty := le b 2 1, frac := le b 3 1, flags := le b 4 1, width := le b 5 1,
    dict := le b 8 8, clean := le b 4 1 < 16 && zeroes b 6 2 }

def sortKeys (cfg : Bytes) : List SKey := (List.range (sortNKey cfg)).map (sortKeyAt cfg)

/-- The carried columns: input COLID and output COLID. -/
def sortCarry (cfg : Bytes) : List (Nat × Nat) :=
  (List.range (sortNCarry cfg)).map (fun i =>
    let o := 64 + 16 * sortNKey cfg + 4 * i
    (le cfg o 2, le cfg (o + 2) 2))

def keyCode (k : SKey) : Bool := bitAt k.flags 3
def keyNoNull (k : SKey) : Bool := bitAt k.flags 2
def keyNullsLast (k : SKey) : Bool := bitAt k.flags 1
def keyDesc (k : SKey) : Bool := bitAt k.flags 0

/-- KB: the key bit count of a record (R171). -/
def sortKeyBits (cfg : Bytes) : Nat :=
  sumOf (sortKeys cfg) (fun k =>
    (if keyCode k then k.width else tyWidth k.ty) + b2n (!keyNoNull k))

/-- KEYBYTES (R169). -/
def sortKeyBytes (cfg : Bytes) : Nat := ceilDiv (sortKeyBits cfg) 8

/-- E: the bytes of a sort entry (R169). -/
def sortEntry (cfg : Bytes) : Nat := 8 * ceilDiv (sortKeyBytes cfg + 6) 8

/-! ### Keys -/

/-- A strip agrees with its key descriptor (R170, R171): under CODE its dictionary is the
one named, and is ORDERED. -/
def keyStripOk (k : SKey) (s : Strip) : Bool :=
  s.ty == k.ty && s.frac == k.frac &&
  (!keyCode k || (s.enc == 2 && s.base == k.dict && s.dict.any dictOrdered))

/-- One key column of one row as two integers: null placement, then value (R170). -/
def keyPart (k : SKey) (c : Cell) : Except Nat (List Int) :=
  match c.val with
  | none =>
    if keyNoNull k then .error eSrtNull else .ok [if keyNullsLast k then 2 else 0, 0]
  | some v =>
    let x : Int :=
      if keyCode k then ((c.dict.map (·.1)).getD 0 : Nat)
      else if tyFloat k.ty then fTotalKey (tyWidth k.ty) v
      else valInt k.ty v
    .ok [1, if keyDesc k then -x else x]

/-- The key lists of the rows of one key column. -/
def keyParts (k : SKey) : List Cell → Except Nat (List (List Int))
  | [] => .ok []
  | c :: cs => do
    let p ← keyPart k c
    let ps ← keyParts k cs
    .ok (p :: ps)

/-- The normalized keys of the rows of a tile (R170). -/
def rowKeys (t : PTile) : List SKey → Except Nat (List (List Int))
  | [] => .ok (List.replicate t.rows [])
  | k :: ks =>
    match stripOf t k.colid with
    | none => .error eSrtColumn
    | some s =>
      if !keyStripOk k s then .error eSrtColumn
      else do
        let cells ← stripCells s t.rows
        let ps ← keyParts k cells
        let rest ← rowKeys t ks
        .ok (ps.zipWith (· ++ ·) rest)

/-- Lexicographic order of keys. -/
def keyLt : List Int → List Int → Bool
  | a :: as, b :: bs => a < b || (a == b && keyLt as bs)
  | _, _ => false

/-- Bits of a key column's value in the normalized key (R171). -/
def keyBits (k : SKey) : Nat := if keyCode k then k.width else tyWidth k.ty

/-- Whether the values of a key column have negative numbers below the others. -/
def keySigned (k : SKey) : Bool := !keyCode k && (tySigned k.ty || tyFloat k.ty)

/-- A key column of a row as bits that order as unsigned numbers do: the null flag unless
NONULL, then the value, inverted by DESC (R170, R171). -/
def keyField (k : SKey) (flag x : Int) : Nat × Nat :=
  let w := keyBits k
  let low : Int := if keySigned k then 2 ^ (w - 1) else 0
  let u : Int := if flag != 1 then 0 else if keyDesc k then x + (2 ^ w - 1 - low) else x + low
  let v := (u % 2 ^ w).toNat
  if keyNoNull k then (w, v)
  else (w + 1, v + 2 ^ w * b2n (if keyNullsLast k then flag == 2 else flag == 1))

/-- The normalized key: the fields of the key columns, the first in the highest bits. -/
def normalKey : List SKey → List Int → Nat → Nat
  | k :: ks, flag :: x :: xs, acc =>
    let (w, v) := keyField k flag x
    normalKey ks xs (acc * 2 ^ w + v)
  | _, _, acc => acc

/-- A sort entry: the normalized key in KEYBYTES bytes, its highest byte first, the 6-byte
reference, and zeros up to E bytes (R169). -/
def entryBytes (cfg : Bytes) (r : SRow) : Bytes :=
  let n := sortKeyBytes cfg
  (toLe n (normalKey (sortKeys cfg) r.key 0)).reverse ++ toLe 6 r.ref ++
    zeros (sortEntry cfg - (n + 6))

/-- The order in which rows leave the vertex (R172): by key, then by what `tie` says. -/
def rowLt (a b : SRow) : Bool := keyLt a.key b.key || (a.key == b.key && a.tie < b.tie)

/-! ### Run generation -/

/-- The columns that a tile's rows carry: input and output COLID. -/
def sortColumns (cfg : Bytes) (t : PTile) : List (Nat × Nat) :=
  (if t.event then [0xFF01, 0xFF02, 0xFF03, 0xFF04, 0xFF05].map (fun c => (c, c)) else []) ++
  (if sortAllCols cfg then
     ((t.strips.map (·.colid)).filter (· < 0xFF00)).map (fun c => (c, c))
   else sortCarry cfg)

/-- The cells of the columns named, column by column, with their signatures. -/
def columnsCells (err : Nat) (t : PTile) : List Nat → Except Nat (List (ColSig × List Cell))
  | [] => .ok []
  | c :: cs =>
    match stripOf t c with
    | none => .error err
    | some s => do
      let cells ← stripCells s t.rows
      let rest ← columnsCells err t cs
      .ok ((stripSig s, cells) :: rest)

/-- Later tiles keep TYPE, FRAC and DICTREF of the first; WIDTH and validity widen. -/
def mergeSigs : List ColSig → List ColSig → Option (List ColSig)
  | [], [] => some []
  | a :: as, b :: bs =>
    if a.colid = b.colid && a.ty = b.ty && a.frac = b.frac && a.dict = b.dict then
      (mergeSigs as bs).map (fun r =>
        { a with width := max a.width b.width, hasValid := a.hasValid || b.hasValid } :: r)
    else none
  | _, _ => none

/-- Every named strip exists, before any strip data is read. -/
def sortColumnsOk (cfg : Bytes) (st : SortSt) (t : PTile) : Bool :=
  (sortKeys cfg).all (fun k =>
    match stripOf t k.colid with
    | some s => keyStripOk k s
    | none => false) &&
  (match st.sig with
   | none => (sortColumns cfg t).all (fun c => (stripOf t c.1).isSome)
   | some sig => sig.all (fun g =>
       match stripOf t g.colid with
       | some s => s.ty == g.ty && s.frac == g.frac &&
           (if s.enc = 2 then some s.base else none) == g.dict
       | none => false))

/-- The input columns that the vertex carries, fixed by its first tile (R174). -/
def sortInputs (cfg : Bytes) (st : SortSt) (t : PTile) : List Nat :=
  match st.sig with
  | none => (sortColumns cfg t).map (·.1)
  | some sig => sig.map (·.colid)

/-- A run kept under LIMIT (R172). -/
def limitRun (cfg : Bytes) (run : List SRow) : List SRow :=
  let l := sortLimit cfg
  if l != 0 && l ≤ 65536 then run.take l else run

/-- Cuts full runs of 65,536 entries off the rows taken (R169). -/
def makeRuns (cfg : Bytes) : Nat → List SRow → List (List SRow) × List SRow
  | 0, rows => ([], rows)
  | n + 1, rows =>
    if rows.length < 65536 then ([], rows)
    else
      let (rs, rest) := makeRuns cfg n (rows.drop 65536)
      (limitRun cfg (sortBy rowLt (rows.take 65536)) :: rs, rest)

/-- One input tile (R169 to R175). `tie` gives the open order of the next rows. -/
def sortTake (cfg : Bytes) (tie : Nat → Nat) (st : SortSt) (t : PTile) (len : Nat) :
    Except Nat SortSt :=
  if st.event.getD t.event != t.event then .error eSrtColumn
  else if !sortColumnsOk cfg st t then .error eSrtColumn
  else if st.taken + t.rows > sortMaxRows cfg then .error eSrtRows
  else if st.storeBytes + len > sortStoreKib cfg * 1024 then .error eSrtStore
  else do
    let keys ← rowKeys t (sortKeys cfg)
    let cols ← columnsCells eSrtColumn t (sortInputs cfg st t)
    let ids ← rowIds t
    let sigs := cols.map (·.1)
    let merged ←
      match st.sig with
      | none => .ok sigs
      | some g => match mergeSigs g sigs with
        | some m => .ok m
        | none => .error eSrtColumn
    let row := fun i : Nat =>
      let ref := st.tiles % 2 ^ 32 * 2 ^ 16 + i
      ({ key := (keys[i]?).getD [], ref, tie := if sortStable cfg then ref else tie i,
         rowid := (ids[i]?).getD 0,
         cols := cols.map (fun c => (c.2[i]?).getD { val := none }) } : SRow)
    let all := st.cur ++ (List.range t.rows).map row
    let (rs, rest) := makeRuns cfg (all.length / 65536) all
    .ok { st with cur := rest, runs := st.runs ++ rs, taken := st.taken + t.rows,
                  tiles := st.tiles + 1, storeBytes := st.storeBytes + len, sig := some merged, event := some t.event }

/-- The runs once the input has ended: the last, shorter run included (R169). -/
def sortClose (cfg : Bytes) (st : SortSt) : SortSt :=
  if st.cur.isEmpty then st
  else { st with cur := [], runs := st.runs ++ [limitRun cfg (sortBy rowLt st.cur)] }

/-! ### Merging and output -/

/-- Merges two runs, the earlier one first among equals. -/
def mergeTwo : Nat → List SRow → List SRow → List SRow
  | 0, a, b => a ++ b
  | _ + 1, [], b => b
  | _ + 1, a, [] => a
  | n + 1, x :: xs, y :: ys =>
    if rowLt y x then y :: mergeTwo n (x :: xs) ys else x :: mergeTwo n xs (y :: ys)

/-- Merges a group of runs into one. -/
def mergeRuns (runs : List (List SRow)) : List SRow :=
  runs.foldl (fun acc r => mergeTwo (acc.length + r.length) acc r) []

/-- One intermediate pass: groups of up to FANIN runs become one each, shortened by LIMIT
as the runs before it (R172, R176). -/
def mergePass (cfg : Bytes) (st : SortSt) : SortSt :=
  { st with runs := (cut (sortFanin cfg) st.runs).map (fun g => limitRun cfg (mergeRuns g)) }

/-- Output COLIDs of the carried columns. -/
def sortOutIds (cfg : Bytes) (sig : List ColSig) (event : Bool) : List Nat :=
  if sortAllCols cfg then sig.map (·.colid)
  else (if event then [0xFF01, 0xFF02, 0xFF03, 0xFF04, 0xFF05] else []) ++
    (sortCarry cfg).map (·.2)

/-- A column of the output: DICT with the DICTREF of the first tile, or PLAIN. -/
def sortCol (g : ColSig) (out : Nat) (cells : List Cell) : Col :=
  match g.dict with
  | some r =>
    { colid := out, ty := g.ty, frac := g.frac, dict := some (r, g.width), hasValid := g.hasValid,
      vals := cells.map (fun c => c.val.bind (fun _ => c.dict.map (·.1))) }
  | none =>
    { colid := out, ty := g.ty, frac := g.frac, hasValid := g.hasValid,
      vals := cells.map (·.val) }

/-- The output tiles of the final pass, SEQ left 0 (R174). -/
def sortEmit (cfg : Bytes) (kennel log2cap : Nat) (st : SortSt) : List Bytes :=
  let rows := mergeRuns st.runs
  let rows := if sortLimit cfg = 0 then rows else rows.take (sortLimit cfg)
  let sig := st.sig.getD []
  let event := st.event.getD false
  let outs := sortOutIds cfg sig event
  (cut (2 ^ log2cap) rows).map (fun rs =>
    let cols := (sig.zip outs).mapIdx (fun i p => sortCol p.1 p.2 (columnOf (rs.map (·.cols)) i))
    let idc : Col := { colid := 0xFF00, ty := 8, vals := rs.map (fun r => some r.rowid) }
    buildTile { log2cap, rows := rs.length, seq := 0, rowidBase := 0, kennel,
                dense := false, event } (cols ++ [idc]))

/-! ### Admission (R178) -/

/-- A key descriptor is in range; `ordered r` says that a plan-constant dictionary
named by `r` is ORDERED. -/
def sortKeyOk (ordered : Nat → Bool) (k : SKey) : Bool :=
  k.clean && tyOk k.ty && fracOk k.ty k.frac && (k.colid ≤ 0xFF05) &&
  (if keyCode k then
     k.ty != 0 && 1 ≤ k.width && k.width ≤ 20 && dictRefOk k.dict &&
     (field k.dict 62 2 != 0 || ordered k.dict)
   else k.width == 0 && k.dict == 0)

/-- Check 5 of R99 for a SORT vertex. -/
def sortConfigOk (ordered : Nat → Bool) (cfg : Bytes) (sramKib spillKib : Nat) : Bool :=
  let nk := sortNKey cfg
  let outs := (sortCarry cfg).map (·.2)
  let e := sortEntry cfg
  le cfg 0 1 == 1 && 1 ≤ nk && nk ≤ 4 && sortNCarry cfg ≤ 1024 &&
  (!sortAllCols cfg || sortNCarry cfg == 0) && 1 ≤ sortMaxRows cfg &&
  2 ≤ sortFanin cfg && sortFanin cfg ≤ 64 && le cfg 13 1 < 4 && zeroes cfg 14 2 &&
  1 ≤ sortStoreKib cfg && zeroes cfg 20 44 &&
  cfg.length == 64 + 16 * nk + 4 * sortNCarry cfg &&
  (sortKeys cfg).all (sortKeyOk ordered) && sortKeyBits cfg ≤ 128 &&
  (sortCarry cfg).all (fun p => p.1 ≤ 0xFF05) &&
  allDistinct outs && outs.all (· ≤ 0xFEFF) && 128 * e ≤ sramKib &&
  sortStoreKib cfg + ceilDiv (2 * sortMaxRows cfg * e) 1024 ≤ spillKib

end Sys2Proof.Machine
end

