-- ==== Sys2Proof/Machine/AggCore.lean ====
section
/-! DEFINITION. The aggregation engine: groups and accumulators (R179 to R182),
histograms (R183 to R185), and the checks of its record (R188, R189). -/

namespace Sys2Proof.Machine

open Sys2Proof

def eAggColumn : Nat := 0x0710
def eAggGroups : Nat := 0x0711

/-! ### The record (R188) -/

def aggMode (cfg : Bytes) : Nat := le cfg 1 1
def aggNKey (cfg : Bytes) : Nat := le cfg 2 1
def aggNAcc (cfg : Bytes) : Nat := le cfg 3 1
def aggNAxis (cfg : Bytes) : Nat := le cfg 4 1
def aggNullKey (cfg : Bytes) : Bool := bitAt (le cfg 5 1) 0
def aggSparse (cfg : Bytes) : Bool := bitAt (le cfg 5 1) 1
def aggWFrac (cfg : Bytes) : Nat := le cfg 6 1
def aggResident (cfg : Bytes) : Nat := le cfg 8 4
def aggMaxGroups (cfg : Bytes) : Nat := le cfg 12 4
def aggColCount (cfg : Bytes) : Nat := le cfg 16 2
def aggWCol (cfg : Bytes) : Nat := le cfg 18 2
def aggWType (cfg : Bytes) : Nat := le cfg 20 1
def aggWF (cfg : Bytes) : Nat := le cfg 21 1
def aggColFlags (cfg : Bytes) : Nat := le cfg 22 2

/-- A key or accumulator descriptor: input and output COLID, FUNC, TYPE, FRAC. -/
structure ADesc where
  inCol : Nat
  outCol : Nat
  func : Nat
  ty : Nat
  frac : Nat
  clean : Bool

def aggKeys (cfg : Bytes) : List ADesc :=
  (List.range (aggNKey cfg)).map (fun i =>
    let b := slice cfg (64 + 16 * i) 16
    { inCol := le b 0 2, outCol := le b 2 2, func := 0, ty := le b 4 1, frac := le b 5 1,
      clean := zeroes b 6 10 })

def aggAccs (cfg : Bytes) : List ADesc :=
  (List.range (aggNAcc cfg)).map (fun i =>
    let b := slice cfg (64 + 16 * (aggNKey cfg + i)) 16
    { inCol := le b 0 2, outCol := le b 2 2, func := le b 4 1, ty := le b 5 1, frac := le b 6 1,
      clean := zeroes b 7 9 })

/-- An axis descriptor. -/
structure AAxis where
  colid : Nat
  ty : Nat
  frac : Nat
  flags : Nat
  nbins : Nat
  lo : Nat
  hi : Nat
  clean : Bool

def aggAxes (cfg : Bytes) : List AAxis :=
  (List.range (aggNAxis cfg)).map (fun i =>
    let b := slice cfg (64 + 32 * i) 32
    { colid := le b 0 2, ty := le b 2 1, frac := le b 3 1, flags := le b 4 1, nbins := le b 8 4,
      lo := le b 16 8, hi := le b 24 8,
      clean := le b 4 1 < 2 && zeroes b 5 3 && zeroes b 12 4 })

def axisUof (a : AAxis) : Bool := bitAt a.flags 0

/-- NX of an axis (R183). -/
def axisNX (a : AAxis) : Nat := a.nbins + (if axisUof a then 2 else 0)

/-- NTOT (R184). -/
def aggNTot (cfg : Bytes) : Nat := (aggAxes cfg).foldl (fun n a => n * axisNX a) 1

/-! ### Grouping -/

/-- The first code of a dictionary whose entry is a given pattern. -/
def codeOf (d : DictView) (row w v : Nat) : Option Nat :=
  (List.range (min (dictCount d) (2 ^ 20))).find? (fun i => d.entry row w i == v)

/-- The value that a key cell has in its group: one NaN and one zero for all (R180). -/
def groupVal (ty v : Nat) : Nat :=
  let w := tyWidth ty
  if !tyFloat ty then v else if fIsNaN w v then fNaN w else if fIsZero w v then 0 else v

/-- A key cell as R180 groups it. A DICT cell whose value the group changes takes the code
of the new value, or leaves its dictionary where that has none. (DESIGN CHOICE,
safe: log entry 111.) -/
def groupCell (dict : Option DictView) (ty row : Nat) (c : Cell) : Cell :=
  match c.val with
  | none => { c with val := none, dict := c.dict.map (fun d => (0, d.2)) }
  | some v =>
    let v' := groupVal ty v
    if v' = v then c
    else
      { val := some v',
        dict := c.dict.bind (fun d =>
          (dict.bind (fun e => codeOf e row (tyWidth ty) v')).map (fun code => (code, d.2))) }

/-- Two key cells are equal under R140 and R180: under one DICTREF by code, but for the
NaNs and the zeros, which fall together. -/
def cellEq (ty : Nat) (a b : Cell) : Bool :=
  match a.val, b.val with
  | none, none => true
  | some x, some y =>
    match a.dict, b.dict with
    | some (ca, ra, _), some (cb, rb, _) =>
      if ra = rb then ca == cb || (x == y && tyFloat ty && (fIsNaN (tyWidth ty) x || x == 0))
      else x == y
    | _, _ => x == y
  | _, _ => false

def cellsEq : List Nat → List Cell → List Cell → Bool
  | _, [], [] => true
  | tys, a :: as, b :: bs => cellEq (tys.headD 0) a b && cellsEq (tys.drop 1) as bs
  | _, _, _ => false

/-- A saturating 64-bit sum: the result, and whether it clamped (R181). -/
def satSum (isSigned : Bool) (a b : Int) : Int × Bool :=
  let s := a + b
  let r := if isSigned then satS 64 s else satU 64 s
  (r, r != s)

/-- One accumulator taking one input (R181): the new value, and a saturation. -/
def accTake (d : ADesc) (acc : Option Int) (v : Option Nat) : Option Int × Bool :=
  match v with
  | none => (acc, false)
  | some x =>
    let w := tyWidth d.ty
    let key := fun (p : Nat) => if tyFloat d.ty then fTotalKey w p else valInt d.ty p
    match d.func with
    | 1 => (some (acc.getD 0 + 1), false)
    | 2 =>
      let (s, c) := satSum (tySigned d.ty) (acc.getD 0) (valInt d.ty x)
      (some s, c)
    | 3 =>
      let y := if d.ty = 0xC then f32to64 x else x
      match acc with
      | none => (some (fAdd 64 0 y : Nat), false)
      | some a => (some (fAdd 64 a.toNat y : Nat), false)
    | 4 =>
      if tyFloat d.ty && fIsNaN w x then (acc, false)
      else match acc with
        | none => (some (x : Nat), false)
        | some a => (if key x < key a.toNat then some (x : Nat) else some a, false)
    | 5 =>
      if tyFloat d.ty && fIsNaN w x then (acc, false)
      else match acc with
        | none => (some (x : Nat), false)
        | some a => (if key a.toNat < key x then some (x : Nat) else some a, false)
    | 6 => (some (((acc.getD 0).toNat ||| x : Nat) : Int), false)
    | _ =>
      match acc with
      | none => (some (x : Nat), false)
      | some a => (some ((a.toNat &&& x : Nat) : Int), false)

/-- The accumulators of a group taking one row, with flags and saturations. -/
def accsTake : Nat → List ADesc → List (Option Int) → List Cell → Nat →
    List (Option Int) × Nat × Nat
  | i, d :: ds, a :: as, c :: cs, flags =>
    let (a', sat) := accTake d a c.val
    let flags' := if sat then flags ||| 2 ^ i else flags
    let (rest, f, n) := accsTake (i + 1) ds as cs flags'
    (a' :: rest, f, n + b2n sat)
  | _, _, _, _, flags => ([], flags, 0)

/-- What AGG counts while it takes rows. -/
structure AggCount where
  updates : Nat := 0
  groupsNew : Nat := 0
  ovfUpd : Nat := 0
  nullKey : Nat := 0
  hrange : Nat := 0
  hskip : Nat := 0
  sat : Nat := 0

/-- The place of a key among the groups. -/
def findGroup (tys : List Nat) (key : List Cell) : Nat → List AggGroup → Option Nat
  | _, [] => none
  | i, g :: gs => if cellsEq tys g.key key then some i else findGroup tys key (i + 1) gs

/-- The groups of a vertex, the resident ones first. -/
def allGroups (st : AggSt) : List AggGroup := st.groups ++ st.overflow

/-- Groups in their places: the first RESIDENT in SRAM, the others in the overflow table of
the spill area; a group never moves between the two (R179). -/
def placeGroups (cfg : Bytes) (st : AggSt) (gs : List AggGroup) : AggSt :=
  { st with groups := gs.take (aggResident cfg), overflow := gs.drop (aggResident cfg) }

/-- The key values of a group, one above the other in their TYPE widths. -/
def packKey : List ADesc → List Cell → Nat
  | d :: ds, c :: cs => c.val.getD 0 + 2 ^ tyWidth d.ty * packKey ds cs
  | _, _ => 0

/-- The 64 B entry of a group (R179): 16 B of key, 8 B of row count and flags, five 8 B
accumulators. -/
def groupEntry (cfg : Bytes) (g : AggGroup) : Bytes :=
  let nulls := sumOf ((List.range 4).filter (fun i => (g.key[i]?).any (·.val.isNone))) (2 ^ ·)
  toLe 16 (packKey (aggKeys cfg) g.key) ++
    toLe 8 (g.rows % 2 ^ 55 + 2 ^ 55 * (g.flags % 32) + 2 ^ 60 * nulls) ++
    (List.range 5).flatMap (fun i => toLe 8 (pattern 64 (((g.accs[i]?).getD none).getD 0)))

/-- One row taken by a GROUP vertex (R179 to R181). -/
def groupRow (cfg : Bytes) (keys : List Cell) (vals : List Cell) (st : AggSt) (n : AggCount) :
    Except Nat (AggSt × AggCount) :=
  if !aggNullKey cfg && keys.any (fun c => c.val.isNone) then
    .ok (st, { n with nullKey := n.nullKey + 1 })
  else
    let ds := aggAccs cfg
    let take := fun (g : AggGroup) =>
      let (accs, flags, sats) := accsTake 0 ds g.accs vals g.flags
      ({ g with rows := g.rows + 1, accs, flags }, sats)
    let ovf := fun i => b2n (aggResident cfg ≤ i)
    match findGroup ((aggKeys cfg).map (·.ty)) keys 0 (allGroups st) with
    | some i =>
      let (gs, sats) := (allGroups st).foldl (fun (acc : List AggGroup × Nat) g =>
        if acc.1.length = i then let (g', s) := take g; (acc.1 ++ [g'], acc.2 + s)
        else (acc.1 ++ [g], acc.2)) ([], 0)
      .ok (placeGroups cfg st gs,
           { n with updates := n.updates + 1, sat := n.sat + sats, ovfUpd := n.ovfUpd + ovf i })
    | none =>
      if (allGroups st).length ≥ aggMaxGroups cfg then .error eAggGroups
      else
        let (g, sats) := take { key := keys, rows := 0, flags := 0, accs := ds.map (fun _ => none) }
        .ok (placeGroups cfg st (allGroups st ++ [g]),
             { n with updates := n.updates + 1, groupsNew := n.groupsNew + 1,
                      sat := n.sat + sats, ovfUpd := n.ovfUpd + ovf (allGroups st).length })

/-! ### Histograms -/

/-- NBINS / (HI − LO) of a float axis, rounded once (R183). -/
def axisScale (a : AAxis) (lo hi : Nat) : Nat :=
  let (ml, el) := fSigned 64 lo
  let (mh, eh) := fSigned 64 hi
  let e := min el eh
  fRound 64 false a.nbins (mh * 2 ^ (eh - e).toNat - ml * 2 ^ (el - e).toNat).toNat (-e)

/-- The index of a value on an axis: none where it is a NaN; `some none` where it
falls outside an axis without overflow bins (R183). (DESIGN CHOICE, safe: log entry 127.) -/
def axisIndex (a : AAxis) (v : Nat) : Option (Option Nat) :=
  if tyFloat a.ty then
    let w := tyWidth a.ty
    let wide := fun x => if a.ty = 0xC then f32to64 x else x
    if fIsNaN w v then none
    else if fLt w v (a.lo % 2 ^ w) then some (if axisUof a then some 0 else none)
    else if fLe w (a.hi % 2 ^ w) v then some (if axisUof a then some (a.nbins + 1) else none)
    else
      let lo := wide (a.lo % 2 ^ w)
      let x := fMul 64 (fSub 64 (wide v) lo) (axisScale a lo (wide (a.hi % 2 ^ w)))
      let i :=
        if fIsNaN 64 x || fIsInf 64 x then Config.openBin a.lo a.hi v % a.nbins
        else min (fToInt 2 64 x).toNat (a.nbins - 1)
      some (some (i + b2n (axisUof a)))
  else
    let x := valInt a.ty v
    let lo := valInt a.ty a.lo
    let hi := valInt a.ty a.hi
    if x < lo then some (if axisUof a then some 0 else none)
    else if hi ≤ x then some (if axisUof a then some (a.nbins + 1) else none)
    else some (some (((x - lo) * a.nbins / (hi - lo)).toNat + b2n (axisUof a)))

/-- The amount a row adds to its bin (R184). -/
def binAmount (cfg : Bytes) (weight : Nat) : Int :=
  if aggWCol cfg = 0xFFFF then 2 ^ aggWFrac cfg
  else
    let w := valInt (aggWType cfg) weight
    let f := aggWF cfg
    let wf := aggWFrac cfg
    if wf ≥ f then w * 2 ^ (wf - f) else (w + 2 ^ (f - wf - 1)) / 2 ^ (f - wf)

/-- The bin of a row from its axis values, x + NX₀ × y (R184). -/
def linearBin : Nat → List AAxis → List (Option Nat) → Option (Option Nat)
  | _, [], _ => some (some 0)
  | _, _, [] => some (some 0)
  | scale, a :: as, v :: vs =>
    match v.bind (axisIndex a) with
    | none => none
    | some i =>
      match linearBin (scale * axisNX a) as vs with
      | none => none
      | some r => some (match i, r with
        | some i, some r => some (scale * i + r)
        | _, _ => none)

/-- One row taken by a HIST vertex (R183, R184). -/
def histRow (cfg : Bytes) (axes : List Cell) (weight : Option Nat) (st : AggSt) (n : AggCount) :
    AggSt × AggCount :=
  match linearBin 1 (aggAxes cfg) (axes.map (·.val)), weight with
  | none, _ => (st, { n with hskip := n.hskip + 1 })
  | _, none => (st, { n with hskip := n.hskip + 1 })
  | some none, _ => (st, { n with hrange := n.hrange + 1 })
  | some (some b), some w =>
    let y := ((tget st.bins b 0 : Nat) : Int) + binAmount cfg w
    let r := satU 32 y
    ({ st with bins := if r = 0 then tdel st.bins b else tset st.bins b r.toNat },
     { n with updates := n.updates + 1, sat := n.sat + b2n (r != y) })

/-! ### One tile -/

/-- A named column is there with its TYPE and FRAC. -/
def aggColOk (t : PTile) (colid ty frac : Nat) : Bool :=
  match stripOf t colid with
  | some s => s.ty == ty && s.frac == frac
  | none => false

def aggColumnsOk (cfg : Bytes) (t : PTile) : Bool :=
  (aggKeys cfg ++ aggAccs cfg).all (fun d => aggColOk t d.inCol d.ty d.frac) &&
  (aggAxes cfg).all (fun a => aggColOk t a.colid a.ty a.frac) &&
  (aggWCol cfg == 0xFFFF || aggMode cfg == 1 ||
   aggColOk t (aggWCol cfg) (aggWType cfg) (aggWF cfg))

/-- The cells of a key column as R180 groups them. -/
def groupCells (t : PTile) (c : ColSig × List Cell) : ColSig × List Cell :=
  let dict := (stripOf t c.1.colid).bind (·.dict)
  (c.1, c.2.mapIdx (groupCell dict c.1.ty))

/-- The rows from `i` on, with the cells of each named column. -/
def aggRows (cfg : Bytes) (keys accs axes : List (ColSig × List Cell))
    (weights : Option (List Cell)) : Nat → Nat → AggSt → AggCount →
    Except Nat (AggSt × AggCount)
  | 0, _, st, n => .ok (st, n)
  | k + 1, i, st, n =>
    let at_ := fun (c : ColSig × List Cell) => (c.2[i]?).getD { val := none }
    if aggMode cfg = 1 then do
      let key := keys.map at_
      let (st', n') ← groupRow cfg key (accs.map at_) st n
      aggRows cfg keys accs axes weights k (i + 1) st' n'
    else
      let w := match weights with
        | none => some 0
        | some l => ((l[i]?).getD { val := none }).val
      let (st', n') := histRow cfg (axes.map at_) w st n
      aggRows cfg keys accs axes weights k (i + 1) st' n'

/-- One input tile (R179 to R186). (DEDUCED, unsafe: log entry 74.) -/
def aggTake (cfg : Bytes) (st : AggSt) (t : PTile) : Except Nat (AggSt × AggCount) :=
  if !aggColumnsOk cfg t then .error eAggColumn
  else do
    let keys ← columnsCells eAggColumn t ((aggKeys cfg).map (·.inCol))
    let accs ← columnsCells eAggColumn t ((aggAccs cfg).map (·.inCol))
    let axes ← columnsCells eAggColumn t ((aggAxes cfg).map (·.colid))
    let weights ←
      if aggMode cfg = 2 && aggWCol cfg != 0xFFFF then
        (columnsCells eAggColumn t [aggWCol cfg]).map (fun l => (l.head?).map (·.2))
      else .ok none
    aggRows cfg (keys.map (groupCells t)) accs axes weights t.rows 0 st {}

/-! ### Emission -/

/-- TYPE and FRAC of an accumulator's output (R181). -/
def accOutType (d : ADesc) : Nat × Nat :=
  match d.func with
  | 1 => (8, 0)
  | 2 => if tyFixed d.ty then (0xB, d.frac) else if tySigned d.ty then (7, 0) else (8, 0)
  | 3 => (0xD, 0)
  | _ => (d.ty, d.frac)

/-- The emitted value of an accumulator, and whether it saturates then (R181). -/
def accOut (d : ADesc) (acc : Option Int) : Option Nat × Bool :=
  match d.func, acc with
  | 1, a => (some (a.getD 0).toNat, false)
  | _, none => (none, false)
  | 2, some s =>
    if tyFixed d.ty then
      let r := satS 32 s
      (some (pattern 32 r), r != s)
    else (some (pattern 64 s), false)
  | _, some s => (some s.toNat, false)

/-- The flags of a group once its accumulators are emitted, and new saturations. -/
def finalFlags : Nat → List ADesc → List (Option Int) → Nat → Nat × Nat
  | i, d :: ds, a :: as, flags =>
    let sat := (accOut d a).2
    let (f, n) := finalFlags (i + 1) ds as (if sat then flags ||| 2 ^ i else flags)
    (f, n + b2n sat)
  | _, _, _, flags => (flags, 0)

/-- The tiles of a GROUP vertex, SEQ left 0 (R182). -/
def groupEmit (cfg : Bytes) (kennel log2cap : Nat) (st : AggSt) : List Bytes :=
  let cap := 2 ^ log2cap
  (cut cap (allGroups st)).mapIdx (fun ti gs =>
    let keys := (aggKeys cfg).mapIdx (fun i d =>
      cellCol d.outCol d.ty d.frac (gs.any (fun g => ((g.key[i]?).getD { val := none }).val.isNone))
        (columnOf (gs.map (·.key)) i))
    let accs := (aggAccs cfg).mapIdx (fun i d =>
      let vals := gs.map (fun g => (accOut d ((g.accs[i]?).getD none)).1)
      ({ colid := d.outCol, ty := (accOutType d).1, frac := (accOutType d).2,
         hasValid := vals.any (·.isNone), vals } : Col))
    let count := if aggColCount cfg = 0xFFFF then [] else
      [({ colid := aggColCount cfg, ty := 8, vals := gs.map (fun g => some g.rows) } : Col)]
    let flags := if aggColFlags cfg = 0xFFFF then [] else
      [({ colid := aggColFlags cfg, ty := 2,
          vals := gs.map (fun g => some (finalFlags 0 (aggAccs cfg) g.accs g.flags).1) } : Col)]
    buildTile { log2cap, rows := gs.length, seq := 0, rowidBase := ti * cap, kennel,
                dense := true, event := false } (keys ++ accs ++ count ++ flags))

/-- Saturations that emission itself causes. -/
def emitSats (cfg : Bytes) (st : AggSt) : Nat :=
  sumOf (allGroups st) (fun g => (finalFlags 0 (aggAccs cfg) g.accs g.flags).2)

/-- The tiles of a HIST vertex, SEQ left 0 (R185). -/
def histEmit (cfg : Bytes) (kennel log2cap : Nat) (st : AggSt) : List Bytes :=
  let cap := 2 ^ log2cap
  let all : List (Nat × Nat) :=
    if aggSparse cfg then st.bins
    else (List.range (aggNTot cfg)).map (fun i => (i, tget st.bins i 0))
  (cut cap all).mapIdx (fun ti bs =>
    let col : Col := { colid := aggColCount cfg, ty := 6, vals := bs.map (fun b => some b.2) }
    let ids : Col := { colid := 0xFF00, ty := 8, vals := bs.map (fun b => some b.1) }
    buildTile { log2cap, rows := bs.length, seq := 0,
                rowidBase := if aggSparse cfg then 0 else ti * cap, kennel,
                dense := !aggSparse cfg, event := false }
      (if aggSparse cfg then [col, ids] else [col]))

/-- The tiles that an AGG vertex emits at the end of the job. -/
def aggEmitTiles (cfg : Bytes) (kennel log2cap : Nat) (st : AggSt) : List Bytes :=
  if aggMode cfg = 1 then groupEmit cfg kennel log2cap st else histEmit cfg kennel log2cap st

/-! ### Admission (R189) -/

/-- A function and an input type go together (R181). -/
def accAllows (func ty : Nat) : Bool :=
  match func with
  | 1 => tyOk ty
  | 2 => tyInteger ty
  | 3 => tyFloat ty
  | 4 | 5 => tyOk ty && ty != 0
  | 6 | 7 => ty ≤ 8
  | _ => false

def axisOk (a : AAxis) : Bool :=
  a.clean && 1 ≤ a.ty && a.ty ≤ 0xD && fracOk a.ty a.frac && a.colid ≤ 0xFF05 &&
  1 ≤ a.nbins && a.nbins ≤ 1048574 && baseOk a.ty a.lo && baseOk a.ty a.hi &&
  (if tyFloat a.ty then
     let w := tyWidth a.ty
     !fIsNaN w a.lo && !fIsNaN w a.hi && !fIsInf w a.lo && !fIsInf w a.hi && fLt w a.lo a.hi
   else valInt a.ty a.lo < valInt a.ty a.hi)

/-- Check 5 of R99 for an AGG vertex. -/
def aggConfigOk (cfg : Bytes) (sramKib spillKib : Nat) : Bool :=
  let keys := aggKeys cfg
  let accs := aggAccs cfg
  let outs := (keys ++ accs).map (·.outCol) ++
    [aggColCount cfg, aggColFlags cfg].filter (· != 0xFFFF)
  le cfg 0 1 == 1 && le cfg 5 1 < 4 && zeroes cfg 7 1 && zeroes cfg 24 40 &&
  allDistinct outs && outs.all (· ≤ 0xFEFF) &&
  (if aggMode cfg = 1 then
     1 ≤ keys.length && keys.length ≤ 4 && 1 ≤ accs.length && accs.length ≤ 5 &&
     aggNAxis cfg == 0 && aggWFrac cfg == 0 && !aggSparse cfg &&
     1024 ≤ aggResident cfg && aggResident cfg ≤ 65536 && aggResident cfg % 1024 == 0 &&
     aggResident cfg ≤ aggMaxGroups cfg && aggMaxGroups cfg ≤ 268435456 &&
     aggWCol cfg == 0xFFFF && aggWType cfg == 0 && aggWF cfg == 0 &&
     cfg.length == 64 + 16 * (keys.length + accs.length) &&
     keys.all (fun d => d.clean && tyOk d.ty && fracOk d.ty d.frac && d.inCol ≤ 0xFF05) &&
     accs.all (fun d => d.clean && accAllows d.func d.ty && fracOk d.ty d.frac && d.inCol ≤ 0xFF05) &&
     sumOf keys (fun d => tyWidth d.ty) ≤ 128 &&
     ceilDiv (aggResident cfg) 16 ≤ sramKib && ceilDiv (aggMaxGroups cfg) 8 ≤ spillKib
   else if aggMode cfg = 2 then
     keys.length == 0 && accs.length == 0 && 1 ≤ aggNAxis cfg && aggNAxis cfg ≤ 2 &&
     aggWFrac cfg ≤ 16 && !aggNullKey cfg && aggResident cfg == 0 && aggMaxGroups cfg == 0 &&
     aggColCount cfg != 0xFFFF && aggColFlags cfg == 0xFFFF &&
     cfg.length == 64 + 32 * aggNAxis cfg && (aggAxes cfg).all axisOk &&
     (if aggWCol cfg = 0xFFFF then aggWType cfg == 0 && aggWF cfg == 0
      else aggWCol cfg ≤ 0xFF05 && [2, 4, 9, 0xA, 0xB].contains (aggWType cfg) &&
        fracOk (aggWType cfg) (aggWF cfg)) &&
     aggNTot cfg ≤ 1048576 && ceilDiv (4 * aggNTot cfg) 1024 ≤ sramKib
   else false)

end Sys2Proof.Machine
end

