-- ==== Sys2Proof/Machine/FacetCore.lean ====
section
/-! DEFINITION. The Facet engine on one tile: predicates (R149 to R154), the term
evaluator (R162 to R164), output ports (R160, R165), and the admission checks of
the configuration record and the network (R158 to R162). -/

namespace Sys2Proof.Machine

open Sys2Proof

def eFeColumn : Nat := 0x0601
def eFeEvent : Nat := 0x0602

/-! ### The record -/

/-- A predicate descriptor (R159). -/
structure FPred where
  colid : Nat
  op : Nat
  ty : Nat
  frac : Nat
  lo : Nat
  hi : Nat
  setOff : Nat
  nset : Nat
  clean : Bool

/-- A port descriptor (R160). -/
structure FPort where
  pmode : Nat
  sel : Nat
  flags : Nat
  gateDepth : Nat
  colFirst : Nat
  ncol : Nat
  colLines : Nat
  colSel : Nat
  clean : Bool

def facetNPred (cfg : Bytes) : Nat := le cfg 2 2
def facetNCol (cfg : Bytes) : Nat := le cfg 4 2
def facetTev (cfg : Bytes) : Bool := bitAt (le cfg 6 1) 0
def facetDcache (cfg : Bytes) : Nat := le cfg 8 2

/-- Port descriptor `i`. -/
def facetPort (cfg : Bytes) (i : Nat) : FPort :=
  let b := slice cfg (64 + 16 * i) 16
  { pmode := le b 0 1, sel := le b 1 1, flags := le b 2 1, gateDepth := le b 3 1,
    colFirst := le b 4 2, ncol := le b 6 2, colLines := le b 8 2, colSel := le b 10 2,
    clean := le b 2 1 < 4 && zeroes b 12 4 }

/-- The predicate descriptor at `b`. -/
def facetPredAt (b : Bytes) : FPred :=
  { colid := le b 0 2, op := le b 2 1, ty := le b 3 1, frac := le b 4 1, lo := le b 8 8,
    hi := le b 16 8, setOff := le b 24 4, nset := le b 28 4, clean := zeroes b 5 3 }

/-- The predicates in index order. -/
def facetPreds (cfg : Bytes) : List FPred :=
  (List.range (facetNPred cfg)).map (fun i => facetPredAt (slice cfg (192 + 32 * i) 32))

/-- The column list. -/
def facetColList (cfg : Bytes) : List Nat :=
  (List.range (facetNCol cfg)).map (fun i => le cfg (192 + 32 * facetNPred cfg + 2 * i) 2)

def portGate (p : FPort) : Bool := bitAt p.flags 0
def portAll (p : FPort) : Bool := bitAt p.flags 1

/-- The IN set of a predicate, from CONST. -/
def predSet (const : Bytes) (p : FPred) : List Nat :=
  unpack p.nset (tyWidth p.ty) (const.drop p.setOff)

/-! ### Predicates -/

/-- `v < x` and its kin by type: IEEE comparison for floats (R150). -/
def ltTy (ty a b : Nat) : Bool :=
  if tyFloat ty then fLt (tyWidth ty) a b else valInt ty a < valInt ty b

def leTy (ty a b : Nat) : Bool :=
  if tyFloat ty then fLe (tyWidth ty) a b else valInt ty a ≤ valInt ty b

def eqTy (ty a b : Nat) : Bool :=
  if tyFloat ty then fEq (tyWidth ty) a b else a % 2 ^ tyWidth ty == b % 2 ^ tyWidth ty

/-- The bit of a predicate on a valid row's value (R149, R150). -/
def predBit (p : FPred) (set : List Nat) (v : Nat) : Bool :=
  let m := 2 ^ tyWidth p.ty
  let lo := p.lo % m
  let hi := p.hi % m
  match p.op with
  | 0x01 => eqTy p.ty v lo
  | 0x02 => !eqTy p.ty v lo
  | 0x03 => ltTy p.ty v lo
  | 0x04 => leTy p.ty v lo
  | 0x05 => ltTy p.ty lo v
  | 0x06 => leTy p.ty lo v
  | 0x07 => leTy p.ty lo v && leTy p.ty v hi
  | 0x08 => set.any (fun x => eqTy p.ty v x)
  | 0x09 => v % m &&& lo != 0
  | 0x0A => v % m &&& lo == lo
  | 0x0C => true
  | _ => false

/-- The least index of a dictionary whose entry is not below `x` (or is above it,
with `strict`), by binary search between `a` and `b` (R153), which no row makes. -/
def dictBound (d : DictView) (ty : Nat) (strict : Bool) (x : Nat) : Nat → Nat → Nat → Nat
  | 0, a, _ => a
  | n + 1, a, b =>
    if a ≥ b then a
    else
      let m := (a + b) / 2
      let e := d.entry 65536 (tyWidth ty) m
      let below := if strict then valInt ty e ≤ valInt ty x else valInt ty e < valInt ty x
      if below then dictBound d ty strict x n (m + 1) b else dictBound d ty strict x n a m

/-- A range test on the codes of an ORDERED dictionary (R152, R153). -/
def predCode (p : FPred) (d : DictView) (code : Nat) : Bool :=
  let m := 2 ^ tyWidth p.ty
  let n := dictCount d
  let lower := fun x => dictBound d p.ty false x 21 0 n
  let upper := fun x => dictBound d p.ty true x 21 0 n
  let lo := p.lo % m
  let hi := p.hi % m
  match p.op with
  | 0x03 => code < lower lo
  | 0x04 => code < upper lo
  | 0x05 => upper lo ≤ code
  | 0x06 => lower lo ≤ code
  | _ => lower lo ≤ code && code < upper hi

/-- The predicate is a range test that the engine makes on codes (R152). -/
def predByCode (p : FPred) (s : Strip) : Bool :=
  0x03 ≤ p.op && p.op ≤ 0x07 && s.enc == 2 && !tyFloat p.ty &&
  (match s.dict with | some d => dictOrdered d | none => false)

/-- The predicate is evaluated through a code bitmap (R152). -/
def predPartial (p : FPred) (s : Strip) : Bool :=
  s.enc == 2 && p.op != 0x0B && p.op != 0x0C &&
  (match s.dict with
   | none => false
   | some d =>
     !dictOrdered d || p.op == 0x08 || p.op == 0x09 || p.op == 0x0A ||
     (tyFloat p.ty && 0x03 ≤ p.op && p.op ≤ 0x07))

/-- The bits of a predicate over the rows of its strip (R149 to R153). -/
def predRows (const : Bytes) (p : FPred) (s : Strip) (rows : Nat) : Except Nat (List Bool) :=
  if p.op = 0x0B then .ok ((List.range rows).map (fun i => !rowValid s i))
  else if p.op = 0x0C then .ok ((List.range rows).map (fun i => rowValid s i))
  else do
    let vals ← stripValues s rows
    if predByCode p s then
      let codes := unpack rows s.width s.data
      .ok ((vals.zip codes).map (fun q =>
        match q.1, s.dict with
        | some _, some d => predCode p d q.2
        | _, _ => false))
    else
      let set := predSet const p
      .ok (vals.map (fun v => match v with | some x => predBit p set x | none => false))

/-- Adds predicate `i`'s bits to the row masks. -/
def addBits (i : Nat) : List Nat → List Bool → List Nat
  | m :: ms, b :: bs => (m + b2n b * 2 ^ i) :: addBits i ms bs
  | ms, _ => ms

/-- The predicate bits of each row as one number, predicate `i` at bit `i`. -/
def predMasks (const : Bytes) (t : PTile) : Nat → List FPred → List Nat → Except Nat (List Nat)
  | _, [], acc => .ok acc
  | i, p :: ps, acc =>
    match stripOf t p.colid with
    | none => .error eFeColumn
    | some s => do
      let bits ← predRows const p s t.rows
      predMasks const t (i + 1) ps (addBits i acc bits)

/-- Passes over the predicates: runs of one COLID, at most 32 long (R156). -/
def countPasses : Nat → Nat → List FPred → Nat
  | _, _, [] => 0
  | col, n, p :: ps =>
    if p.colid = col && n < 32 && n > 0 then countPasses col (n + 1) ps
    else 1 + countPasses p.colid 1 ps

/-! ### Code bitmaps (R154) -/

/-- Drops the least recently used bitmaps until `size` bytes more fit. -/
def evictBitmaps (cacheBytes size : Nat) : List Bitmap → List Bitmap
  | [] => []
  | b :: r => if sumOf (b :: r) (·.size) + size ≤ cacheBytes then b :: r else evictBitmaps cacheBytes size r

/-- What the dictionary cache does for a bitmap that a strip needs: the new list of
bitmaps, and whether it was built or the strip fell back. -/
def useBitmap (cacheBytes : Nat) (bms : List Bitmap) (b : Bitmap) : List Bitmap × Nat × Nat :=
  if cacheBytes < b.size then (bms, 0, 1)
  else
    let same := fun (c : Bitmap) => c.job == b.job && c.pred == b.pred && c.ref == b.ref
    if bms.any same then (bms.filter (fun c => !same c) ++ [b], 0, 0)
    else (evictBitmaps cacheBytes b.size bms ++ [b], 1, 0)

/-- The bitmaps after a tile of job `j`, with the counts of FE_DICT_PASS and
FE_DICT_FALLBACK. -/
def bitmapsOf (cacheBytes j : Nat) (t : PTile) :
    Nat → List FPred → List Bitmap → List Bitmap × Nat × Nat
  | _, [], bms => (bms, 0, 0)
  | i, p :: ps, bms =>
    match (stripOf t p.colid).filter (predPartial p) with
    | none => bitmapsOf cacheBytes j t (i + 1) ps bms
    | some s =>
      let count := (s.dict.map dictCount).getD 0
      let (bms', built, fell) := useBitmap cacheBytes bms
        { job := j, pred := i, ref := s.base, size := ceilDiv count 8 }
      let (out, b, f) := bitmapsOf cacheBytes j t (i + 1) ps bms'
      (out, b + built, f + fell)

/-! ### The term evaluator -/

def tevNTerm (body : Bytes) : Nat := le body 4 2
def tevNLine (body : Bytes) : Nat := le body 6 1

/-- Term `k`'s literals. -/
def tevTerm (body : Bytes) (k : Nat) : List Nat :=
  (List.range 16).map (fun j => le body (64 + 32 * k + 2 * j) 2)

/-- The record of line `n`. -/
def tevLine (body : Bytes) (n : Nat) : Bytes :=
  slice body (64 + 32 * tevNTerm body + 576 * n) 576

/-- A literal on a row's predicate bits; 0xFFFF is empty (R162). -/
def literalBit (mask lit : Nat) : Bool :=
  lit == 0xFFFF || (bitAt mask (field lit 0 12) != bitAt lit 15)

/-- The terms that hold on a row, as a number with term `k` at bit `k`. -/
def termMask (body : Bytes) (mask : Nat) : Nat :=
  packNat 1 ((List.range (tevNTerm body)).map
    (fun k => b2n ((tevTerm body k).all (literalBit mask))))

/-- One row through the lines in ascending order, with the prescalers (R163). -/
def tevLines (body : Bytes) (terms : Nat) : Nat → Nat → Nat → Tbl Nat → Nat × Tbl Nat
  | 0, _, out, pre => (out, pre)
  | left + 1, n, out, pre =>
    let rec_ := tevLine body n
    let raw := (leNat (rec_.drop 64) &&& terms != 0) || (le rec_ 4 8 &&& out != 0)
    if raw then
      let c := tget pre n 0 + 1
      if c ≥ le rec_ 0 4 then tevLines body terms left (n + 1) (out + 2 ^ n) (tset pre n 0)
      else tevLines body terms left (n + 1) out (tset pre n c)
    else tevLines body terms left (n + 1) out pre

/-- The decision lines of every row (R163, R164). -/
def lineRows (tev : Bool) (npred : Nat) (body : Bytes) : List Nat → Tbl Nat → List Nat × Tbl Nat
  | [], pre => ([], pre)
  | m :: ms, pre =>
    if tev then
      let (l, pre') := tevLines body (termMask body m) (tevNLine body) 0 0 pre
      let (ls, pre'') := lineRows tev npred body ms pre'
      (l :: ls, pre'')
    else
      let (ls, pre') := lineRows tev npred body ms pre
      (m % 2 ^ min npred 64 :: ls, pre')

/-! ### Output ports -/

/-- What a port makes of one input tile. -/
inductive FOut where
  | tile (data : Bytes)
  | skip
  | held (data : Bytes)

/-- The columns that a FILTER or MARK port carries: the listed strips in their order,
then the system strips of an event tile that the list leaves out (DEDUCED, safe: log entry 85). -/
def portCols (cfg : Bytes) (p : FPort) (t : PTile) : List Nat :=
  let listed :=
    if portAll p then (t.strips.map (·.colid)).filter (· != 0xFF00)
    else ((facetColList cfg).drop p.colFirst).take p.ncol
  let sys := if t.event then [0xFF01, 0xFF02, 0xFF03, 0xFF04, 0xFF05] else []
  listed ++ sys.filter (fun c => !listed.contains c)

/-- The carried columns read from a tile. -/
def carryAll (t : PTile) : List Nat → Except Nat (List Col)
  | [] => .ok []
  | c :: cs =>
    match stripOf t c with
    | none => .error eFeColumn
    | some s => do
      let col ← carry s t.rows
      let rest ← carryAll t cs
      .ok (col :: rest)

/-- The added strips of a port. -/
def addedCols (p : FPort) (lines : List Nat) : List Col :=
  (if p.colLines = 0xFFFF then [] else
    [{ colid := p.colLines, ty := 8, vals := lines.map some }]) ++
  (if p.colSel = 0xFFFF then [] else
    [{ colid := p.colSel, ty := 0, vals := lines.map (fun l => some (b2n (bitAt l p.sel))) }])

/-- A tile of the rows `keep` with the columns `cols` (R80, R114). -/
def emitRows (t : PTile) (event : Bool) (keep : List Nat) (cols : List Col) :
    Except Nat Bytes := do
  let (dense, base, idc) ← keptRowIds t keep
  let cols := cols.filter (·.colid != 0xFF00)
  .ok (buildTile { log2cap := t.log2cap, rows := keep.length, seq := t.seq, rowidBase := base,
                   kennel := t.kennel, dense, event }
        (cols.map (fun c => pickRows c keep) ++ idc))

/-- The output of one port for one tile; `det` says that the kennel is in
deterministic mode (R165). -/
def facetPortOut (cfg : Bytes) (p : FPort) (det : Bool) (t : PTile) (lines : List Nat) :
    Except Nat FOut := do
  let every := List.range t.rows
  match p.pmode with
  | 2 =>
    let cols ← carryAll t [0xFF01, 0xFF02, 0xFF03]
    let b ← emitRows t false every (cols ++ addedCols { p with colSel := 0xFFFF } lines)
    .ok (.tile b)
  | 1 =>
    let cols ← carryAll t (portCols cfg p t)
    let b ← emitRows t t.event every (cols ++ addedCols p lines)
    .ok (.tile b)
  | _ =>
    let cols ← carryAll t (portCols cfg p t)
    if portGate p && det then
      let b ← emitRows t t.event every (cols ++ addedCols p lines)
      .ok (.held b)
    else
      let keep := every.filter (fun i => bitAt ((lines[i]?).getD 0) p.sel)
      if keep.isEmpty then .ok .skip
      else do
        let b ← emitRows t t.event keep (cols ++ addedCols p lines)
        .ok (.tile b)

/-- The outputs of the ports from `i` on. -/
def facetPortsOut (cfg : Bytes) (det : Bool) (t : PTile) (lines : List Nat) :
    Nat → Nat → Except Nat (List (Nat × FOut))
  | 0, _ => .ok []
  | n + 1, i => do
    let o ← facetPortOut cfg (facetPort cfg i) det t lines
    let rest ← facetPortsOut cfg det t lines n (i + 1)
    .ok ((i, o) :: rest)

/-- Every predicate's and every carried column is there, with its TYPE and FRAC. -/
def facetColumnsOk (cfg : Bytes) (nout : Nat) (t : PTile) : Bool :=
  (facetPreds cfg).all (fun p =>
    match stripOf t p.colid with
    | some s => s.ty == p.ty && s.frac == p.frac
    | none => false) &&
  (List.range nout).all (fun i =>
    let p := facetPort cfg i
    p.pmode == 2 || (portCols cfg p t).all (fun c => (stripOf t c).isSome))

/-- A Facet vertex has a VERDICT port. -/
def facetHasVerdict (cfg : Bytes) (nout : Nat) : Bool :=
  (List.range nout).any (fun i => (facetPort cfg i).pmode == 2)

/-- What a Facet engine makes of one tile. -/
structure FacetResult where
  outs : List (Nat × FOut)
  pre : Tbl Nat
  bitmaps : List Bitmap
  dictPass : Nat
  fallback : Nat

/-- One tile of job `j` through the engine (R157): scan, TEV and output. -/
def facetRun (cfg body const : Bytes) (nout : Nat) (det : Bool) (pre : Tbl Nat)
    (bms : List Bitmap) (j : Nat) (t : PTile) : Except Nat FacetResult :=
  if facetHasVerdict cfg nout && !t.event then .error eFeEvent
  else if !facetColumnsOk cfg nout t then .error eFeColumn
  else do
    let preds := facetPreds cfg
    let masks ← predMasks const t 0 preds (List.replicate t.rows 0)
    let (lines, pre') := lineRows (facetTev cfg) preds.length body masks pre
    let outs ← facetPortsOut cfg det t lines nout 0
    let (bms', built, fell) := bitmapsOf (1024 * facetDcache cfg) j t 0 preds bms
    .ok { outs, pre := pre', bitmaps := bms', dictPass := built, fallback := fell }

/-- The rows kept of a held GATE tile: those whose verdict accepted, with
SYS_BUILD marked, which makes that strip PLAIN (R165). `verdict i` is the issued verdict of
row `i`. -/
def gateEmit (t : PTile) (verdict : Nat → Bool × Bool) : Except Nat FOut := do
  let cols ← carryAll t (t.strips.map (·.colid))
  let builds ← sysValues t 0xFF05
  let keep := (List.range t.rows).filter (fun i => (verdict i).1)
  if keep.isEmpty then .ok .skip
  else
    let mark := fun (c : Col) =>
      if c.colid = 0xFF05 then
        { c with dict := none, vals := (builds.zip (List.range t.rows)).map (fun q =>
            some (setField q.1 8 3 (6 + b2n (verdict q.2).2))) }
      else c
    let b ← emitRows t t.event keep (cols.map mark)
    .ok (.tile b)

/-! ### Admission (R159 to R162) -/

/-- The values rise strictly in the order of R77 and hold no NaN. -/
def setOk (ty : Nat) : List Nat → Bool
  | [] => true
  | [x] => !(tyFloat ty && fIsNaN (tyWidth ty) x)
  | x :: y :: r =>
    let key := fun v => if tyFloat ty then fTotalKey (tyWidth ty) v else valInt ty v
    !(tyFloat ty && fIsNaN (tyWidth ty) x) && key x < key y && setOk ty (y :: r)

/-- An operator is allowed for a type (R149). -/
def opAllowed (op ty : Nat) : Bool :=
  match op with
  | 0x01 | 0x02 | 0x0B | 0x0C => true
  | 0x03 | 0x04 | 0x05 | 0x06 | 0x07 | 0x08 => ty != 0
  | 0x09 | 0x0A => 1 ≤ ty && ty ≤ 8
  | _ => false

/-- A predicate descriptor is in range (R159, R161). -/
def predOk (const : Bytes) (p : FPred) : Bool :=
  p.clean && (p.colid < 0xFF00 || p.colid ≤ 0xFF05) && tyOk p.ty && opAllowed p.op p.ty &&
  fracOk p.ty p.frac && baseOk p.ty p.lo &&
  (if p.op = 0x07 then baseOk p.ty p.hi && !ltTy p.ty p.hi p.lo else p.hi == 0) &&
  (if p.op = 0x08 then
     1 ≤ p.nset && p.nset ≤ 4096 && p.setOff % 64 == 0 &&
     p.setOff + packedLen p.nset (tyWidth p.ty) ≤ const.length && setOk p.ty (predSet const p)
   else p.nset == 0 && p.setOff == 0)

/-- A port descriptor is in range and its columns keep R161. -/
def facetPortOk (cfg : Bytes) (p : FPort) : Bool :=
  let listed := ((facetColList cfg).drop p.colFirst).take p.ncol
  let added := [p.colLines, p.colSel].filter (· != 0xFFFF)
  p.clean && p.pmode ≤ 2 && p.sel ≤ 63 &&
  (if portGate p then p.pmode == 0 && 1 ≤ p.gateDepth else p.gateDepth == 0) &&
  (if portAll p then p.colFirst == 0 && p.ncol == 0 else true) &&
  p.colFirst + p.ncol ≤ facetNCol cfg && allDistinct listed &&
  added.all (fun c => c ≤ 0xFEFF && !listed.contains c) &&
  (p.pmode != 2 || (p.colLines != 0xFFFF && p.ncol == 0 && !portAll p))

/-- Σ GATE_DEPTH of a record: the tile slots a FACET vertex holds (R161). -/
def facetExtra (cfg : Bytes) (nout : Nat) : Nat :=
  sumOf (List.range nout) (fun i => (facetPort cfg i).gateDepth)

/-- Check 5 of R99 for a FACET vertex. `caps` holds the LOG2CAP of its input
edge and of its output edges. -/
def facetConfigOk (cfg body const : Bytes) (nout sramKib : Nat) (inCap : Nat)
    (outCaps : List Nat) : Bool :=
  let np := facetNPred cfg
  let preds := facetPreds cfg
  let sets := sumOf preds (fun p => if p.op = 0x08 then packedLen p.nset (tyWidth p.ty) else 0)
  le cfg 0 1 == 1 && zeroes cfg 1 1 && le cfg 6 1 < 2 && zeroes cfg 7 1 && zeroes cfg 10 54 &&
  1 ≤ np && np ≤ 4096 && (facetTev cfg || np ≤ 64) && facetNCol cfg ≤ 1024 &&
  facetDcache cfg ≤ 512 && cfg.length == 192 + 32 * np + 2 * facetNCol cfg &&
  (facetTev cfg == (body.length != 0)) &&
  preds.all (predOk const) &&
  (List.range nout).all (fun i => facetPortOk cfg (facetPort cfg i)) &&
  zeroes cfg (64 + 16 * nout) (16 * (8 - nout)) &&
  ((List.range nout).all (fun i => !portGate (facetPort cfg i)) || facetHasVerdict cfg nout) &&
  outCaps.all (· == inCap) &&
  32 + ceilDiv (body.length + 32 * np + sets) 1024 + facetDcache cfg ≤ sramKib

/-- A term record keeps R162. -/
def tevTermOk (body : Bytes) (npred k : Nat) : Bool :=
  (tevTerm body k).all (fun l => l == 0xFFFF || (field l 12 3 == 0 && field l 0 12 < npred))

/-- A line record keeps R162. -/
def tevLineOk (body : Bytes) (n : Nat) : Bool :=
  let r := tevLine body n
  1 ≤ le r 0 4 && le r 0 4 ≤ 16777216 && le r 4 8 < 2 ^ n && zeroes r 12 52 &&
  leNat (r.drop 64) < 2 ^ tevNTerm body

/-- Check 7 of R99 for one network (R162). -/
def tevOk (cfg body : Bytes) : Bool :=
  le body 0 1 == 1 && zeroes body 1 1 && le body 2 2 == facetNPred cfg &&
  1 ≤ tevNTerm body && tevNTerm body ≤ 4096 && 1 ≤ tevNLine body && tevNLine body ≤ 64 &&
  zeroes body 7 57 &&
  body.length == alignUp (64 + 32 * tevNTerm body + 576 * tevNLine body) 64 &&
  (List.range (tevNTerm body)).all (tevTermOk body (facetNPred cfg)) &&
  (List.range (tevNLine body)).all (tevLineOk body)

end Sys2Proof.Machine
end

