-- ==== Sys2Proof/Machine/Regs.lean ====
section
/-! DEFINITION. The registers of BAR0 as a table (R8 to R11, R514 to R529): where
they are, how wide, what they hold at reset, and which bits a write changes. -/

namespace Sys2Proof.Machine

open Sys2Proof

/-- A family of registers: `count` units `stride` apart, each with `inner`
registers one after the other. -/
structure RegFam where
  base : Nat
  stride : Nat := 0x1000
  count : Nat := 1
  inner : Nat := 1
  size : Nat := 4
  reset : Nat := 0
  /-- Bits that a write sets, bits that a written 1 clears, and bits that a read clears. -/
  rw : Nat := 0
  w1c : Nat := 0
  rc : Nat := 0
  /-- Fields with values that are not taken: low bit, width, least, greatest (R10). -/
  legal : List (Nat × Nat × Nat × Nat) := []

/-- Read-clear counters of 32 bits. -/
def rcFam (base stride count inner : Nat) : RegFam :=
  { base, stride, count, inner, rc := 0xFFFFFFFF }

/-- EVT_ bits of word 0 that belong to a source (R518). -/
def evtWord0 : Nat := 0x0FFFFFFF000003FF

/-- All ones of 64 bits. -/
def ones64 : Nat := 0xFFFFFFFFFFFFFFFF

/-- The event registers (R529). -/
def evtFams : List RegFam :=
  [{ base := 0x10000, stride := 8, count := 16, size := 8, w1c := ones64 },
   { base := 0x10080, size := 8, reset := evtWord0 - 1, rw := evtWord0 - 1 },
   { base := 0x10088, size := 8 },
   { base := 0x10090, stride := 8, count := 2, size := 8, reset := ones64, rw := ones64 },
   { base := 0x100A0, stride := 8, count := 12, size := 8 },
   { base := 0x10100 },
   { base := 0x10108 },
   { base := 0x11000, reset := 0x80000000, rw := 0x7FF },
   { base := 0x11004, stride := 4, count := 9, rw := 0x800007FF },
   { base := 0x11028, stride := 4, count := 22 },
   { base := 0x11080, stride := 4, count := 28, rw := 0x800007FF },
   { base := 0x110F0, stride := 4, count := 68 },
   { base := 0x11200, stride := 4, count := 128, rw := 0x800007FF },
   { base := 0x11400, stride := 4, count := 768 }]

/-- The ingest registers of the four groups (R61). -/
def ingFams : List RegFam :=
  [{ base := 0x20000, count := 4, reset := 0xC6700000, rw := 0xFFFF0B07,
     legal := [(8, 2, 0, 2), (0, 3, 0, 4)] },
   { base := 0x20010, count := 4, inner := 4, size := 8, rw := 0xFFFFFFFFFFFF },
   { base := 0x20040, count := 4, inner := 4, size := 8, rw := ones64 },
   rcFam 0x20100 0x1000 4 19]

/-- The timing registers (R61). -/
def epFams : List RegFam :=
  [{ base := 0x30000, rw := 0xE03 },
   { base := 0x30004, reset := 0x1000, rw := 0x1FFFFFF, legal := [(0, 25, 256, 16777216)] },
   { base := 0x30008, w1c := 0x5C },
   { base := 0x30010, size := 8 },
   { base := 0x30018, size := 8 },
   { base := 0x30020, size := 8, rw := 0x8000FFFFFFFFFFFF },
   { base := 0x30028, reset := 0x401, rw := 0xFF0F },
   rcFam 0x30030 0x1000 1 5,
   { base := 0x30100, stride := 4, count := 16, rw := 0x3FFBF },
   { base := 0x31000, stride := 8, count := 256, size := 8 },
   rcFam 0x31800 4 256 1,
   rcFam 0x31C00 4 256 1]

/-- The engines' registers (R148, R168, R192, R209, R320, R337). -/
def engineFams : List RegFam :=
  [{ base := 0x50000, count := 8 }, { base := 0x50004, count := 8 },
   { base := 0x50008, count := 8, rc := 0x3FFFF }, rcFam 0x50010 0x1000 8 16,
   { base := 0x60000, stride := 0x800, count := 32, inner := 2 }, rcFam 0x60010 0x800 32 8,
   { base := 0x70000, count := 4, inner := 2 }, rcFam 0x70010 0x1000 4 5,
   { base := 0x80000, count := 8, inner := 2 }, rcFam 0x80010 0x1000 8 8,
   { base := 0x90000, count := 8, inner := 2 }, rcFam 0x90010 0x1000 8 8,
   { base := 0x98000, reset := 0x1000, rw := 0xFFFF },
   { base := 0xB0000, count := 4 }, { base := 0xB0008, count := 4, size := 8 },
   { base := 0xB0010, count := 4, inner := 2, size := 8, rc := ones64 },
   rcFam 0xB0020 0x1000 4 6,
   { base := 0xC0000 }, { base := 0xC0010, size := 8, rc := ones64 }, rcFam 0xC0018 0x1000 1 6,
   { base := 0xC0100, stride := 4, count := 32 }]

/-- The Hounds' registers (R239, R269, R293). -/
def houndFams : List RegFam :=
  [{ base := 0xA0000, stride := 0x40, count := 128, inner := 2, size := 8 },
   rcFam 0xA0010 0x40 128 4, rcFam 0xA0020 0x40 128 3, rcFam 0xA002C 0x40 128 1,
   { base := 0xA0030, stride := 0x40, count := 128, inner := 2, size := 8 },
   { base := 0xA2000, reset := 0x1000 },
   { base := 0xA2008, stride := 8, count := 2, size := 8 }]

/-- The shared cache, the QE, the kennels (R364, R395, R416, R439). -/
def cacheFams : List RegFam :=
  [{ base := 0xD0000, reset := 1, rw := 1 }, { base := 0xD0004, w1c := 2 },
   { base := 0xD0008, reset := 64, rw := 0xFF, legal := [(0, 8, 1, 255)] },
   rcFam 0xD0010 0x1000 1 7,
   { base := 0xD1000, stride := 8, count := 54, size := 8, reset := 0xFFFF },
   { base := 0xD11B0, stride := 8, count := 5, size := 8, reset := 0x1FFFF },
   { base := 0xD11D8, stride := 8, count := 5, size := 8, reset := 0xFFFF },
   { base := 0xD2000, stride := 8, count := 256, size := 8 },
   rcFam 0xD3000 8 64 2,
   { base := 0xE0000 }, rcFam 0xE0010 0x1000 1 9, { base := 0xE0100 }, rcFam 0xE0104 0x1000 1 2,
   { base := 0xF0000, stride := 8, count := 256, size := 8 },
   { base := 0xF1000, stride := 8, count := 4, size := 8 }]

/-- DRAM and self-test (R362, R363, R440). -/
def dramFams : List RegFam :=
  [{ base := 0x100000, stride := 0x800, count := 16 },
   { base := 0x100008, stride := 0x800, count := 16, rw := 0xF83F, legal := [(14, 2, 0, 2)] },
   { base := 0x10000C, stride := 0x800, count := 16 },
   { base := 0x100010, stride := 0x800, count := 16, size := 8, rc := 0xFFC003FFFFFFFFC0 },
   rcFam 0x100020 0x800 16 7,
   { base := 0x10F000 }, { base := 0x10F004 },
   { base := 0x10F008, reset := 0x11000, rw := 0x3FFFF,
     legal := [(16, 2, 1, 2), (0, 16, 256, 32768)] },
   { base := 0x10F00C, reset := 0x80000018, rw := 0x800000FF, legal := [(0, 8, 1, 168)] },
   { base := 0x10F010, reset := 0xFF, rw := 0xFF },
   { base := 0x10F020, w1c := 0xC }, { base := 0x10F028, size := 8 }, { base := 0x10F030 },
   { base := 0x10F038, size := 8, rc := 0x8F0003FFFFFFFFC0 }, rcFam 0x10F040 0x1000 1 1]

/-- Herder, Leash and power (R465, R489, R513, R517). -/
def systemFams : List RegFam :=
  [{ base := 0x110000 },
   { base := 0x110004, reset := 100, rw := 0xFFFF, legal := [(0, 16, 1, 65535)] },
   { base := 0x110008, reset := 0xB1 }, rcFam 0x110010 0x1000 1 3,
   rcFam 0x110020 8 4 1, rcFam 0x110024 8 4 1,
   { base := 0x120000, reset := 0x20, rw := 0xE0, legal := [(6, 2, 0, 2)] },
   { base := 0x120004, w1c := 0x43 }, { base := 0x120008, size := 8, reset := 0xFFFF0000 },
   rcFam 0x120010 0x1000 1 5,
   { base := 0x120040, stride := 8, count := 4, size := 8 },
   { base := 0x120060, stride := 8, count := 4, size := 8 },
   { base := 0x120100, stride := 0x40, count := 4 }, { base := 0x120108, stride := 0x40, count := 4 },
   { base := 0x12010C, stride := 0x40, count := 4, rw := 0xFFFF },
   { base := 0x120110, stride := 0x40, count := 4, size := 8 },
   rcFam 0x120120 0x40 4 5,
   { base := 0x130000, reset := 0x8980001, rw := 0xFFF0001, legal := [(16, 12, 2000, 2200)] },
   { base := 0x130004, w1c := 8 }, { base := 0x130008, reset := 0x61A80100, rw := 0xFFFFFFFF },
   { base := 0x130010, stride := 4, count := 8 }, { base := 0x130040, size := 8 },
   { base := 0x130048, reset := 64, rw := 0xFF, legal := [(0, 8, 1, 255)] },
   rcFam 0x130050 0x1000 1 3]

/-- The kennel pages (R394, R415, R527), MB0 (R465) and MSI-X (R525). -/
def pageFams : List RegFam :=
  [{ base := 0x1000000, stride := 0x10000, count := 256, inner := 32, size := 8 },
   { base := 0x1000100, stride := 0x10000, count := 256, size := 8 },
   { base := 0x1000200, stride := 0x10000, count := 256, inner := 32, size := 8 },
   { base := 0x1003000, stride := 0x10000, count := 256, size := 8 },
   { base := 0x1003008, stride := 0x10000, count := 256, size := 8, w1c := 2 },
   { base := 0x1003100, stride := 0x10000, count := 256, size := 8, w1c := 0xE0 },
   { base := 0x1003108, stride := 0x10000, count := 256, size := 8 },
   { base := 0x1003110, stride := 0x10000, count := 256, size := 8, w1c := 3 },
   { base := 0x2001000, size := 8 }, { base := 0x2001008, size := 8, w1c := 2 },
   { base := 0x3F00000, stride := 16, count := 2048, rw := 0xFFFFFFFC },
   { base := 0x3F00004, stride := 16, count := 2048, inner := 2, rw := 0xFFFFFFFF },
   { base := 0x3F0000C, stride := 16, count := 2048, reset := 1, rw := 1 },
   { base := 0x3F08000, stride := 8, count := 32, size := 8 }]

/-- Every register of BAR0. -/
def regFams : List RegFam :=
  evtFams ++ ingFams ++ epFams ++ engineFams ++ houndFams ++ cacheFams ++ dramFams ++ systemFams ++
  pageFams

/-- The family has a register at the offset. -/
def RegFam.has (f : RegFam) (off : Nat) : Bool :=
  f.base ≤ off && (off - f.base) / f.stride < f.count &&
  (off - f.base) % f.stride % f.size == 0 && (off - f.base) % f.stride / f.size < f.inner

/-- The register at an offset, if one is defined there. -/
def regFam (off : Nat) : Option RegFam := regFams.find? (·.has off)

/-- The reset value of a register (R11). -/
def regReset (off : Nat) : Nat := ((regFam off).map (·.reset)).getD 0

/-- The stored value of a register. -/
def regVal (s : State) (off : Nat) : Nat := (tfind? s.regs off).getD (regReset off)

/-- A register set to a value. -/
def setReg (s : State) (off v : Nat) : State := { s with regs := tset s.regs off v }

/-- A field of a register. -/
def regField (s : State) (off lo w : Nat) : Nat := field (regVal s off) lo w

/-- A field of a register set. -/
def setRegField (s : State) (off lo w x : Nat) : State :=
  setReg s off (setField (regVal s off) lo w x)

/-- A counter of `bits` bits plus `n`, saturating at all ones. -/
def cntW (bits : Nat) (s : State) (off n : Nat) : State :=
  if n = 0 then s else setReg s off (min (2 ^ bits - 1) (regVal s off + n))

/-- A 32-bit counter plus `n` (R35 and the counter tables). -/
def cnt (s : State) (off n : Nat) : State := cntW 32 s off n

/-- What a write makes of a register's value, before any effect of its own: bits
that are RW take the written value unless that is not taken, a 1 clears a W1C bit,
and a bit that hardware sets in the same tick stays set (R9, R10). -/
def regWritten (f : RegFam) (old val hwSet : Nat) : Nat :=
  let mask := 2 ^ (8 * f.size) - 1
  let v := f.legal.foldl (fun v (lo, w, a, b) =>
    if a ≤ field v lo w && field v lo w ≤ b then v else setField v lo w (field old lo w)) val
  (old &&& (mask - (f.rw ||| (f.w1c &&& val)))) ||| (v &&& f.rw) ||| (hwSet &&& f.w1c)

end Sys2Proof.Machine
end

