-- ==== Sys2Proof/Machine/Ops.lean ====
section
/-! DEFINITION. The operations that many commands share: free values, what leaves
the device, events and vectors, the parts of the state by number, completions and
retirement (R369 to R393, R518 to R528). -/

namespace Sys2Proof.Machine

open Sys2Proof

/-- What every meaning answers with. -/
abbrev Result := Host.Outcome State Fault Refusal

/-- The outcome of an event that `f` describes; where it cannot take place in the
state, nothing changes (DEDUCED, safe: log entry 5). -/
def attempt (f : State → Option State) (s : State) : Result := .next ((f s).getD s)

/-! ### Free values (log entry 2) -/

/-- The next free number, and the state in which it is used up. -/
def takeFree (s : State) : Nat × State := (Config.freeNat s.free, { s with free := s.free + 1 })

/-- A free choice from a list: the only element where there is one. (DEDUCED, safe: log entry 20.) -/
def pick {α : Type} (s : State) (l : List α) : Option (α × State) :=
  match l with
  | [] => none
  | [a] => some (a, s)
  | a :: r =>
    let (n, s') := takeFree s
    some ((((a :: r)[n % (r.length + 1)]?).getD a), s')

/-! ### Arbiters (R507) -/

/-- PWR_ARB.AGE. -/
def arbAge (s : State) : Nat := regField s 0x130048 0 8

/-! ### Output -/

/-- Adds to what the device has given out. -/
def emit (s : State) (o : Out) : State := { s with out := s.out ++ [o] }

/-! ### The parts of the state by number -/

def kennel? (s : State) (k : Nat) : Option Kennel := tfind? s.kennels k
def modKennel (s : State) (k : Nat) (f : Kennel → Kennel) : State :=
  { s with kennels := tmod s.kennels k f }
def wq? (s : State) (k w : Nat) : Option Wq := (kennel? s k).bind (fun x => tfind? x.wqs w)
def modWq (s : State) (k w : Nat) (f : Wq → Wq) : State :=
  modKennel s k (fun x => { x with wqs := tmod x.wqs w f })
def cq? (s : State) (k c : Nat) : Option Cq := (kennel? s k).bind (fun x => tfind? x.cqs c)
def modCq (s : State) (k c : Nat) (f : Cq → Cq) : State :=
  modKennel s k (fun x => { x with cqs := tmod x.cqs c f })
def plan? (s : State) (k h : Nat) : Option Plan := (kennel? s k).bind (fun x => tfind? x.plans h)
def modPlan (s : State) (k h : Nat) (f : Plan → Plan) : State :=
  modKennel s k (fun x => { x with plans := tmod x.plans h f })
def job? (s : State) (j : Nat) : Option Job := tfind? s.jobs j
def modJob (s : State) (j : Nat) (f : Job → Job) : State := { s with jobs := tmod s.jobs j f }
def hound (s : State) (h : Nat) : HoundSt := tget s.hounds h {}
def setHound (s : State) (h : Nat) (x : HoundSt) : State := { s with hounds := tset s.hounds h x }

/-- Changes a Hound. -/
def modHound (s : State) (h : Nat) (f : HoundSt → HoundSt) : State := setHound s h (f (hound s h))

/-- The lowest line that is pending and enabled. -/
def pendingLine (x : HoundSt) : Option Nat :=
  (List.range 3).find? (fun n => x.ipend.getLsbD n && x.ien.getLsbD n)

/-- A WFI that waits completes once a line is pending and enabled (R283). -/
def endWfi (s : State) (h : Nat) : State :=
  let x := hound s h
  if x.wfi && (pendingLine x).isSome then
    modHound s h (fun x => { x with wfi := false, regs := advance x.regs (x.regs.pc.toNat + 4) })
  else s

/-- The stepping that the device reports: B1, in the Revision ID field (R2). -/
def stepping (s : State) : Nat := s.pins.revisionId

/-- The PASID that a kennel's requests carry (R20). -/
def pasidOf (s : State) (k : Nat) : Nat := ((kennel? s k).map (·.pasid)).getD 0

/-- The page of a kennel in BAR0 (R394). -/
def page (k : Nat) : Nat := 0x1000000 + 0x10000 * k

/-! ### Conditions of the device -/

/-- PWR_RAS.FATAL and DEV_ERR (R505, R506). -/
def fatal (s : State) : Bool := bitAt (regVal s 0x130040) 63
def devErr (s : State) : Bool := bitAt (regVal s 0x130040) 62

/-- PWR_STATUS.STATE (R490). -/
def pState (s : State) : Nat := regField s 0x130004 0 3

/-- The device may write host memory and send messages (R388, R506).
(PRESUMED, unsafe: log entry 79.) -/
def hostUp (s : State) : Bool := !s.pins.d3 && s.pins.busMaster && !fatal s

/-- The clock of a unit is gated: a request that reaches it is held at its Grid port
until it is woken (R23). (DEDUCED, safe: log entry 47.) -/
def unitGated (s : State) (u : UnitId) : Bool := s.power.gated.any (fun g => decide (g = u))

/-- A mover can carry a transfer: the clock of one at least runs (R23). -/
def moverUp (s : State) : Bool := (List.range 16).any (fun n => !unitGated s (.mv (Fin.ofNat 16 n)))

/-- BAR0 answers: not after a fatal error, in P4, in reset, or without power (R490, R506,
R540). (DEDUCED, safe: log entry 12.) -/
def barOpen (s : State) : Bool :=
  !fatal s && pState s != 4 && !s.pins.perst && s.pins.railsOk && !s.pins.thermtripLow

/-- A host write to BAR0. -/
def hostAccess (f : State → State) (s : State) : State := if barOpen s then f s else s

/-- HRD_BOOT_STATUS.READY: the mailboxes are served (R447). -/
def ready (s : State) : Bool := bitAt (regVal s 0x110000) 0

/-! ### Host writes, vectors and events -/

/-- A posted write under a kennel's PASID (R20, R562). -/
def hostWrite (s : State) (k addr : Nat) (data : Bytes) : State :=
  if fatal s || data.isEmpty then s else emit s (.hostWrite (pasidOf s k) (addr % 2 ^ 64) data)

/-- The Mask bit of a vector (R525). -/
def vectorMasked (s : State) (v : Nat) : Bool := bitAt (regVal s (0x3F0000C + 16 * v)) 0

/-- The message of a vector can be sent now (R387, R388, R506). -/
def vectorOpen (s : State) (v : Nat) : Bool :=
  !vectorMasked s v && !s.pins.functionMask && hostUp s

/-- Sends the message of a vector. -/
def sendVector (s : State) (v : Nat) : State :=
  cnt (emit { s with pba := s.pba.filter (· != v) } (.msix v)) 0xE0028 1

/-- A request of a vector: requests made before it is served are one (R387). -/
def requestVector (s : State) (v : Nat) : State :=
  if fatal s then s else { s with vreq := addNew s.vreq v }

/-- Sends the messages of the PBA that can be sent (R387, R388). -/
def sendHeld (s : State) : State :=
  (s.pba.filter (vectorOpen s)).foldl sendVector s

/-- A source that R518 lists. -/
def evtListed (n : Nat) : Bool := n ≤ 9 || (32 ≤ n && n < 60) || (128 ≤ n && n < 768)

/-- EVT_ROUTE of a source. -/
def evtRoute (s : State) (n : Nat) : Nat := regVal s (0x11000 + 4 * n)

/-- The source is armed (R520). -/
def evtArmed (s : State) (n : Nat) : Bool :=
  bitAt (evtRoute s n) 31 && !bitAt (regVal s (0x10080 + 8 * (n / 64))) (n % 64)

/-- The pending bit of a source. -/
def evtPending (s : State) (n : Nat) : Bool := bitAt (regVal s (0x10000 + 8 * (n / 64))) (n % 64)

/-- Raises a source: its pending bit, and the vector where it goes from 0 to 1 and
the source is armed (R519, R520, R522). (DEDUCED, safe: log entry 100.) -/
def raiseEvent (s : State) (n : Nat) : State :=
  if !evtListed n then s
  else
    let was := evtPending s n
    let s := setRegField s (0x10000 + 8 * (n / 64)) (n % 64) 1 1
    if !was && evtArmed s n then requestVector s (field (evtRoute s n) 0 11) else s

/-- A kennel-scope error is flagged (R407). -/
def kennelError (s : State) (k : Nat) : State :=
  raiseEvent (setRegField s (page k + 0x3100) 7 1 1) (256 + k)

/-! ### The error log and the environment report (R444, R458, R459) -/

/-- An error record (R444). -/
def logRecord (s : State) (time source kennel severity status data : Nat) : Bytes :=
  toLe 8 time ++ toLe 2 s.herder.coldBoots ++ toLe 2 source ++ toLe 1 kennel ++
    toLe 1 severity ++ toLe 2 status ++ toLe 16 data

/-- The log has 1,000 records of the second of ACLK that ends at a time (R444). -/
def logCrowded (s : State) (time : Nat) : Bool :=
  1000 ≤ s.herder.log.countP (fun r =>
    le r 8 2 == s.herder.coldBoots % 2 ^ 16 && le r 0 8 ≤ time && time < le r 0 8 + 25000000)

/-- Adds a record to the log, which keeps the newest 131,072. -/
def logPut (s : State) (r : Bytes) : State :=
  let full := 131072 ≤ s.herder.log.length
  { s with herder := { s.herder with
      log := (if full then s.herder.log.drop 1 else s.herder.log) ++ [r],
      logBase := s.herder.logBase + b2n full } }

/-- Writes an error record, whose time and source-specific data are free values; the surplus
over 1,000 in a second is counted in HRD_LOG_DROP (R444). (DEDUCED, unsafe: log entry 72.) -/
def logError (s : State) (source kennel severity status : Nat) : State :=
  let (t, s) := takeFree s
  let (d, s) := takeFree s
  let time := t % 2 ^ 64
  if logCrowded s time then cnt s 0x110018 1
  else logPut s (logRecord s time source kennel severity status d)

/-- Bytes of the environment report change. -/
def envPut (s : State) (off : Nat) (b : Bytes) : State :=
  { s with herder := { s.herder with env := putAt s.herder.env off b } }

/-! ### Completions (R380 to R386) -/

/-- Entries that a CQ ring holds (R367). -/
def cqSize (c : Cq) : Nat := 2 ^ (c.log2 - 1)

/-- Entries written and not yet consumed, by the device's copy of CI. -/
def cqUsed (c : Cq) : Nat := (c.tail + 2 ^ 32 - c.ci) % 2 ^ 32

/-- PME_Status is set; a PM_PME message is sent while the link is up, and WAKE# is
asserted in L2 (R388). -/
def signalPme (s : State) : State :=
  let s := emit s (.pme (!s.pins.linkUp))
  { s with pins := { s.pins with pmeStatus := true, wakeLow := !s.pins.linkUp } }

/-- The device signals a sleeping host for a CQ with WAKE_EN (R388). -/
def wakeHost (s : State) (q : Cq) : State :=
  if q.wake && s.pins.d3 && s.pins.pmeEn && !s.pins.pmeStatus then signalPme s else s

/-- The CQ fires (R385). -/
def fireCq (s : State) (k c : Nat) : State :=
  match cq? s k c with
  | none => s
  | some q =>
    let s := wakeHost (modCq s k c (fun q => { q with pend := 0, timer := false })) q
    if q.irq then requestVector s q.vector else s

/-- Moderation after entries have been written: the count, and SOLICIT (R385, R386). -/
def moderate (s : State) (k c : Nat) (solicit : Bool) : State :=
  match cq? s k c with
  | none => s
  | some q => if q.modCount ≤ q.pend || solicit then fireCq s k c else s

/-- Writes one entry to its ring, then TAIL (R381, R385). -/
def putCqe (s : State) (k : Nat) (e : Compl) : State :=
  match cq? s k e.cq with
  | none => s
  | some q =>
    let n := cqSize q
    let phase := 1 - q.tail / n % 2
    let s := hostWrite s k (q.ring + 32 * (q.tail % n)) (e.bytes ++ toLe 1 phase)
    let tail := (q.tail + 1) % 2 ^ 32
    let s := hostWrite s k q.shadow (toLe 4 tail)
    let start := q.pend = 0 && q.modTime != 0
    let s := modCq s k e.cq (fun q => { q with
      tail, pend := q.pend + 1, timer := q.timer || start })
    cnt s 0xE001C 1

/-- One entry written alone in its tick. -/
def writeCqe (s : State) (k : Nat) (e : Compl) : State :=
  moderate (putCqe s k e) k e.cq e.solicit

/-- What retiring an entry releases: its place in flight, the job's slot, and the
queue reset that waits for it (R26, R371, R391). -/
def released (s : State) (k : Nat) (e : Compl) : State :=
  if !e.retires then s
  else
    let s := modWq s k e.wq (fun q => { q with
      inflight := q.inflight.filter (·.seq != e.seq),
      lastSeq := some (match q.lastSeq with
        | some l => if signedDiff 32 e.seq l > 0 then e.seq else l
        | none => e.seq),
      reset := q.reset.map (fun r => { r with waitFor := r.waitFor.filter (· != e.seq) }) })
    match e.job with
    | some j => { s with jobs := tdel s.jobs j }
    | none => s

/-- The kennel's overflow buffer is full, so that its retirement stalls (R383). -/
def retireStalled (x : Kennel) : Bool := 64 ≤ x.ovf.length

/-- A completion for the CQ must wait behind others, or cannot be written now. -/
def mustBuffer (s : State) (x : Kennel) (q : Cq) (c : Nat) : Bool :=
  !hostUp s || cqUsed q == cqSize q || x.ovf.any (·.cq == c)

/-- A completion falls due (R383): written, placed in the overflow buffer, or
stalled. Under the device-error condition none is written (R505). -/
def complete (s : State) (k : Nat) (e : Compl) : State :=
  match kennel? s k, cq? s k e.cq with
  | some x, some q =>
    if devErr s || fatal s then s
    else if retireStalled x then
      modKennel (wakeHost s q) k (fun x => { x with stalled := x.stalled ++ [e] })
    else if mustBuffer s x q e.cq then
      let s := modKennel (wakeHost s q) k (fun x => { x with ovf := x.ovf ++ [e] })
      let s := cnt s 0xE0020 1
      let s := if x.ovf.length + 1 = 64 then raiseEvent (cnt s 0xE0024 1) (256 + k) else s
      released s k e
    else released (writeCqe s k e) k e
  | _, _ => s

/-- Bytes 0 to 30 of a CQ entry (R380). -/
def cqeBytes (tag status opc wq vid r0 r1 seq : Nat) : Bytes :=
  toLe 2 tag ++ toLe 2 status ++ toLe 1 opc ++ toLe 1 wq ++ toLe 2 vid ++ toLe 8 r0 ++ toLe 8 r1 ++
  toLe 4 seq ++ zeros 3

/-- The completion of an entry in flight of a WQ (R380). -/
def entryCompl (q : Wq) (w : Nat) (f : Inflight) (status vid r0 r1 : Nat) (job : Option Nat) : Compl :=
  { cq := q.cq, wq := w, seq := f.seq, bytes := cqeBytes f.tag status f.opc w vid r0 r1 f.seq,
    solicit := f.solicit, retires := true, job }

/-- Completes the entry with SEQNO `seq` of a WQ; nothing where it is not in flight. -/
def completeEntry (s : State) (k w seq status vid r0 r1 : Nat) (job : Option Nat) : State :=
  match wq? s k w with
  | none => s
  | some q =>
    match q.inflight.find? (·.seq == seq) with
    | none => s
    | some f => complete s k (entryCompl q w f status vid r0 r1 job)

/-! ### Jobs -/

/-- The plan of a job. -/
def jobPlan (s : State) (b : Job) : Option Plan := plan? s b.kennel b.plan

/-- TAG of a JOB_START entry. -/
def jobTag (b : Job) : Nat := le b.entry 4 2

/-- The first failing status of a job decides (R109); the plan keeps it for
PLAN_STATUS (R452), with `details`. -/
def failJobWith (s : State) (j status vid : Nat) (details : List Nat) : State :=
  match job? s j with
  | none => s
  | some b =>
    if b.failed.isSome || b.abandoned || b.retired then s
    else
      let s := modJob s j (fun b => { b with failed := some (status, vid) })
      modPlan s b.kennel b.plan (fun p => { p with
        lastStatus := status, lastVid := vid, lastTag := jobTag b, details })

/-- A job fails with no details. -/
def failJob (s : State) (j status vid : Nat) : State :=
  failJobWith s j status vid [0, 0, 0, 0]

/-- Adds to count `i` of a vertex since its plan was loaded (R452). -/
def cntVertex (s : State) (k h vid i n : Nat) : State :=
  if n = 0 then s
  else modPlan s k h (fun p => { p with
    counts := tset p.counts (64 * vid + i) (tget p.counts (64 * vid + i) 0 + n) })

/-- Adds to a list of counters: by register offset, and by vertex (R452). -/
def cntBoth (s : State) (base k h vid : Nat) (ns : List Nat) : State :=
  (ns.zip (List.range ns.length)).foldl (fun s (n, i) =>
    cntVertex (cnt s (base + 4 * i) n) k h vid i n) s

/-- The status of the E_DDR_UE class (R361). -/
def eDdrUe : Nat := 0x0C01

end Sys2Proof.Machine
end

