-- ==== Sys2Proof/Machine/VerdictOps.lean ====
section
/-! DEFINITION. The timing unit's verdicts (R51 to R59): due ticks, issue, the
VERDICT pins and the verdict messages. -/

namespace Sys2Proof.Machine

open Sys2Proof

/-! ### The counter -/

/-- EP_CTRL.EN. -/
def epEn (s : State) : Bool := bitAt (regVal s 0x30000) 0

/-- EP_CTRL.ESYNC_EN, treated as 0 in the PHASE mode of LSH_CFG by a node that is
not the head (R478). -/
def esyncEn (s : State) : Bool :=
  bitAt (regVal s 0x30000) 1 && (bitAt (regVal s 0x120000) 0 || regField s 0x120000 6 2 != 1)

/-- EP_STATUS.TCLK_LOST and RESYNC_ARMED. -/
def tclkLost (s : State) : Bool := bitAt (regVal s 0x30008) 7
def resyncArmed (s : State) : Bool := bitAt (regVal s 0x30008) 5

/-- The counter and EP_TICK run (R51, R52). -/
def epRunning (s : State) : Bool := epEn s && !tclkLost s

/-- `dt` TCLK can pass before the next boundary is due. (DEDUCED, safe: log entry 14.) -/
def ticksFit (s : State) (dt : Nat) : Bool := !epRunning s || s.timing.count + dt < s.timing.len

/-! ### Due ticks (R54) -/

/-- LAT, DEF_ACC and ACC_LINE of EP_KDETk. -/
def detLat (s : State) (k : Nat) : Nat := regField s (0x31000 + 8 * k) 32 18
def detDefAcc (s : State) (k : Nat) : Bool := bitAt (regVal s (0x31000 + 8 * k)) 30
def detAccLine (s : State) (k : Nat) : Nat := regField s (0x31000 + 8 * k) 24 6

/-- The kennel is in deterministic mode: EP_KDETk.DET. -/
def inDet (s : State) (k : Nat) : Bool := bitAt (regVal s (0x31000 + 8 * k)) 31

/-- B of an epoch, where it is kept. -/
def startOf (s : State) (e : Nat) : Option Nat :=
  (s.timing.bTable.find? (·.1 == e)).map (·.2)

/-- The due tick of an event: none where its epoch has not started, -1 where its B
is not kept (R54). -/
def dueTick (s : State) (k epoch toffset : Nat) : Option Int :=
  if 0 < signedDiff 48 epoch s.timing.epoch then none
  else
    match startOf s epoch with
    | some b => some ((b + toffset + detLat s k : Nat) : Int)
    | none => some (-1)

/-- The tick in which the timing unit is. -/
def nowTick (s : State) : Int := (s.timing.tick : Int)

/-! ### Pins (R57, R58) -/

/-- VERDICT[15:0] are held low (R51, R52, R491). -/
def pinsHeldLow (s : State) : Bool := !epRunning s || 2 ≤ pState s

/-- EP_VMAPn: EN, FUNC, KENNEL and LINE. -/
def vmapEn (s : State) (n : Nat) : Bool := bitAt (regVal s (0x30100 + 4 * n)) 17
def vmapFunc (s : State) (n : Nat) : Nat := regField s (0x30100 + 4 * n) 15 2
def vmapKennel (s : State) (n : Nat) : Nat := regField s (0x30100 + 4 * n) 7 8
def vmapLine (s : State) (n : Nat) : Nat := regField s (0x30100 + 4 * n) 0 6

/-- EP_CTRL.VWIDTH + 1. -/
def pulseWidth (s : State) : Nat := regField s 0x30000 10 2 + 1

/-- Drives a pin from this tick on. -/
def drivePin (s : State) (n : Nat) : State :=
  let w := pulseWidth s
  let t := s.timing.tick
  let old := tget s.timing.pulses n 0
  emit { s with timing := { s.timing with pulses := tset s.timing.pulses n (max old (t + w)) } }
    (.pulse n t w)

/-- A verdict starts a pulse on a pin; the second of one tick counts in
EP_VCOLL_CNT (R58). -/
def verdictPin (s : State) (n : Nat) : State :=
  let t := s.timing.tick
  let before := s.timing.starts.countP (fun p => p.1 == n && p.2 == t)
  let s := drivePin s n
  let kept := s.timing.starts.filter (fun p => p.2 == t)
  let s := { s with timing := { s.timing with starts := kept ++ [(n, t)] } }
  if before = 1 then cnt s 0x3003C 1 else s

/-- Pin `n` reacts to a verdict of kennel `k` (R57). -/
def pinTaken (s : State) (k lines : Nat) (late : Bool) (n : Nat) : Bool :=
  vmapEn s n && vmapKennel s n == k &&
  (match vmapFunc s n with
   | 0 => bitAt lines (vmapLine s n)
   | 1 => late
   | 2 => true
   | _ => false)

/-- Drives the pins of a verdict issued in this tick. -/
def verdictPins (s : State) (k lines : Nat) (late : Bool) : State :=
  if pinsHeldLow s || !inDet s k then s
  else ((List.range 16).filter (pinTaken s k lines late)).foldl verdictPin s

/-- The tick at which a fanned-out verdict drives its pins: none where its epoch has not
started here, or its start is not kept (R481). -/
def remoteDue (s : State) (r : RemoteVerdict) : Option Nat :=
  if 0 < signedDiff 48 r.epoch s.timing.epoch then none
  else (startOf s r.epoch).map (· + r.toffset + r.lat)

/-- A fanned-out verdict drives its pins in tick `d`. -/
def driveRemote (s : State) (d : Nat) (r : RemoteVerdict) : State :=
  verdictPins { s with timing := { s.timing with tick := d } } r.kennel r.lines (bitAt r.flags 0)

/-- The pins of FUNC EPOCH at a boundary (R57). -/
def epochPins (s : State) : State :=
  if pinsHeldLow s then s
  else ((List.range 16).filter (fun n => vmapEn s n && vmapFunc s n == 3)).foldl drivePin s

/-- A pin that is disabled, or mapped to a kennel not in deterministic mode, goes low and
stays so (R57). -/
def prunePins (s : State) : State :=
  { s with timing := { s.timing with pulses := s.timing.pulses.filter (fun p =>
      vmapEn s p.1 && (vmapFunc s p.1 == 3 || inDet s (vmapKennel s p.1))) } }

/-- All pins go low and stay so (R51, R52). -/
def dropPins (s : State) : State :=
  emit { s with timing := { s.timing with pulses := [] } } .pinsLow

/-! ### Messages (R59) -/

/-- The RFX header of a fragment or message (R37). -/
def rfxHeader (kennel type source epoch event length seq toffset : Nat) : Bytes :=
  let h := [0x14, 0] ++ toBe 1 kennel ++ toBe 1 type ++ toBe 2 source ++ toBe 6 epoch ++
    toBe 4 event ++ toBe 2 length ++ toBe 2 seq ++ toBe 4 toffset ++ zeros 4
  h ++ toBe 4 (crc32c h)

/-- LSH_NODE.NODE. -/
def nodeId (s : State) : Nat := regField s 0x120008 0 16

/-- The bit of a kennel in four 64-bit registers from `base`. -/
def kennelBit (s : State) (base k : Nat) : Bool :=
  bitAt (regVal s (base + 8 * (k / 64))) (k % 64)

/-- Queues the message of a verdict for the destinations bound now (R59, R481).
(DESIGN CHOICE, unsafe: log entry 121.) -/
def queueVerdict (s : State) (e : VEvent) (lines : Nat) (accept late : Bool) : State :=
  let dests := ((kennel? s e.kennel).map (·.vdests)).getD []
  let leash := if kennelBit s 0x120040 e.kennel then some (detLat s e.kennel) else none
  if dests.isEmpty && leash.isNone then s
  else if 4096 ≤ s.timing.txq.length then cnt s 0x30040 1
  else
    let seq := tget s.timing.vseq e.kennel 0
    let m := rfxHeader e.kennel 4 0 e.epoch e.event 48 seq e.toffset ++ toBe 8 lines ++
      toBe 2 (nodeId s) ++ toBe 1 (2 * b2n accept + b2n late) ++ zeros 5
    { s with timing := { s.timing with
        vseq := tset s.timing.vseq e.kennel ((seq + 1) % 65536),
        txq := s.timing.txq ++ [{ kennel := e.kennel, bytes := m, dests, leash }] } }

/-! ### Issue (R55, R56) -/

/-- The event that the timing unit holds. -/
def evFind (s : State) (k epoch event : Nat) : Option VEvent :=
  s.timing.events.find? (fun e => e.kennel == k && e.epoch == epoch && e.event == event)

/-- The verdict of the event has been issued. -/
def evIssued (s : State) (k epoch event : Nat) : Option Issued :=
  s.timing.issued.find? (fun e => e.kennel == k && e.epoch == epoch && e.event == event)

/-- The events without one of them. -/
def evDrop (s : State) (k epoch event : Nat) : State :=
  { s with timing := { s.timing with events := s.timing.events.filter (fun e =>
      !(e.kennel == k && e.epoch == epoch && e.event == event)) } }

/-- Issues the verdict of an event: its result, or the default with LATE (R55). Pins are
driven in tick D, and so by no verdict that is issued outside it (R57). -/
def issueVerdict (s : State) (e : VEvent) (result : Option Nat) : State :=
  let line := detAccLine s e.kennel
  let late := result.isNone
  let lines := result.getD (b2n (detDefAcc s e.kennel) * 2 ^ line)
  let accept := bitAt lines line
  let s := evDrop s e.kennel e.epoch e.event
  let s := { s with timing := { s.timing with issued := s.timing.issued ++
      [{ kennel := e.kennel, epoch := e.epoch, event := e.event, accept, late }] } }
  let s := if late then cnt s (0x31800 + 4 * e.kennel) 1 else s
  let s := if e.due = some s.timing.tick then verdictPins s e.kennel lines late else s
  queueVerdict s e lines accept late

/-! ### Time -/

/-- What happens on its own while time passes: a fanned-out verdict drives its pins as its
tick begins (R481), and a pending verdict is issued as its tick ends (R55). -/
inductive Due where
  | remote (r : RemoteVerdict)
  | own (e : VEvent)

/-- What falls due between tick `t`, in progress, and tick `t + dt`: twice the tick, and one
more for what happens at its end. -/
def dueItems (s : State) (t dt : Nat) : List (Nat × Due) :=
  sortBy (fun a b => a.1 < b.1) (
    s.leash.remote.filterMap (fun r => (remoteDue s r).bind (fun d =>
      if t < d ∧ d ≤ t + dt then some (2 * d, .remote r) else none)) ++
    s.timing.events.filterMap (fun e => e.due.bind (fun d =>
      if t ≤ d ∧ d < t + dt then some (2 * d + 1, .own e) else none)))

/-- An item happens in its tick. -/
def dueNow (s : State) (i : Nat × Due) : State :=
  match i with
  | (d, .remote r) => driveRemote s (d / 2) r
  | (d, .own e) =>
    issueVerdict { s with timing := { s.timing with tick := d / 2 } } e (if e.dead then none else e.result)

/-- W of the epoch in progress (R48). -/
def epWindow (s : State) : Nat := s.timing.len / 16

/-- The window of the boundary that started the epoch ends as the count passes W; one that
no edge has used counts in EP_MISS_CNT (R48). -/
def closeWindow (s : State) (dt : Nat) : State :=
  if s.timing.startClosed || s.timing.count + dt ≤ epWindow s then s
  else
    let s := if esyncEn s && !s.timing.startUsed then cnt s 0x30034 1 else s
    { s with timing := { s.timing with startClosed := true } }

/-- `dt` TCLK pass without a boundary. (DEDUCED, safe: log entry 14.) -/
def passTicks (s : State) (dt : Nat) : State :=
  if epRunning s then
    let t := s.timing.tick
    let left := s.leash.remote.filter (fun r => (remoteDue s r).all (fun d => !(t < d && d ≤ t + dt)))
    let s := (dueItems s t dt).foldl dueNow { s with leash := { s.leash with remote := left } }
    let s := closeWindow s dt
    { s with timing := { s.timing with tick := (t + dt) % 2 ^ 64, count := s.timing.count + dt } }
  else s

/-- A result that arrives too late, or twice, is discarded and counted (R56). -/
def dropResult (s : State) (k : Nat) : State := cnt s (0x31C00 + 4 * k) 1

/-- Every pending verdict of the kennels that `f` names is issued at once as a
default with LATE (R51, R52, R451). -/
def defaultAll (s : State) (f : Nat → Bool) : State :=
  (s.timing.events.filter (fun e => f e.kennel)).foldl (fun s e => issueVerdict s e none) s

/-- Holds an event until its due tick. -/
def holdEvent (s : State) (e : VEvent) : State :=
  { s with timing := { s.timing with events := s.timing.events ++ [e] } }

/-- An event reaches the timing unit without a result: it waits for its due tick,
or takes the default at once (R52, R54, R165). -/
def expectEvent (s : State) (k epoch event toffset : Nat) : State :=
  if !inDet s k || (evFind s k epoch event).isSome || (evIssued s k epoch event).isSome then s
  else
    let e : VEvent := { kennel := k, epoch, event, toffset }
    if !epRunning s then issueVerdict s e none
    else
      match dueTick s k epoch toffset with
      | none => holdEvent s e
      | some d =>
        if d < nowTick s then issueVerdict s e none
        else holdEvent s { e with due := some d.toNat }

/-- A TEV result reaches the timing unit (R52, R54 to R56). (DESIGN CHOICE, unsafe: log entry 118.) -/
def tevArrive (s : State) (k epoch event toffset lines : Nat) : State :=
  if !inDet s k then s
  else if (evIssued s k epoch event).isSome then dropResult s k
  else
    match evFind s k epoch event with
    | some e =>
      if e.dead || e.result.isSome then dropResult s k
      else if !epRunning s then issueVerdict s e none
      else
        match e.due with
        | some d =>
          if (d : Int) < nowTick s then dropResult (issueVerdict s e none) k
          else holdEvent (evDrop s k epoch event) { e with result := some lines }
        | none => holdEvent (evDrop s k epoch event) { e with result := some lines }
    | none =>
      let e : VEvent := { kennel := k, epoch, event, toffset }
      if !epRunning s then issueVerdict s e none
      else
        match dueTick s k epoch toffset with
        | none => holdEvent s { e with result := some lines }
        | some d =>
          if d < nowTick s then dropResult (issueVerdict s e none) k
          else holdEvent s { e with due := some d.toNat, result := some lines }

/-- Due ticks that can be computed now are; an event whose epoch can no longer start
takes the default at once (R54). -/
def settleEvents (s : State) : State :=
  (s.timing.events.filter (·.due.isNone)).foldl (fun s e =>
    match dueTick s e.kennel e.epoch e.toffset with
    | none => s
    | some d =>
      if d < nowTick s then issueVerdict s e none
      else holdEvent (evDrop s e.kennel e.epoch e.event) { e with due := some d.toNat }) s

end Sys2Proof.Machine
end

