-- ==== Sys2Proof/Machine/LeashOps.lean ====
section
/-! DEFINITION. Sending on the Leash: frames, credits, the replay buffer, routes
and broadcasts (R466 to R470, R477, R479). -/

namespace Sys2Proof.Machine

open Sys2Proof

/-! ### Ports and sides -/

/-- A Leash port. -/
def lport (s : State) (p : Nat) : LPort := (s.leash.ports[p]?).getD {}

/-- Changes a Leash port. -/
def modLport (s : State) (p : Nat) (f : LPort → LPort) : State :=
  { s with leash := { s.leash with ports := lmod s.leash.ports p f } }

/-- LSH_PORTp and its CAP_MISMATCH and CLOSING. -/
def lshPort (p : Nat) : Nat := 0x120100 + 0x40 * p
def capMismatch (s : State) (p : Nat) : Bool := bitAt (regVal s (lshPort p)) 3
def isClosing (s : State) (p : Nat) : Bool := bitAt (regVal s (lshPort p)) 4

/-- The port carries more than LINK frames (R476). -/
def portUsable (s : State) (p : Nat) : Bool := (lport s p).up && !capMismatch s p

/-- Side A is 0 and side B is 1 (R466). -/
def sideOf (p : Nat) : Nat := p / 2
def sidePorts (side : Nat) : List Nat := [2 * side, 2 * side + 1]
def sideUp (s : State) (side : Nat) : Bool := (sidePorts side).any (portUsable s)

/-! ### LSH_NODE and the head -/

def nodeValid (s : State) : Bool := bitAt (regVal s 0x120008) 63
def nodeRing (s : State) : Bool := bitAt (regVal s 0x120008) 62
def nodeCount (s : State) : Nat := regField s 0x120008 32 17
def nodeBreak (s : State) : Nat := regField s 0x120008 16 16

/-- LSH_CFG.HEAD. -/
def isHead (s : State) : Bool := bitAt (regVal s 0x120000) 0

/-- A ring with no break (R477). -/
def wholeRing (s : State) : Bool := nodeRing s && nodeBreak s == 0xFFFF

/-- SRC of a frame that this node originates (R468). -/
def ownSrc (s : State) : Nat := if nodeValid s then nodeId s else 0xFFFF

/-! ### Frames (R468) -/

/-- A frame: its header and payload. -/
def leashFrame (type : Nat) (bcast : Bool) (vc dst src kennel channel : Nat) (payload : Bytes) : Bytes :=
  toLe 1 type ++ toLe 1 (128 * b2n bcast + 32 * vc) ++ toLe 2 dst ++ toLe 2 src ++ zeros 2 ++
  toLe 1 kennel ++ zeros 1 ++ toLe 2 channel ++ toLe 2 payload.length ++ zeros 2 ++ payload

/-- Receive buffer of a VC (R470). -/
def vcBuffer (vc : Nat) : Nat := if vc = 0 then 16384 else if vc = 1 then 65536 else 524288

/-- The link holds credit for a frame, and the replay buffer holds a place. -/
def vcCredit (lp : LPort) (vc len : Nat) : Bool :=
  sumOf lp.replay (fun f => if f.2.1 = vc then f.2.2.length else 0) + len ≤ vcBuffer vc &&
  lp.replay.length < 256

/-- A frame of the reliable stream leaves the port (R467). -/
def putFrame (s : State) (p vc : Nat) (f : Bytes) : State :=
  let n := (lport s p).txSeq
  let s := modLport s p (fun q => { q with
    txSeq := (n + 1) % 65536, replay := q.replay ++ [(n, vc, f)] })
  cnt (emit s (.leashTx p n f)) (0x120120 + 0x40 * p) 1

/-- Sends a frame, or lets it wait for credit behind the frames of its VC. -/
def sendPort (s : State) (p vc : Nat) (f : Bytes) : State :=
  let lp := lport s p
  if vcCredit lp vc f.length && !lp.wait.any (·.1 == vc) then putFrame s p vc f
  else modLport s p (fun q => { q with wait := q.wait ++ [(vc, f)] })

/-- The first waiting frame of a VC. -/
def vcHead (lp : LPort) (vc : Nat) : Option Bytes := (lp.wait.find? (·.1 == vc)).map (·.2)

/-- A list without its first element that `f` takes. -/
def eraseFirst {α : Type} (f : α → Bool) : List α → List α
  | [] => []
  | a :: r => if f a then r else a :: eraseFirst f r

/-- Sends waiting frames while credit lasts: VC 0 before VC 1 before VC 2, an aged VC
first (R470, R507). -/
def drainPort (p : Nat) : Nat → State → State
  | 0, s => s
  | n + 1, s =>
    let lp := lport s p
    let fits := fun (vc : Nat) => (vcHead lp vc).any (fun f => vcCredit lp vc f.length)
    let ready := [0, 1, 2].filter fits
    let urgent := ready.filter (fun v => arbAge s ≤ tget lp.arb.lost v 0)
    match (if urgent.isEmpty then ready.head? else rrNext lp.arb.last urgent) with
    | none => s
    | some vc =>
      match vcHead lp vc with
      | none => s
      | some f =>
        let s := modLport s p (fun q => { q with
          wait := eraseFirst (·.1 == vc) q.wait, arb := q.arb.won ready vc })
        drainPort p n (putFrame s p vc f)

/-- Sends what waits at a port and now has credit. -/
def drainLeash (s : State) (p : Nat) : State := drainPort p (lport s p).wait.length s

/-- A LINK frame of a port (R469). -/
def sendLink (s : State) (p : Nat) (payload : Bytes) : State :=
  let f := leashFrame 1 false 0 0 (ownSrc s) 0 0 payload
  cnt (emit s (.leashTx p (lport s p).txSeq f)) (0x120120 + 0x40 * p) 1

/-! ### Routes (R477) -/

/-- Sends a frame on one of the bonded links of a side; which one is open. -/
def sendSide (s : State) (side vc : Nat) (f : Bytes) : State :=
  match pick s ((sidePorts side).filter (portUsable s)) with
  | some (p, s) => sendPort s p vc f
  | none => s

/-- A side reaches its neighbour over the closing link. -/
def sideClosing (s : State) (side : Nat) : Bool := (sidePorts side).any (isClosing s)

/-- Broadcasts a frame on every side but `skip`; in a whole ring never over the
closing link. -/
def sendBroadcast (s : State) (skip : Option Nat) (vc : Nat) (f : Bytes) : State :=
  [0, 1].foldl (fun s side =>
    if skip = some side || (wholeRing s && sideClosing s side) then s
    else sendSide s side vc f) s

/-- The side on which the path to a node leaves this one, if there is a path. -/
def routeSide (s : State) (dst : Nat) : Option Nat :=
  let n := nodeId s
  let b := nodeBreak s
  if !nodeValid s || nodeCount s ≤ dst then none
  else
    let direct := if n < dst then 1 else 0
    let side :=
      if nodeRing s && b != 0xFFFF && (n ≤ b) != (dst ≤ b) then 1 - direct else direct
    if sideUp s side then some side
    else if nodeRing s && sideUp s (1 - side) && b != 0xFFFF then some (1 - side)
    else none

/-- Sends a unicast frame on its path, or drops and counts it. -/
def sendUnicast (s : State) (dst vc : Nat) (f : Bytes) : State :=
  match routeSide s dst with
  | some side => sendSide s side vc f
  | none => cnt s 0x120018 1

/-! ### Epoch marks (R479) -/

/-- The head's EPOCH marks at a boundary. DELAY, the time to the mark's SOF, is a
free value. -/
def epochMarks (s : State) : State :=
  if !isHead s then s
  else [0, 1].foldl (fun s side =>
    if !sideUp s side then s
    else
      let (d, s) := takeFree s
      sendSide s side 0 (leashFrame 4 false 0 0 (ownSrc s) 0 0
        (toLe 6 s.timing.epoch ++ zeros 2 ++ toLe 4 d ++ toLe 4 s.timing.len))) s

end Sys2Proof.Machine
end

