-- ==== Sys2Proof/Machine/MemOps.lean ====
section
/-! DEFINITION. Reading and writing device memory coherently (R18, R19, R340 to R342,
R348, R349, R353, R357), and table spaces over it (R418). -/

namespace Sys2Proof.Machine

open Sys2Proof

/-- Bytes of a 2 MiB granule (R418). -/
def granuleBytes : Nat := 2097152

/-- The write queue of a line: 2 × channel + subchannel (R340). -/
def wqOfLine (line : Nat) : Nat := 2 * (line / 2 % 16) + line % 2

/-- The channel of a line. -/
def chanOfLine (line : Nat) : Nat := line / 2 % 16

/-- The set of a line (R353). -/
def shcSet (line : Nat) : Nat :=
  line % 65536 ^^^ line / 65536 % 65536 ^^^ line / 4294967296 % 16

/-- The way that holds a line, as 16 × set + way (R353). -/
def shcFind (s : State) (line : Nat) : Option (Nat × ShcLine) :=
  let set := shcSet line
  (List.range 16).findSome? (fun w =>
    match tfind? s.shc.lines (16 * set + w) with
    | some l => if l.line = line then some (16 * set + w, l) else none
    | none => none)

/-- C as a power of two: DDR_GCFG.LOG2CAP (R340). -/
def log2Cap (s : State) : Nat := regField s 0x10F000 8 6

/-- The eighth in which a line lies (R340). -/
def eighthOf (s : State) (line : Nat) : Nat := 512 * line / 2 ^ log2Cap s

/-- The line lies in an eighth that was lost and has not been zeroed (R350). -/
def lineLost (s : State) (line : Nat) : Bool := s.dram.lost.getLsbD (eighthOf s line)

/-- The bytes of a line as DRAM gives them; of a lost eighth they are open (R350). -/
def memLine (s : State) (line : Nat) : BitVec 512 :=
  if lineLost s line then BitVec.ofNat 512 (Config.lostLine s.free line)
  else BitVec.ofNat 512 (leNat (s.dram.mem.read (64 * line) 64))

/-- The line is poisoned, or reads so because its eighth was lost (R342, R350). -/
def linePoison (s : State) (line : Nat) : Bool :=
  s.dram.poison.contains line || (lineLost s line && Config.lostPoison s.free line)

/-- The write queue entry of a line (R349). -/
def wqFind (s : State) (line : Nat) : Option WqLine :=
  (tget s.dram.wqs (wqOfLine line) []).find? (·.line == line)

/-- A line as the DRAM controller answers a read: data and poison (R342, R349). -/
def dramLine (s : State) (line : Nat) : BitVec 512 × Bool :=
  match wqFind s line with
  | some e => (e.data, e.poison)
  | none => (memLine s line, linePoison s line)

/-- A line as any agent reads it (R18, R19). -/
def cohLine (s : State) (line : Nat) : BitVec 512 × Bool :=
  match shcFind s line with
  | some (_, l) => (l.data, l.poison)
  | none =>
    match s.shc.ebuf.find? (·.line == line) with
    | some l => (l.data, l.poison)
    | none => dramLine s line

/-- The bytes that `mask` names replaced. -/
def mergeLine (old : BitVec 512) (mask : BitVec 64) (new : BitVec 512) : BitVec 512 :=
  let bits := (List.range 64).foldl (fun (n : Nat) i =>
    if mask.getLsbD i then n + 255 * 2 ^ (8 * i) else n) 0
  let m := BitVec.ofNat 512 bits
  (old &&& ~~~m) ||| (new &&& m)

/-- Sets or clears the poison mark of a line in DRAM. -/
def setPoison (d : DramSt) (line : Nat) (p : Bool) : DramSt :=
  { d with poison := if p then addNew d.poison line else d.poison.filter (· != line) }

/-- Stores a whole line in DRAM. -/
def storeLine (d : DramSt) (line : Nat) (data : BitVec 512) (p : Bool) : DramSt :=
  { setPoison d line p with mem := d.mem.write (64 * line) (toLe 64 data.toNat) }

/-! ### Errors of DRAM lines (R340 to R342) -/

/-- The registers of a channel: counter `i` of R363. -/
def dramCnt (s : State) (c i : Nat) : State := cnt s (0x100020 + 0x800 * c + 4 * i) 1

/-- DDR_ERRLOG of a channel. -/
def errlogReg (c : Nat) : Nat := 0x100010 + 0x800 * c

/-- DDR_GCFG: x8 devices, two ranks on a DIMM, two DIMMs on a channel (R362). -/
def gcfgX8 (s : State) : Nat := regField s 0x10F000 3 1
def gcfgRanks (s : State) : Nat := regField s 0x10F000 2 1
def gcfgDpc (s : State) : Nat := regField s 0x10F000 1 1

/-- Ranks of a channel (R362). -/
def channelRanks (s : State) : Nat := 2 ^ (gcfgRanks s + gcfgDpc s)

/-- Bits of a line's number, above those of its channel, that select its column; bank bits
above them: three of a bank group and two of a bank, as JESD79-5 has them (R340).
(PRESUMED, unsafe: log entry 101.) -/
def columnBits (s : State) : Nat := 7 - gcfgX8 s
def bankBits : Nat := 5

/-- The banks of a subchannel over all its ranks; the bank of a line in its subchannel, its
DIMM and rank included, and its row (R340). -/
def bankCount (s : State) : Nat := 2 ^ bankBits * channelRanks s
def lineBank (s : State) (line : Nat) : Nat := line / 2 ^ (5 + columnBits s) % bankCount s
def lineRow (s : State) (line : Nat) : Nat := line / 2 ^ (5 + columnBits s) / bankCount s

/-- Rows of a bank. -/
def bankRows (s : State) : Nat := lineRow s (2 ^ (log2Cap s - 6))

/-- The rank in which a line lies, counted through the DIMMs of its channel: the bit of
the DIMM lies below that of the rank (R340). (PRESUMED, unsafe: log entry 101.) -/
def lineRank (s : State) (line : Nat) : Nat :=
  let b := lineBank s line / 2 ^ bankBits
  b % 2 ^ gcfgDpc s * 2 ^ gcfgRanks s + b / 2 ^ gcfgDpc s

/-- Records an error in DDR_ERRLOG: a correctable one never replaces an uncorrectable
one (R363). -/
def recordErr (s : State) (line ty dev : Nat) : State :=
  let c := chanOfLine line
  if ty = 1 && 2 ≤ regField s (errlogReg c) 62 2 then s
  else setReg s (errlogReg c) (ty * 2 ^ 62 + line % 2 * 2 ^ 61 + lineRank s line * 2 ^ 59 +
    dev % 32 * 2 ^ 54 + line * 64)

/-- A corrected error of a demand read is counted and recorded (R341, R345). -/
def dramCe (s : State) (line dev : Nat) : State :=
  let c := chanOfLine line
  recordErr (dramCnt { s with dram := { s.dram with
    ceSince := tset s.dram.ceSince c (tget s.dram.ceSince c 0 + 1) } } c 0) line 1 dev

/-- A line is found uncorrectable: poisoned, counted, recorded and raised (R342). -/
def dramUe (s : State) (line ty dev : Nat) : State :=
  let c := chanOfLine line
  let s := { s with dram := setPoison s.dram line true }
  raiseEvent (recordErr (dramCnt s c 1) line ty dev) (32 + c)

/-! ### Whole lines -/

/-- A whole line as DRAM holds it from now on: in its write queue entry where there is
one (R348, R359). -/
def landLine (s : State) (line : Nat) (data : BitVec 512) (poison : Bool) : State :=
  if (wqFind s line).isSome then
    { s with dram := { s.dram with wqs := tmod s.dram.wqs (wqOfLine line) (fun q => q.map (fun e =>
      if e.line = line then { e with data, poison } else e)) } }
  else { s with dram := storeLine s.dram line data poison }

/-- A request applied to a line of the cache. -/
def opLine (op : ShcOp) (l : ShcLine) : ShcLine :=
  match op with
  | .read => l
  | .write mask data => { l with data := mergeLine l.data mask data, dirty := true,
                                 poison := l.poison && mask != BitVec.allOnes 64 }

/-! ### Direct writes (R19) -/

/-- A miss whose fill of the line is in flight. -/
def fillsLine (line : Nat) (m : ShcMiss) : Bool := m.line == line && (m.way.isSome || m.joined)

/-- A fill of the line completes first (R19): the ports' requests are done on it, and the
line, which the direct write will invalidate, goes to DRAM; the ports are answered
when their fill is reported. -/
def finishFill (s : State) (line : Nat) : State :=
  let ms := s.shc.misses.filter (fun e => fillsLine line e.2)
  if ms.isEmpty then s
  else
    let (data, poison) := dramLine s line
    let l := ms.foldl (fun l e => opLine e.2.op l) ({ line, dirty := false, poison, age := 0, data } : ShcLine)
    let s := { s with shc := { s.shc with misses := s.shc.misses.map (fun e =>
      if fillsLine line e.2 then (e.1, { e.2 with way := none, joined := false, came := some poison })
      else e) } }
    if l.dirty then landLine s line l.data l.poison else s

/-- The line leaves the arrays of the cache. -/
def dropShc (s : State) (line : Nat) : State :=
  match shcFind s line with
  | some (key, _) => { s with shc := { s.shc with lines := tdel s.shc.lines key } }
  | none => s

/-- A buffered line is written in place (R357). -/
def writeBuffered (s : State) (line : Nat) (mask : BitVec 64) (new : BitVec 512) : State :=
  { s with shc := { s.shc with ebuf := s.shc.ebuf.map (fun l =>
      if l.line = line then
        { l with data := mergeLine l.data mask new, poison := l.poison && mask != BitVec.allOnes 64 }
      else l) } }

/-- A direct write of a line, done: a fill of it completes first, and a copy in the arrays
of the cache is invalid afterwards (R18, R19); a full write clears poison (R342). -/
def writeThrough (s : State) (line : Nat) (mask : BitVec 64) (new : BitVec 512) : State :=
  let s := finishFill s line
  if s.shc.ebuf.any (·.line == line) && (shcFind s line).isNone then writeBuffered s line mask new
  else
    let (old, p) := cohLine s line
    landLine (dropShc s line) line (mergeLine old mask new) (p && mask != BitVec.allOnes 64)

/-- Writes of the line that wait for an entry of its write queue go before a new one. -/
def settleHeld (s : State) (line : Nat) : State :=
  let q := wqOfLine line
  let ws := tget s.dram.held q []
  if ws.all (·.line != line) then s
  else
    let s := { s with dram := { s.dram with held := tset s.dram.held q (ws.filter (·.line != line)) } }
    (ws.filter (·.line == line)).foldl (fun s w => writeThrough s line w.mask w.data) s

/-- A mover's direct write of a line within a transfer that one command stands for: what
enters a write queue is issued within the step (R19, R348). (DEDUCED, safe: log entry 102.) -/
def directWrite (s : State) (line : Nat) (mask : BitVec 64) (new : BitVec 512) : State :=
  writeThrough (settleHeld s line) line mask new

/-! ### Write queues (R348) -/

/-- A write enters its write queue or merges; none where it must wait for an entry. -/
def wqPut (s : State) (line : Nat) (mask : BitVec 64) (data : BitVec 512) (poison : Bool) :
    Option State :=
  let q := wqOfLine line
  let es := tget s.dram.wqs q []
  let full := mask == BitVec.allOnes 64
  if es.any (·.line == line) then
    some { s with dram := { s.dram with wqs := tset s.dram.wqs q (es.map (fun e =>
      if e.line = line then
        { e with data := mergeLine e.data mask data, poison := poison || (e.poison && !full) }
      else e)) } }
  else if 64 ≤ es.length then none
  else
    let e : WqLine := { line, data := mergeLine (memLine s line) mask data,
                        poison := poison || (linePoison s line && !full) }
    let s := { s with dram := { s.dram with wqs := tset s.dram.wqs q (es ++ [e]) } }
    some (if es.length = 63 then dramCnt s (q / 2) 5 else s)

/-- A write of part of a line that stands in DRAM reads the line first, with ECC (R348). -/
def partRead (s : State) (w : HeldWrite) : State :=
  if w.mask == BitVec.allOnes 64 || (wqFind s w.line).isSome || linePoison s w.line then s
  else
    match w.ecc with
    | .ok => s
    | .corrected => dramCe s w.line w.dev
    | .uncorrectable => dramUe s w.line 2 w.dev

/-- A direct write enters its write queue, with what a dirty line of the cache holds; none
where it must wait for an entry (R19, R348). -/
def directPut (s : State) (w : HeldWrite) : Option State :=
  let s := finishFill s w.line
  match shcFind s w.line with
  | some (_, l) =>
    if l.dirty then
      (wqPut s w.line (BitVec.allOnes 64) (mergeLine l.data w.mask w.data)
        (l.poison && w.mask != BitVec.allOnes 64)).map (dropShc · w.line)
    else (wqPut (partRead s w) w.line w.mask w.data false).map (dropShc · w.line)
  | none =>
    if s.shc.ebuf.any (·.line == w.line) then some (writeBuffered s w.line w.mask w.data)
    else wqPut (partRead s w) w.line w.mask w.data false

/-- A write that waits where it must. -/
def dramPut (s : State) (w : HeldWrite) : State :=
  match directPut s w with
  | some s => s
  | none =>
    let q := wqOfLine w.line
    { s with dram := { s.dram with held := tset s.dram.held q (tget s.dram.held q [] ++ [w]) } }

/-- Writes that waited take free entries, in order. -/
def wqRefill : Nat → Nat → State → State
  | 0, _, s => s
  | fuel + 1, q, s =>
    match tget s.dram.held q [] with
    | [] => s
    | w :: r =>
      match directPut s w with
      | none => s
      | some s => wqRefill fuel q { s with dram := { s.dram with held := tset s.dram.held q r } }

/-- The oldest entries of a write queue are issued to DRAM. (DEDUCED, safe: log entry 28.) -/
def wqIssue : Nat → Nat → State → State
  | 0, _, s => s
  | n + 1, q, s =>
    match tget s.dram.wqs q [] with
    | [] => s
    | e :: r =>
      let d := storeLine s.dram e.line e.data e.poison
      wqIssue n q { s with dram := { d with wqs := tset d.wqs q r } }

/-! ### Table spaces -/

def space? (s : State) (n : Nat) : Option TSpace := tfind? s.store.spaces n

/-- The size of a table space. -/
def spaceSize (t : TSpace) : Nat := granuleBytes * t.granules.length

/-- The table space of a kennel (R417). -/
def ownSpace (s : State) (k n : Nat) : Option TSpace :=
  (space? s n).bind (fun t => if t.owner = some k then some t else none)

/-- A range lies inside a table space of the kennel. -/
def inSpace (s : State) (k n off len : Nat) : Bool :=
  match ownSpace s k n with
  | some t => off + len ≤ spaceSize t
  | none => false

/-- The device line of a line of a table space (R418). -/
def spaceLine (t : TSpace) (l : Nat) : Nat :=
  ((t.granules[l / 32768]?).getD 0) * 32768 + l % 32768

/-- Bytes of a table space, and whether a line of them is poisoned. -/
def tsRead (s : State) (t : TSpace) (off len : Nat) : Bytes × Bool :=
  if len = 0 then ([], false)
  else
    let first := off / 64
    let n := (off + len - 1) / 64 - first + 1
    let ls := (List.range n).map (fun i => cohLine s (spaceLine t (first + i)))
    (((ls.flatMap (fun l => toLe 64 l.1.toNat)).drop (off % 64)).take len, ls.any (·.2))

/-- The lines that bytes at an offset cover: line, mask and data. -/
def splitLines : Nat → Nat → Bytes → List (Nat × BitVec 64 × BitVec 512)
  | 0, _, _ => []
  | fuel + 1, off, b =>
    if b.isEmpty then []
    else
      let at' := off % 64
      let n := min b.length (64 - at')
      let mask := BitVec.ofNat 64 ((2 ^ n - 1) * 2 ^ at')
      let data := BitVec.ofNat 512 (leNat (b.take n) * 2 ^ (8 * at'))
      (off / 64, mask, data) :: splitLines fuel (off + n) (b.drop n)

/-- Writes bytes of a table space. -/
def tsWrite (s : State) (t : TSpace) (off : Nat) (b : Bytes) : State :=
  (splitLines (b.length + 1) off b).foldl (fun s (l, mask, data) =>
    directWrite s (spaceLine t l) mask data) s

end Sys2Proof.Machine
end

