-- ==== Sys2Proof/Machine/JobOps.lean ====
section
/-! DEFINITION. What the vertices of a job share: their ports and edges, taking
and publishing, credits, failure, and the tiles that they read (R85, R94, R101,
R108 to R119). -/

namespace Sys2Proof.Machine

open Sys2Proof

/-! ### Vertex kinds (R91) -/

def kHound : Nat := 0x01
def kFacet : Nat := 0x02
def kShepherd : Nat := 0x03
def kSort : Nat := 0x04
def kAgg : Nat := 0x05
def kScent : Nat := 0x06
def kCze : Nat := 0x07
def kDge : Nat := 0x08
def kSrcIngest : Nat := 0x20
def kSrcTs : Nat := 0x21
def kSinkHost : Nat := 0x30
def kSinkTs : Nat := 0x31
def kSinkVerdict : Nat := 0x32
def kExch : Nat := 0x40

/-- A sink (R91). -/
def isSink (kind : Nat) : Bool := kind == kSinkHost || kind == kSinkTs || kind == kSinkVerdict

/-- ORDERED, PINNED and DEFER of a vertex record (R90). -/
def vOrdered (v : Vertex) : Bool := bitAt v.flags 0
def vPinned (v : Vertex) : Bool := bitAt v.flags 1
def vDefer (v : Vertex) : Bool := bitAt v.flags 2

/-- DEAL, FEEDBACK and SPILL of an edge record (R92). -/
def eDeal (e : Edge) : Bool := field e.flags 0 2 == 1
def eFeedback (e : Edge) : Bool := bitAt e.flags 2
def eSpill (e : Edge) : Bool := bitAt e.flags 3

/-! ### SEQ (R114) -/

/-- The SEQ of an origin's tile: PART 0 and LAST 1. -/
def originSeq (vid ordinal : Nat) : Nat := mkSeq vid ordinal 1 0

/-- The SEQ of a skip mark for an input: LAST set. -/
def skipSeq (q : Nat) : Nat := q ||| 2 ^ 11

/-! ### A vertex of a job -/

/-- A vertex of a job in flight, with the job and the plan around it. -/
structure Vx where
  j : Nat
  vid : Nat
  job : Job
  plan : Plan
  vert : Vertex
  st : VertSt

/-- The vertex that a command names. -/
def vx? (s : State) (v : VertexRef) : Option Vx :=
  match job? s v.job with
  | none => none
  | some job =>
    match jobPlan s job with
    | none => none
    | some plan =>
      match plan.verts[v.vid]?, job.verts[v.vid]? with
      | some vert, some st => some { j := v.job, vid := v.vid, job, plan, vert, st }
      | _, _ => none

/-- The job's work goes on: it has neither failed nor been abandoned nor ended. -/
def jobLive (b : Job) : Bool := b.failed.isNone && !b.abandoned && !b.retired

/-- The vertex may work (R109). -/
def vxLive (x : Vx) : Bool := jobLive x.job && !x.st.stopped

/-- The share of a kennel freezes it (R403). -/
def shareZero (sh : Bytes) : Bool := zeroes sh 28 7

/-- A unit may start work for the kennel (R403). -/
def mayStart (s : State) (k : Nat) : Bool :=
  match kennel? s k with
  | some x => !shareZero x.share
  | none => false

/-- The vertex that a command names, if it may work and its kennel is not frozen. -/
def liveVx (s : State) (v : VertexRef) : Option Vx :=
  match vx? s v with
  | some x => if vxLive x && mayStart s x.job.kennel then some x else none
  | none => none

/-- Changes the state of a vertex. -/
def modVert (s : State) (j vid : Nat) (f : VertSt → VertSt) : State :=
  modJob s j (fun b => { b with verts := lmod b.verts vid f })

/-- Changes an edge of a job. -/
def modEdge (s : State) (j e : Nat) (f : EdgeSt → EdgeSt) : State :=
  modJob s j (fun b => { b with edges := lmod b.edges e f })

/-- Sets what the engine of a vertex keeps. -/
def setEng (s : State) (x : Vx) (e : EngSt) : State :=
  modVert s x.j x.vid (fun v => { v with eng := e })

/-- The edge into an input port: its number, and the place of the port on it. -/
def inEdge? (p : Plan) (vid port : Nat) : Option (Nat × Nat) :=
  (p.edges.zip (List.range p.edges.length)).findSome? (fun (e, i) =>
    (e.dsts.zip (List.range e.dsts.length)).findSome? (fun (d, k) =>
      if d.1 = vid ∧ d.2 = port then some (i, k) else none))

/-- The edge of an output port. -/
def outEdge? (p : Plan) (vid port : Nat) : Option (Nat × Edge) :=
  (p.edges.zip (List.range p.edges.length)).findSome? (fun (e, i) =>
    if e.src = vid ∧ e.srcPort = port then some (i, e) else none)

/-- What waits for an input port. -/
def inQueue (x : Vx) (port : Nat) : List EItem :=
  match inEdge? x.plan x.vid port with
  | none => []
  | some (e, d) => ((x.job.edges[e]?).bind (fun s => s.queues[d]?)).getD []

/-- The next item of an input port. -/
def inHead (x : Vx) (port : Nat) : Option EItem := (inQueue x port).head?

/-- The port has delivered its end mark, which nothing follows (R108). -/
def portEnded (x : Vx) (port : Nat) : Bool := inHead x port == some .endMark

/-- Every input has delivered its end mark. -/
def allEnded (x : Vx) : Bool := (List.range x.vert.nin).all (portEnded x)

/-- A DEFER vertex reads no port but 0 before the end mark of port 0 (R90). -/
def deferHolds (x : Vx) (port : Nat) : Bool := vDefer x.vert && port != 0 && !portEnded x 0

/-- The port may be read, and its next item is a tile, a block or a skip mark. -/
def portReady (x : Vx) (port : Nat) : Bool :=
  !deferHolds x port &&
  (match inHead x port with
   | some (.tile _ _) | some (.block _ _) | some (.skip _) => true
   | _ => false)

/-- The capacity of an output port's edge: LOG2CAP. -/
def outCap (p : Plan) (vid port : Nat) : Nat := ((outEdge? p vid port).map (·.2.log2cap)).getD 8

/-! ### Credits (R115, R116) -/

/-- The state that a sink keeps. -/
def sinkOf (v : VertSt) : SinkSt := match v.eng with | .sink k => k | _ => {}

/-- The last free credit of the edge belongs to another tile: an ORDERED sink that the edge
ends at waits for the next one in its order (R115). -/
def lastReserved (s : State) (x : Vx) (e : Edge) (used seq : Nat) : Bool :=
  used + 1 = e.credits &&
  e.dsts.any (fun (vid, _) =>
    match vx? s { job := x.j, vid } with
    | none => false
    | some d => isSink d.vert.kind && vOrdered d.vert &&
        !(seqOrdinal seq == (sinkOf d.st).ordinal && seqPart seq == (sinkOf d.st).part))

/-- The edge has a credit for a tile with a SEQ (R115, R116). -/
def creditFree (s : State) (x : Vx) (eid : Nat) (e : Edge) (seq : Nat) : Bool :=
  let used := ((x.job.edges[eid]?).map (·.slots.length)).getD 0
  decide (used < e.credits) && !lastReserved s x e used seq

/-- The vertex waits for an output credit: the next output of one of its ports is a tile
whose edge has none for it. -/
def outBlocked (s : State) (x : Vx) : Bool :=
  (List.range x.vert.nout).any (fun port =>
    match x.st.outq.find? (fun o => o.1 == port), outEdge? x.plan x.vid port with
    | some (_, .tile b), some (eid, e) => !creditFree s x eid e (tileSeq b)
    | _, _ => false)

/-! ### Failure (R109) -/

/-- The vertex raises a failing status. An uncorrectable DRAM error is a
kennel-scope error too (R342, R407). -/
def failVx (s : State) (x : Vx) (status : Nat) : State :=
  let s := if status = eDdrUe then kennelError s x.job.kennel else s
  failJob s x.j status x.vid

/-! ### Cycles (R118) -/

/-- Vertices reachable from those of a list without FEEDBACK edges. -/
def reachFrom (edges : List Edge) : Nat → List Nat → List Nat
  | 0, seen => seen
  | n + 1, seen =>
    let next := edges.foldl (fun acc e =>
      if !eFeedback e && acc.contains e.src then e.dsts.foldl (fun a d => addNew a d.1) acc
      else acc) seen
    if next.length = seen.length then seen else reachFrom edges n next

/-- `b` can be reached from `a` without FEEDBACK edges. -/
def reaches (edges : List Edge) (nvert a b : Nat) : Bool := (reachFrom edges nvert [a]).contains b

/-- The number of the FEEDBACK edge on whose cycle an edge lies. -/
def cycleOf (p : Plan) (e : Nat) : Option Nat :=
  (p.edges.zip (List.range p.edges.length)).findSome? (fun (f, i) =>
    if !eFeedback f then none
    else if i = e then some i
    else
      match p.edges[e]?, f.dsts.head? with
      | some g, some (entry, _) =>
        let n := p.verts.length
        if !eFeedback g && reaches p.edges n entry g.src &&
            g.dsts.any (fun d => reaches p.edges n d.1 f.src) then some i else none
      | _, _ => none)

/-- The destination `k` of edge `e` lies on the cycle of the FEEDBACK edge `f`. -/
def onCycleDst (p : Plan) (f e k : Nat) : Bool :=
  cycleOf p e == some f &&
  (e == f ||
    match (p.edges[e]?).bind (fun g => g.dsts[k]?), p.edges[f]? with
    | some d, some fb => reaches p.edges p.verts.length d.1 fb.src
    | _, _ => false)

/-- Tiles of a job that stand on the edges of a cycle, for destinations on it. -/
def cycleQueued (p : Plan) (b : Job) (f : Nat) : Nat :=
  sumOf (b.edges.zip (List.range b.edges.length)) (fun (g, e) =>
    sumOf (g.queues.zip (List.range g.queues.length)) (fun (q, k) =>
      if onCycleDst p f e k then
        q.countP (fun it => match it with | .tile _ _ | .spilled _ => true | _ => false)
      else 0))

/-! ### Taking and releasing (R94, R116) -/

/-- One consumer of a slot of an edge is done with it. -/
def releaseSlot (s : State) (j e slot : Nat) : State :=
  modEdge s j e (fun g => { g with slots := g.slots.filterMap (fun (k, n) =>
    if k = slot then (if n ≤ 1 then none else some (k, n - 1)) else some (k, n)) })

/-- Releases every input slot that a vertex holds. -/
def releaseHolds (s : State) (j vid : Nat) : State :=
  match (job? s j).bind (fun b => b.verts[vid]?) with
  | none => s
  | some v =>
    let s := v.inHold.foldl (fun s h => releaseSlot s j h.edge h.slot) s
    modVert s j vid (fun v => { v with inHold := [] })

/-- Takes the next item of an input port; the vertex holds its slot. -/
def popIn (s : State) (x : Vx) (port : Nat) : State :=
  match inEdge? x.plan x.vid port, inHead x port with
  | some (e, d), some it =>
    let s := modEdge s x.j e (fun g => { g with queues := lmod g.queues d (·.drop 1) })
    let hold := fun (slot : Nat) (s : State) =>
      if slot = 0 then s
      else modVert s x.j x.vid (fun v => { v with
        inHold := v.inHold ++ [{ edge := e, dst := d, slot }] })
    match it with
    | .tile slot _ => cntVertex (hold slot s) x.job.kennel x.job.plan x.vid 62 1
    | .block slot _ => hold slot s
    | _ => s
  | _, _ => s

/-- A vertex is done with its input: it holds what it will publish, and the input
slots until that is published. -/
def putOut (s : State) (x : Vx) (outs : List (Nat × OItem)) : State :=
  if outs.isEmpty then releaseHolds s x.j x.vid
  else modVert s x.j x.vid (fun v => { v with outq := v.outq ++ outs })

/-- Forwards a skip mark on every output port (R114). (DEDUCED, safe: log entry 17.) -/
def skipOuts (x : Vx) (q : Nat) : List (Nat × OItem) :=
  (List.range x.vert.nout).map (fun p => (p, .skip (skipSeq q)))

/-- An origin numbers its next tile on a port (R114). -/
def nextOrdinal (s : State) (x : Vx) (port : Nat) : Nat × State :=
  match (job? s x.j).bind (fun b => b.verts[x.vid]?) with
  | none => (0, s)
  | some v =>
    let n := tget v.ordinals port 0
    (originSeq x.vid n, modVert s x.j x.vid (fun v => { v with ordinals := tset v.ordinals port (n + 1) }))

/-- An origin is about to publish tiles on a port, in order. -/
def putOrigin (s : State) (x : Vx) (port : Nat) : List Bytes → State
  | [] => s
  | b :: bs =>
    let (q, s) := nextOrdinal s x port
    putOrigin (modVert s x.j x.vid (fun v => { v with
      outq := v.outq ++ [(port, .tile (setTileSeq b q))] })) x port bs

/-! ### Reading tiles (R75, R85) -/

/-- A dictionary in a table space (R75, R76). -/
def dictOfSpace (s : State) (t : TSpace) (off : Nat) : DictView :=
  { header := (tsRead s t off 32).1, size := spaceSize t - off,
    entry := fun _ w i =>
      let byte := i * w / 8
      (leNat (tsRead s t (off + 32 + byte) (w / 8 + 2)).1 >>> (i * w % 8)) % 2 ^ w }

/-- What stands where a DICTREF of a kennel points in a table space (R75). -/
def spaceDict (s : State) (k r : Nat) : Option DictView :=
  match ownSpace s k (field r 48 12) with
  | none => none
  | some t => if field r 0 48 < spaceSize t then some (dictOfSpace s t (field r 0 48)) else none

/-- What a DICTREF names for a job of the kennel and plan (R75, R95), which has read the
table-space dictionaries `noted` before (R78). (DESIGN CHOICE, safe: log entry 108.) -/
def dictEnv (s : State) (k : Nat) (p : Plan) (noted : Tbl Bytes) : DictEnv := fun r =>
  if field r 62 2 = 0 then (p.dicts.find? (·.1 == r)).map (fun d => dictOfBytes d.2)
  else
    match tfind? noted r with
    | some old => some (dictOver s.free (dictOfBytes old) (spaceDict s k r))
    | none => spaceDict s k r

/-- The table-space dictionaries that a tile names: table space, offset, bytes, DICTREF. -/
def tileDictRefs (t : PTile) : List (Nat × Nat × Nat × Nat) :=
  t.strips.filterMap (fun p =>
    match p.dict with
    | some d =>
      if p.enc = 2 ∧ field p.base 62 2 = 1 then
        some (field p.base 48 12, field p.base 0 48,
          32 + packedLen (dictCount d) (tyWidth (dictType d)), p.base)
      else none
    | none => none)

/-- A line of a dictionary that the tile names is poisoned (R342). -/
def dictPoison (s : State) (k : Nat) (t : PTile) : Bool :=
  (tileDictRefs t).any (fun (n, off, len, _) =>
    match ownSpace s k n with
    | some sp => (tsRead s sp off len).2
    | none => false)

/-- The first stage of R85 for a vertex, with the dictionaries of its job. -/
def readTile (s : State) (x : Vx) (b : Bytes) : Except Nat PTile :=
  match parseTile (dictEnv s x.job.kennel x.plan x.job.dicts) b with
  | .error e => .error e
  | .ok t => if dictPoison s x.job.kennel t then .error eDdrUe else .ok t

/-- Both stages of R85, with every row of every strip read (R106). -/
def readWhole (s : State) (x : Vx) (b : Bytes) : Except Nat PTile :=
  match readTile s x b with
  | .error e => .error e
  | .ok t =>
    match valuesFault t.rows t.strips with
    | some e => .error e
    | none => .ok t

/-- Software has written a dictionary that a tile names since the job read it first (R78). -/
def dictStale (s : State) (x : Vx) (t : PTile) : Bool :=
  (tileDictRefs t).any (fun (n, off, _, r) =>
    match tfind? x.job.dicts r, ownSpace s x.job.kennel n with
    | some old, some sp => (tsRead s sp off old.length).1 != old
    | _, _ => false)

/-- Notes the dictionaries that a tile names: their table spaces (R420), and what the job
read there first (R78). -/
def noteDicts (s : State) (x : Vx) (t : PTile) : State :=
  let s := if dictStale s x t then { s with free := s.free + 1 } else s
  (tileDictRefs t).foldl (fun s (n, off, len, r) =>
    modJob s x.j (fun b => { b with
      dictSpaces := addNew b.dictSpaces n,
      dicts := if (tfind? b.dicts r).isSome then b.dicts
        else match ownSpace s x.job.kennel n with
          | some sp => tset b.dicts r (tsRead s sp off len).1
          | none => b.dicts })) s

/-! ### Engines (R101, R402) -/

/-- The entry of an engine. -/
def engineSt (s : State) (e : EngineId) : EngineSt :=
  ((s.engines.find? (fun p => decide (p.1 = e))).map (·.2)).getD {}

/-- Sets the entry of an engine. -/
def setEngine (s : State) (e : EngineId) (st : EngineSt) : State :=
  { s with engines := s.engines.filter (fun p => !decide (p.1 = e)) ++ [(e, st)] }

/-- The engine leaves its vertex. -/
def engineFree (s : State) (e : EngineId) : State :=
  setEngine s e { engineSt s e with serving := none }

/-- A read of the vertex at an SHC port has missed and its line has not come, so that the
engine's pipeline stands still (R101, R145, R173, R187). -/
def missWaits (s : State) (v : VertexRef) : Bool :=
  s.shc.misses.any (fun m => m.2.who == .vertex v)

/-- The vertex that holds an engine. -/
def servingVx (s : State) (e : EngineId) : Option Vx :=
  match (engineSt s e).serving with
  | some v => liveVx s v
  | none => none

/-- The vertex that an engine serves, if it may go on. (DEDUCED, safe: log entry 46.) -/
def servedVx (s : State) (e : EngineId) : Option Vx :=
  match (engineSt s e).serving with
  | some v => if missWaits s v then none else liveVx s v
  | none => none

/-- KIND and number of an engine. -/
def engineKind : EngineId → Nat × Nat
  | .fe n => (kFacet, n.val)
  | .she n => (kShepherd, n.val)
  | .srt n => (kSort, n.val)
  | .agg n => (kAgg, n.val)
  | .cze n => (kCze, n.val)

/-- An engine as a unit of the power controller. -/
def engineUnit : EngineId → UnitId
  | .fe n => .fe n
  | .she n => .she n
  | .srt n => .srt n
  | .agg n => .agg n
  | .cze n => .cze n

/-- The weight of a kennel at an engine (R399). -/
def engineWeight (sh : Bytes) (kind : Nat) : Nat :=
  if kind = kFacet then le sh 28 1 else if kind = kShepherd then le sh 29 1
  else if kind = kSort then le sh 30 1 else if kind = kAgg then le sh 31 1 else le sh 32 1

end Sys2Proof.Machine
end

