-- ==== Sys2Proof/Machine/JobStart.lean ====
section
/-! DEFINITION. Starting a job (R26, R27, R81, R103 to R107): the slots it needs,
the checks of its entry, and its state at the start. -/

namespace Sys2Proof.Machine

open Sys2Proof

def eJobPlan : Nat := 0x0420
def eJobMode : Nat := 0x0421
def eJobRange : Nat := 0x0422
def eJobEpoch : Nat := 0x0423
def eJobSpill : Nat := 0x0424
def eJobHostbuf : Nat := 0x0425
def eJobSeq : Nat := 0x0426
def eJobTimeout : Nat := 0x0427

/-! ### The entry (R103): offsets count from its header -/

def jePlan (e : Bytes) : Nat := le e 16 2
def jeMode (e : Bytes) : Nat := le e 18 1
def jeFlags (e : Bytes) : Nat := le e 19 1
def jeTimeout (e : Bytes) : Nat := le e 20 4
def jeBuf (e : Bytes) : Nat := le e 24 8
def jeLen (e : Bytes) : Nat := le e 32 4
def jeFirst (e : Bytes) : Nat := le e 36 6
def jeNRange (e : Bytes) : Nat := le e 36 2
def jeNEpoch (e : Bytes) : Nat := le e 44 4

/-- Range record `i` (R104). -/
def jeRange (e : Bytes) (i : Nat) : Bytes := slice e (48 + 24 * i) 24

/-- The range records of one SRC_TS vertex, in order: table space, offset, length. -/
def jeRanges (e : Bytes) (vid : Nat) : List (Nat × Nat × Nat) :=
  (List.range (jeNRange e)).filterMap (fun i =>
    let r := jeRange e i
    if le r 0 2 = vid then some (le r 2 2, le r 8 8, le r 16 8) else none)

/-! ### Slots (R26, R27, R105) -/

/-- Jobs in flight, of a kennel and of a plan. -/
def jobsOf (s : State) (k : Nat) : Nat := s.jobs.countP (fun b => b.2.kennel == k)
def jobsOfPlan (s : State) (k h : Nat) : Nat :=
  s.jobs.countP (fun b => b.2.kennel == k && b.2.plan == h)

/-- JOB_LIMIT and TILE_LIMIT of a share (R399). -/
def jobLimit (x : Kennel) : Nat := le x.share 12 2
def tileLimit (x : Kennel) : Nat := le x.share 14 2

/-- Tile slots of EXTRA_TILES that a vertex of a job has in use (R96): the open output tile
of a port (R138, R144), held GATE tiles (R161), input buffers (R233), and the tile that a
CZE or DGE vertex keeps (R313, R333). -/
def innerTiles (s : State) (j : Nat) (v : Vertex) (x : VertSt) : Nat :=
  match x.eng with
  | .build b => b.outs.countP (fun o => !o.2.isEmpty)
  | .join w => b2n (!w.outRows.isEmpty)
  | .facet f => f.gate.countP (fun g => match g.item with | .tile _ => true | .skip _ => false)
  | .cze z => b2n z.held.isSome
  | .dge t => b2n (!t.isEmpty)
  | _ =>
    if v.kind = kHound then
      sumOf v.units (fun h => if (hound s h).job = some j then (hound s h).inbufs.length else 0)
    else 0

/-- Tile slots that a job holds: those of every edge but the ingest edges, and those inside
its vertices (R27, R96). -/
def jobTiles (s : State) (j : Nat) (p : Plan) (b : Job) : Nat :=
  sumOf (p.edges.zip b.edges) (fun (e, g) =>
    if ((p.verts[e.src]?).map (·.kind)).getD 0 = kSrcIngest then 0 else g.slots.length) +
  sumOf (p.verts.zip b.verts) (fun (v, x) => innerTiles s j v x)

/-- Tile slots in use in a kennel, and on the device (R27). -/
def kennelTiles (s : State) (k : Nat) : Nat :=
  sumOf s.jobs (fun (j, b) =>
    if b.kennel = k then ((jobPlan s b).map (fun p => jobTiles s j p b)).getD 0 else 0)
def deviceTiles (s : State) : Nat :=
  sumOf s.jobs (fun (j, b) => ((jobPlan s b).map (fun p => jobTiles s j p b)).getD 0)

/-- Whether a waiting requester of a kennel could be given a slot now. -/
def slotFor (s : State) (kind : SlotKind) (k : Nat) : Bool :=
  match kind, kennel? s k with
  | .job, some x =>
    s.jobs.length + s.slots.jobGrant.length < 1024 &&
    jobsOf s k + s.slots.jobGrant.countP (fun g => g.kennel == k) < jobLimit x
  | .tile, some x =>
    deviceTiles s + s.slots.tileGrant.length < 16384 &&
    kennelTiles s k + s.slots.tileGrant.countP (fun g => g.kennel == k) < tileLimit x
  | _, none => false

/-- A requester may take a slot without waiting: it has been granted one, or no other that
waits could be given one (R29). -/
def slotTurn (s : State) (kind : SlotKind) (mine : SlotReq → Bool) : Bool :=
  let (waits, grants) := match kind with
    | .job => (s.slots.jobWait, s.slots.jobGrant)
    | .tile => (s.slots.tileWait, s.slots.tileGrant)
  grants.any mine || waits.all (fun g => mine g || !slotFor s kind g.kennel)

/-- A job slot is free for the WQ: slots granted to others are not, and it passes no other
requester (R29). -/
def jobSlotFree (s : State) (k w h : Nat) : Bool :=
  match kennel? s k with
  | none => false
  | some x =>
    let mine := fun (g : SlotReq) => g.kennel == k && g.a == w
    let held := s.slots.jobGrant.filter (fun g => !mine g)
    slotTurn s .job mine &&
    s.jobs.length + held.length < 1024 &&
    jobsOf s k + (held.filter (fun g => g.kennel == k)).length < jobLimit x &&
    (match tfind? x.plans h with
     | some p => jobsOfPlan s k h < p.maxJobs
     | none => true)

/-! ### The checks of R105 -/

/-- The current epoch number. -/
def curEpoch (s : State) : Nat := s.timing.epoch

/-- How far epoch `e` lies behind the current one (R50). -/
def behind (s : State) (e : Nat) : Int := signedDiff 48 (curEpoch s) e

/-- EP_ACCEPT.BEHIND and AHEAD. -/
def acceptBehind (s : State) : Nat := regField s 0x30028 8 8
def acceptAhead (s : State) : Nat := regField s 0x30028 0 4

/-- Two runs of epochs share one. -/
def epochsMeet (a na b nb : Nat) : Bool :=
  (b + 2 ^ 48 - a) % 2 ^ 48 < na || (a + 2 ^ 48 - b) % 2 ^ 48 < nb

/-- The job covers epoch `e`. -/
def jobCovers (b : Job) (e : Nat) : Bool :=
  (e + 2 ^ 48 - jeFirst b.entry) % 2 ^ 48 < jeNEpoch b.entry

/-- Bytes of a batch JOB_START entry. -/
def jeBatchLen (e : Bytes) : Nat := alignUp (48 + 24 * jeNRange e) 16

/-- The second check of R105: MODE and the entry's fields. (DEDUCED, safe: log entry 84.) -/
def jobFieldsOk (p : Plan) (e : Bytes) : Bool :=
  jeMode e == p.mode && jeFlags e < 2 && zeroes e 42 2 &&
  (if p.mode = 0 then
     1 ≤ jeNRange e && jeNRange e ≤ 168 && zeroes e 38 4 && jeNEpoch e == 0 &&
     e.length == jeBatchLen e && zeroes e (48 + 24 * jeNRange e) 8 &&
     (List.range (jeNRange e)).all (fun i => zeroes (jeRange e i) 4 4)
   else 1 ≤ jeNEpoch e && e.length == 48) &&
  (jeFlags e == 0 || jeTimeout e != 0) &&
  (!p.verts.any (fun v => v.kind == kSinkHost) || jeBuf e % 4096 == 0)

/-- The third check: every range lies in a table space of the kennel, and every
SRC_TS vertex is named (R104). -/
def jobRangesOk (s : State) (k : Nat) (p : Plan) (e : Bytes) : Bool :=
  p.mode != 0 ||
  ((List.range (jeNRange e)).all (fun i =>
    let r := jeRange e i
    ((p.verts[le r 0 2]?).map (·.kind)) == some kSrcTs &&
    le r 8 8 % 64 == 0 && le r 16 8 % 64 == 0 && 64 ≤ le r 16 8 &&
    inSpace s k (le r 2 2) (le r 8 8) (le r 16 8)) &&
  (p.verts.zip (List.range p.verts.length)).all (fun (v, i) =>
    v.kind != kSrcTs || !(jeRanges e i).isEmpty))

/-- The fourth check: the epochs. -/
def jobEpochsOk (s : State) (k : Nat) (p : Plan) (e : Bytes) : Bool :=
  p.mode == 0 ||
  (!s.jobs.any (fun (_, b) => b.kennel == k && b.plan == p.handle &&
      epochsMeet (jeFirst e) (jeNEpoch e) (jeFirst b.entry) (jeNEpoch b.entry)) &&
   behind s ((jeFirst e + jeNEpoch e - 1) % 2 ^ 48) ≤ acceptBehind s)

/-- The first sink that one of the last two checks refuses. -/
def jobSinkFault (s : State) (k : Nat) (p : Plan) (e : Bytes) : Option (Nat × Nat) :=
  let vs := p.verts.zip (List.range p.verts.length)
  match vs.find? (fun (v, _) =>
    v.kind == kSinkHost && jeLen e < le v.cfg 4 4 + le v.cfg 8 4) with
  | some (_, i) => some (eJobHostbuf, i)
  | none =>
    (vs.find? (fun (v, _) =>
      v.kind == kSinkTs && !inSpace s k (le v.cfg 2 2) (le v.cfg 8 8) (le v.cfg 16 8))).map
      (fun (_, i) => (eJobRange, i))

/-- The first check of R105 that the entry fails: status and VID. -/
def jobFault (s : State) (k : Nat) (e : Bytes) : Option (Nat × Nat) :=
  match plan? s k (jePlan e) with
  | none => some (eJobPlan, 0xFFFF)
  | some p =>
    if !jobFieldsOk p e then some (eJobMode, 0xFFFF)
    else if !jobRangesOk s k p e then some (eJobRange, 0xFFFF)
    else if !jobEpochsOk s k p e then some (eJobEpoch, 0xFFFF)
    else jobSinkFault s k p e

/-! ### The state at the start -/

/-- Epochs of a job that have expired at a vertex with CLOSE_AFTER `after`, as a run
counted from the job's first epoch (R131). -/
def expired (s : State) (first n after : Nat) : Option (Nat × Nat) :=
  let a := (curEpoch s + 2 * 2 ^ 48 - first - after - 1) % 2 ^ 48
  let span := 2 ^ 47 - 2 - after
  if a ≤ span then (if n = 0 then none else some (0, min a (n - 1)))
  else if a - span < n then some (a - span, min a (n - 1))
  else none

/-- Adds a run to those of the closed epochs. -/
def addRun (runs : List (Nat × Nat)) (r : Nat × Nat) : List (Nat × Nat) :=
  if runs.any (fun q => q.1 ≤ r.1 && r.2 ≤ q.2) then runs
  else runs.filter (fun q => !(r.1 ≤ q.1 && q.2 ≤ r.2)) ++ [r]

/-- MODE and CLOSE_AFTER of a SHEPHERD record (R138). -/
def sheMode (cfg : Bytes) : Nat := le cfg 0 1
def sheCloseAfter (cfg : Bytes) : Nat := le cfg 24 1 % 16

/-- Engine state at the start of a job. -/
def startEng (s : State) (e : Bytes) (v : Vertex) (early : List Frag) : EngSt :=
  if v.kind = kSrcIngest then .ingest { early }
  else if v.kind = kSrcTs then .ts {}
  else if v.kind = kShepherd then
    if sheMode v.cfg = 1 then
      .build { closed := (expired s (jeFirst e) (jeNEpoch e) (sheCloseAfter v.cfg)).toList }
    else .join {}
  else if v.kind = kFacet then .facet {}
  else if v.kind = kSort then .sort {}
  else if v.kind = kAgg then .agg {}
  else if v.kind = kCze then .cze {}
  else if v.kind = kDge then .dge []
  else if isSink v.kind then .sink {}
  else if v.kind = kExch then .exch {}
  else .none

/-- EPOCH of a fragment (R37). -/
def fragEpoch (f : Frag) : Nat := be f.bytes 6 6

/-- The blocks of a pool without the fragments that `drop` names; empty blocks go. -/
def poolWithout (drop : Frag → Bool) (bs : List (List Frag)) : List (List Frag) :=
  (bs.map (fun b => b.filter (fun f => !drop f))).filter (fun b => !b.isEmpty)

/-- The job that an accepted JOB_START begins. -/
def newJob (s : State) (k w seq : Nat) (e : Bytes) (p : Plan) : Job :=
  let covered := fun (f : Frag) => p.mode == 1 && (fragEpoch f + 2 ^ 48 - jeFirst e) % 2 ^ 48 < jeNEpoch e
  { kennel := k, wq := w, seq, plan := p.handle, entry := e,
    edges := p.edges.map (fun g => { queues := g.dsts.map (fun _ => []) }),
    verts := (p.verts.zip (List.range p.verts.length)).map (fun (v, i) =>
      { eng := startEng s e v (((tget p.pool i []).flatten).filter covered) }) }

/-- The job slot of an accepted JOB_START is taken: the job's number is the old
`nextJob`. -/
def takeJobSlot (s : State) (k w : Nat) : State :=
  { s with
    nextJob := s.nextJob + 1,
    slots := { s.slots with
      jobArb := s.slots.jobArb.won [] k,
      jobGrant := s.slots.jobGrant.filter (fun g => !(g.kennel == k && g.a == w)),
      jobWait := s.slots.jobWait.filter (fun g => !(g.kennel == k && g.a == w)) } }

/-- An accepted job that fails a check completes at once (R105). -/
def refuseJob (s : State) (k w seq : Nat) (e : Bytes) (status vid : Nat) : State :=
  let j := s.nextJob
  let s := takeJobSlot s k w
  let b : Job := { kennel := k, wq := w, seq, plan := jePlan e, entry := e, retired := true }
  let s := modPlan { s with jobs := tset s.jobs j b } k (jePlan e) (fun p => { p with
    lastStatus := status, lastVid := vid, lastTag := jobTag b, details := [0, 0, 0, 0] })
  completeEntry s k w seq status vid 0 0 (some j)

/-- Starts a job from an accepted JOB_START that has passed its checks: it takes the
fragments that wait for its epochs (R107). -/
def startJob (s : State) (k w seq : Nat) (e : Bytes) (p : Plan) : State :=
  let b := newJob s k w seq e p
  let j := s.nextJob
  let s := takeJobSlot s k w
  modPlan { s with jobs := tset s.jobs j b } k p.handle (fun p => { p with
    pool := p.pool.map (fun (i, bs) =>
      (i, poolWithout (fun f => p.mode == 1 && jobCovers b (fragEpoch f)) bs)) })

end Sys2Proof.Machine
end

