-- ==== Sys2Proof/Machine/IngestOps.lean ====
section
/-! DEFINITION. Ingest as its commands share it (R31 to R45, R97, R107, R122 to
R125): fragments, the checks of R34, the FIFO and its flow control, quarantine, and
fragment blocks. -/

namespace Sys2Proof.Machine

open Sys2Proof

def eRfxLength : Nat := 0x0201
def eRfxVersion : Nat := 0x0202
def eRfxType : Nat := 0x0203
def eRfxReserved : Nat := 0x0204
def eRfxEpoch : Nat := 0x0205
def eRfxSource : Nat := 0x0206

/-! ### The RFX header (R37) -/

def rfxKennel (b : Bytes) : Nat := be b 2 1
def rfxType (b : Bytes) : Nat := be b 3 1
def rfxSource (b : Bytes) : Nat := be b 4 2 % 16384
def rfxEpoch (b : Bytes) : Nat := be b 6 6
def rfxEvent (b : Bytes) : Nat := be b 12 4
def rfxLength (b : Bytes) : Nat := be b 16 2
def rfxSeq (b : Bytes) : Nat := be b 18 2
def rfxToffset (b : Bytes) : Nat := be b 20 4 % 2 ^ 24

/-- HCRC is right. -/
def rfxCrcOk (b : Bytes) : Bool := crc32c (b.take 28) == be b 28 4

/-- The reserved header bits are 0. -/
def rfxReservedOk (b : Bytes) : Bool :=
  be b 1 1 % 32 == 0 && be b 4 2 < 16384 && be b 20 1 == 0 && be b 24 4 == 0

/-! ### Groups, ports and counters (R31, R61) -/

def ingCfg (s : State) (g : Nat) : Nat := regVal s (0x20000 + 0x1000 * g)

/-- ING_GCFG.MODE and PAUSE. -/
def ingMode (s : State) (g : Nat) : Nat := field (ingCfg s g) 0 3
def ingPause (s : State) (g : Nat) : Nat := field (ingCfg s g) 8 2

/-- Ports of a group, and lanes of a port, in a mode. -/
def modePorts (mode : Nat) : Nat := match mode with | 1 => 1 | 2 => 2 | 3 | 4 => 4 | _ => 0
def modeLanes (mode : Nat) : Nat := match mode with | 1 => 4 | 2 => 2 | _ => 1

/-- Counter `i` of a group; ING_OVF and ING_QDROP raise the group's source (R518). -/
def ingCnt (s : State) (g i : Nat) : State :=
  let s := cnt s (0x20100 + 0x1000 * g + 4 * i) 1
  if i = 16 ∨ i = 18 then raiseEvent s (5 + g) else s

def ingPort (s : State) (g p : Nat) : PortSt := (((s.groups[g]?).getD {}).ports[p]?).getD {}

def modGroup (s : State) (g : Nat) (f : GroupSt → GroupSt) : State :=
  { s with groups := lmod s.groups g f }

def modPort (s : State) (g p : Nat) (f : PortSt → PortSt) : State :=
  modGroup s g (fun x => { x with ports := lmod x.ports p f })

/-- The port exists in the group's mode, in an Ethernet mode or in RAWLINK. -/
def isEth (s : State) (g p : Nat) : Bool := ingMode s g != 4 && p < modePorts (ingMode s g)
def isRaw (s : State) (g : Nat) : Bool := ingMode s g == 4

/-! ### Quarantine (R44, R45, R454) -/

/-- The quarantine record of a fragment, and its bytes, padded. -/
def quarEntry (status : Nat) (f : Frag) : Bytes :=
  padTo 32 (toLe 2 status ++ toLe 1 f.port ++ toLe 1 f.link ++ toLe 4 f.bytes.length ++
    toLe 8 f.tick ++ zeros 16 ++ f.bytes)

/-- Writes a fragment to the column of a kennel, or discards it whole. -/
def quarantine (s : State) (k status : Nat) (f : Frag) : State :=
  let g := f.port / 64
  let e := quarEntry status f
  match (kennel? s k).bind (·.quar) with
  | none => ingCnt s g 18
  | some q =>
    match ownSpace s k q.tspace with
    | none => ingCnt s g 18
    | some t =>
      if q.used + e.length ≤ q.length then
        let s := tsWrite s t (q.offset + q.used) e
        ingCnt (modKennel s k (fun x => { x with
          quar := some { q with used := q.used + e.length, entries := q.entries + 1 } })) g 17
      else ingCnt s g 18

/-! ### The FIFO and flow control (R36, R43) -/

/-- Bytes of the port's share of the group FIFO, and of one class of it.
(DEDUCED, unsafe: log entry 13.) -/
def fifoShare (s : State) (g : Nat) : Nat :=
  let whole := 1048576 / max 1 (modePorts (ingMode s g))
  if ingPause s g = 2 && ingMode s g != 4 then whole / 8 else whole

/-- Bytes that a class of a port holds. -/
def fifoLevel (q : PortSt) (cls : Nat) : Nat :=
  sumOf q.fifo (fun e => if e.1 = cls then e.2.bytes.length else 0)

/-- The port carries flow control at all. -/
def flowUsed (s : State) (g : Nat) : Bool := ingMode s g == 4 || ingPause s g == 1 || ingPause s g == 2

/-- The bytes of a RawLink control block that the device sends (R40). -/
def rlSent (type : Nat) : Bytes := toLe 1 type ++ zeros 7
def rlXoff : Nat := 0x96
def rlXon : Nat := 0x69

/-- Flow control goes out on a port: an XOFF or XON block on a RawLink lane, else a pause of
the class (R40, R43). -/
def sendFlow (s : State) (g p cls : Nat) (on : Bool) : State :=
  emit s (if ingMode s g = 4 then .rawCtl g p (rlSent (if on then rlXoff else rlXon))
    else .flow g p cls on)

/-- Asserts at half full, releases below one quarter. -/
def updateFlow (s : State) (g p cls : Nat) : State :=
  let q := ingPort s g p
  let level := fifoLevel q cls
  let share := fifoShare s g
  if !flowUsed s g then s
  else if !q.asserted.contains cls && share ≤ 2 * level then
    sendFlow (modPort s g p (fun q => { q with asserted := q.asserted ++ [cls] })) g p cls true
  else if q.asserted.contains cls && 4 * level < share then
    sendFlow (modPort s g p (fun q => { q with asserted := q.asserted.filter (· != cls) })) g p cls false
  else s

/-- A fragment enters the FIFO, or finds no space there. -/
def fifoPut (s : State) (g p cls : Nat) (f : Frag) : State :=
  if fifoLevel (ingPort s g p) cls + f.bytes.length ≤ fifoShare s g then
    updateFlow (modPort s g p (fun q => { q with fifo := q.fifo ++ [(cls, f)] })) g p cls
  else ingCnt s g 16

/-! ### Checks 10 to 17 (R34) -/

/-- A binding of a loaded plan that takes a source from a port group (R97): the
plan's handle and the SRC_INGEST vertex. -/
def bindingOf (s : State) (k g source : Nat) : Option (Nat × Nat) :=
  match kennel? s k with
  | none => none
  | some x => x.plans.findSome? (fun (h, p) =>
      (p.binds.find? (fun b => b.first ≤ source && source ≤ b.last && bitAt b.groups g)).map
        (fun b => (h, b.vid)))

/-- ING_KPERMIT of a kennel. -/
def kPermitted (s : State) (g k : Nat) : Bool :=
  bitAt (regVal s (0x20040 + 0x1000 * g + 8 * (k / 64))) (k % 64)

/-- The epoch is in the accepted range (R50). -/
def epochAccepted (s : State) (e : Nat) : Bool :=
  let d := signedDiff 48 e (curEpoch s)
  decide (0 ≤ d + acceptBehind s) && decide (d ≤ acceptAhead s)

/-- The first of checks 12 to 17 that a fragment fails. -/
def rfxFault (s : State) (g : Nat) (b : Bytes) : Option Nat :=
  let type := rfxType b
  if be b 0 1 != 0x14 then some eRfxVersion
  else if rfxLength b != b.length then some eRfxLength
  else if !(1 ≤ type && type ≤ 3) || (type != 1 && rfxLength b != 32) then some eRfxType
  else if !rfxReservedOk b then some eRfxReserved
  else if bitAt (regVal s 0x30000) 9 && !epochAccepted s (rfxEpoch b) then some eRfxEpoch
  else if (bindingOf s (rfxKennel b) g (rfxSource b)).isNone then some eRfxSource
  else none

/-- Checks 10 to 17 on the RFX bytes received (R34). A fragment that names a kennel that
does not exist has no effect (R396). (DESIGN CHOICE, unsafe: log entry 115.) -/
def rfxReceive (s : State) (g p cls link : Nat) (b : Bytes) : State :=
  let k := rfxKennel b
  if !rfxCrcOk b then ingCnt s g 9
  else if !kPermitted s g k then ingCnt s g 10
  else if (kennel? s k).isNone then s
  else
    let f : Frag := { port := 64 * g + 16 * (p * modeLanes (ingMode s g)), link,
                      tick := s.timing.tick, bytes := b }
    match rfxFault s g b with
    | some status => quarantine s k status f
    | none => fifoPut s g p cls f

/-! ### Checks 1 to 9 (R33, R34) -/

/-- The 16-bit words of a byte string, most significant byte first, summed. -/
def sumWords (b : Bytes) : Nat :=
  match b with
  | [] => 0
  | [x] => 256 * x.toNat
  | x :: y :: r => 256 * x.toNat + y.toNat + sumWords r

/-- The one's complement sum of 16-bit words. -/
def onesSum (n : Nat) : Nat := if n = 0 then 0 else (n - 1) % 65535 + 1

/-- What the IP part of a frame turns out to be. -/
inductive IpView where
  | bad
  | fragment
  | udp (v6 : Bool) (pseudo : Nat) (dgram : Bytes)

/-- Check 5, and what check 6 asks: `b` holds the bytes after the EtherType, up to
the FCS. -/
def ipView (v6 : Bool) (b : Bytes) : IpView :=
  if v6 then
    let plen := be b 4 2
    let next := be b 6 1
    if b.length < 40 || be b 0 1 / 16 != 6 || 40 + plen > b.length then .bad
    else if next = 44 then .fragment
    else if next != 17 then .bad
    else if plen < 8 || be b 44 2 != plen then .bad
    else .udp true (sumWords (slice b 8 32) + plen + 17) (slice b 40 plen)
  else
    let total := be b 2 2
    if b.length < 20 || be b 0 1 != 0x45 || onesSum (sumWords (b.take 20)) != 65535 ||
        be b 9 1 != 17 || total < 20 || total > b.length then .bad
    else if be b 6 2 % 16384 != 0 then .fragment
    else if total < 28 || be b 24 2 != total - 20 then .bad
    else .udp false (sumWords (slice b 12 8) + (total - 20) + 17) (slice b 20 (total - 20))

/-- The UDP checksum is right, or a zero that is accepted (R33). -/
def udpSumOk (v6 zeroOk : Bool) (pseudo : Nat) (d : Bytes) : Bool :=
  if be d 6 2 = 0 then !v6 || zeroOk else onesSum (pseudo + sumWords d) == 65535

/-- The checks on an Ethernet frame, FCS included, in order (R34). -/
def ethReceive (s : State) (g p : Nat) (frame : Bytes) (fecBad : Bool) : State :=
  let n := frame.length
  let mac := regVal s (0x20010 + 0x1000 * g + 8 * p)
  let tagged := be frame 12 2 == 0x8100
  let at' := if tagged then 16 else 12
  let etype := be frame at' 2
  let cls := if ingPause s g = 2 && tagged then be frame 14 1 / 32 else 0
  if fecBad || n < 64 || crc32 (frame.take (n - 4)) != le frame (n - 4) 4 then ingCnt s g 0
  else if n > 9216 then ingCnt s g 1
  else if slice frame 0 6 != toLe 6 mac || be frame 0 1 % 2 = 1 then ingCnt s g 2
  else if etype != 0x0800 && etype != 0x86DD then ingCnt s g 3
  else
    match ipView (etype == 0x86DD) ((frame.take (n - 4)).drop (at' + 2)) with
    | .bad => ingCnt s g 4
    | .fragment => ingCnt s g 5
    | .udp v6 pseudo d =>
      if be d 2 2 != field (ingCfg s g) 16 16 then ingCnt s g 6
      else if !udpSumOk v6 (bitAt (ingCfg s g) 11) pseudo d then ingCnt s g 7
      else if d.length < 40 then ingCnt s g 8
      else rfxReceive s g p cls 0 (d.drop 8)

/-! ### Fragment blocks (R94, R122 to R125) -/

/-- A fragment's record in a block, with its SEQ_GAP (R122). -/
def recordOf (r : Nat × Frag) : Bytes :=
  padTo 16 (toLe 2 r.2.bytes.length ++ toLe 1 r.2.port ++ toLe 1 (2 * r.1 + r.2.link) ++ zeros 4 ++
    toLe 8 r.2.tick ++ r.2.bytes)

/-- The bytes of a fragment block: its header and its records (R122). -/
def fragBlock (frags : List (Nat × Frag)) : Bytes :=
  let recs := frags.flatMap recordOf
  toLe 1 1 ++ zeros 1 ++ toLe 2 frags.length ++ toLe 4 (64 + recs.length) ++ zeros 56 ++ recs

/-- The records of a block from an offset on. -/
def recordsAt (b : Bytes) : Nat → Nat → List (Nat × Frag)
  | 0, _ => []
  | n + 1, off =>
    let len := le b off 2
    let flags := le b (off + 3) 1
    (field flags 1 1,
      { port := le b (off + 2) 1, link := flags % 2, tick := le b (off + 8) 8,
        bytes := slice b (off + 16) len }) :: recordsAt b n (off + alignUp (16 + len) 16)

/-- The fragments of a block, each with its SEQ_GAP. -/
def blockFrags (b : Bytes) : List (Nat × Frag) := recordsAt b (le b 2 2) 64

/-- Bytes of a fragment's record in a block. -/
def recordBytes (f : Frag) : Nat := alignUp (16 + f.bytes.length) 16

/-- The record fits in a block behind those it holds. -/
def blockFits {α : Type} (tileBytes : Nat) (frag : α → Frag) (b : List α) (f : Frag) : Bool :=
  64 + sumOf b (fun x => recordBytes (frag x)) + recordBytes f ≤ tileBytes

/-- The state that an SRC_INGEST vertex keeps. -/
def ingestOf (v : VertSt) : IngestSrc := match v.eng with | .ingest i => i | _ => {}

/-- Changes the state of an SRC_INGEST vertex. -/
def modIngest (s : State) (j vid : Nat) (f : IngestSrc → IngestSrc) : State :=
  modVert s j vid (fun v => { v with eng := .ingest (f (ingestOf v)) })

/-- The open block of a destination: 0 stands for all under COPY. -/
def openBlock? (s : State) (j vid key : Nat) : Option OpenBlock :=
  ((job? s j).bind (fun b => b.verts[vid]?)).bind (fun v => tfind? (ingestOf v).opens key)

/-- Publishes the open block of a destination. -/
def publishBlock (s : State) (j vid e : Nat) (deal : Bool) (key : Nat) : State :=
  match openBlock? s j vid key with
  | none => s
  | some o =>
    let s := modIngest s j vid (fun i => { i with opens := tdel i.opens key })
    modEdge s j e (fun g => { g with queues := g.queues.mapIdx (fun i q =>
      if deal && i != key then q else q ++ [.block o.slot (fragBlock o.frags)]) })

/-- The destinations of a fragment on an ingest edge (R125). -/
def fragDests (e : Edge) (f : Frag) : List Nat :=
  if !eDeal e then [0]
  else if rfxType f.bytes = 1 then [rfxEvent f.bytes % max 1 e.dsts.length]
  else List.range e.dsts.length

/-- Adds a fragment to the open block of a destination, opening one where there is
none. -/
def blockAdd (s : State) (j vid eid : Nat) (e : Edge) (gap : Nat) (f : Frag) (key : Nat) : State :=
  match openBlock? s j vid key with
  | some o =>
    modIngest s j vid (fun i => { i with
      opens := tset i.opens key { o with frags := o.frags ++ [(gap, f)] } })
  | none =>
    match (job? s j).bind (fun b => b.edges[eid]?) with
    | none => s
    | some g =>
      let slot := g.nextSlot + 1
      let s := modEdge s j eid (fun g => { g with
        nextSlot := slot,
        slots := g.slots ++ [(slot, if eDeal e then 1 else e.dsts.length)] })
      modIngest s j vid (fun i => { i with
        opens := tset i.opens key { slot, first := s.fclk, frags := [(gap, f)] } })

/-- An SRC_INGEST vertex takes a fragment: blocks that it does not fit are published;
it is taken if a credit is free for each block that must be opened. -/
def ingestPut (s : State) (j vid : Nat) (f : Frag) : State × Bool :=
  match vx? s { job := j, vid } with
  | none => (s, false)
  | some x =>
    match outEdge? x.plan vid 0 with
    | none => (s, false)
    | some (eid, e) =>
      let keys := fragDests e f
      let full := fun (s : State) (key : Nat) =>
        (openBlock? s j vid key).any (fun o => !blockFits e.tileBytes (·.2) o.frags f)
      let s := keys.foldl (fun s key =>
        if full s key then publishBlock s j vid eid (eDeal e) key else s) s
      let i := (((job? s j).bind (fun b => b.verts[vid]?)).map ingestOf).getD {}
      let used := (((job? s j).bind (fun b => b.edges[eid]?)).map (·.slots.length)).getD 0
      let need := (keys.filter (fun key => (tfind? i.opens key).isNone)).length
      if e.credits < used + need then (s, false)
      else
        let src := rfxSource f.bytes
        let gap := match tfind? i.lastSeq src with
          | some q => b2n (rfxSeq f.bytes != (q + 1) % 65536)
          | none => 0
        let s := keys.foldl (fun s key => blockAdd s j vid eid e gap f key) s
        (modIngest s j vid (fun i => { i with lastSeq := tset i.lastSeq src (rfxSeq f.bytes) }), true)

/-- Takes the fragments that waited for the job, as far as credits go (R107). -/
def drainEarly (j vid : Nat) : Nat → State → State
  | 0, s => s
  | n + 1, s =>
    match ((job? s j).bind (fun b => b.verts[vid]?)).map (fun v => (ingestOf v).early) with
    | some (f :: _) =>
      let (s, taken) := ingestPut s j vid f
      if taken then drainEarly j vid n (modIngest s j vid (fun i => { i with early := i.early.drop 1 }))
      else s
    | _ => s

/-- Takes what waited for a job at an SRC_INGEST vertex. -/
def takeEarly (s : State) (x : Vx) : State :=
  drainEarly x.j x.vid (ingestOf x.st).early.length s

/-- Publishes each open block of an SRC_INGEST vertex that `due` names. -/
def publishBlocks (s : State) (x : Vx) (due : OpenBlock → Bool) : State :=
  match outEdge? x.plan x.vid 0 with
  | none => s
  | some (eid, e) =>
    match (job? s x.j).bind (fun b => b.verts[x.vid]?) with
    | none => s
    | some v => (((ingestOf v).opens.filter (fun o => due o.2)).map (·.1)).foldl (fun s key =>
        publishBlock s x.j x.vid eid (eDeal e) key) s

/-- The FCLK tick at which a block goes out though it is not full (R123). -/
def blockDue (o : OpenBlock) : Nat := o.first + 256

/-! ### Fragments that wait for a job (R107) -/

/-- Puts a fragment with those that wait at a vertex of a plan, if it has room. -/
def poolPut (s : State) (k h vid : Nat) (f : Frag) : Option State :=
  match plan? s k h with
  | none => none
  | some p =>
    match outEdge? p vid 0 with
    | none => none
    | some (_, e) =>
      let bs := tget p.pool vid []
      let room := match bs.getLast? with
        | some b => blockFits e.tileBytes id b f
        | none => false
      let put := fun (bs : List (List Frag)) =>
        modPlan s k h (fun p => { p with pool := tset p.pool vid bs })
      if room then some (put (bs.dropLast ++ [(bs.getLast?).getD [] ++ [f]]))
      else if bs.length < e.credits then some (put (bs ++ [[f]]))
      else none

/-- Adds to the NOJOB count of a plan. -/
def addNojob (s : State) (k h n : Nat) : State :=
  if n = 0 then s else modPlan s k h (fun p => { p with nojob := p.nojob + n })

/-- The waiting fragment is too old, and no job in flight of the plan covers it. -/
def nojobStale (s : State) (k h : Nat) (f : Frag) : Bool :=
  (acceptBehind s : Int) < behind s (fragEpoch f) &&
  !s.jobs.any (fun (_, b) => b.kennel == k && b.plan == h && jobCovers b (fragEpoch f))

/-- The sweep of waiting fragments at an epoch boundary (R107). -/
def sweepNojob (s : State) : State :=
  { s with kennels := s.kennels.map (fun (k, x) => (k, { x with plans := x.plans.map (fun (h, p) =>
      let old := sumOf p.pool (fun (_, bs) => bs.flatten.countP (nojobStale s k h))
      (h, { p with
        pool := p.pool.map (fun (v, bs) => (v, poolWithout (nojobStale s k h) bs)),
        nojob := p.nojob + old })) })) }

/-- Discards the waiting fragments of a kennel (R408). -/
def dropPools (s : State) (k : Nat) : State :=
  modKennel s k (fun x => { x with plans := x.plans.map (fun (h, p) =>
    (h, { p with nojob := p.nojob + sumOf p.pool (fun (_, bs) => bs.flatten.length), pool := [] })) })

/-- The job in flight that takes a fragment of an epoch at a vertex of a plan. -/
def jobTaking (s : State) (k h vid epoch : Nat) : Option Nat :=
  (s.jobs.find? (fun (_, b) => b.kennel == k && b.plan == h && jobLive b && jobCovers b epoch &&
    ((b.verts[vid]?).map (fun v => !v.endSent && !v.stopped)).getD false)).map (·.1)

/-- A mover writes a fragment on (R43, R107); `false` where it must wait. -/
def forwardFrag (s : State) (g : Nat) (f : Frag) : State × Bool :=
  let k := rfxKennel f.bytes
  match kennel? s k, bindingOf s k g (rfxSource f.bytes) with
  | some x, some (h, vid) =>
    if x.state = 3 then (addNojob s k h 1, true)
    else
      match jobTaking s k h vid (fragEpoch f) with
      | some j =>
        match vx? s { job := j, vid } with
        | none => (s, false)
        | some v =>
          let s := takeEarly s v
          if ((job? s j).bind (fun b => b.verts[vid]?)).any (fun v => !(ingestOf v).early.isEmpty)
          then (s, false)
          else ingestPut s j vid f
      | none =>
        match poolPut s k h vid f with
        | some s => (s, true)
        | none => (s, false)
  | _, _ => (s, true)

end Sys2Proof.Machine
end

