-- ==== Sys2Proof/Machine/SheOps.lean ====
section
/-! DEFINITION. Event building in a Shepherd (R126 to R138, R560): keeping
fragments, closing events and epochs, event tiles and the event store. -/

namespace Sys2Proof.Machine

open Sys2Proof

def eSheLate : Nat := 0x0501
def eSheDup : Nat := 0x0502

/-! ### The record (R138) -/

def shbNField (c : Bytes) : Nat := le c 2 2
def shbMaxOpen (c : Bytes) : Nat := le c 4 4
def shbWindow (c : Bytes) : Nat := le c 8 4
def shbFlush (c : Bytes) : Nat := le c 12 4
def shbTombSlots (c : Bytes) : Nat := le c 16 4
def shbTombLife (c : Bytes) : Nat := le c 20 4
def shbCloseBySrc (c : Bytes) : Bool := bitAt (le c 24 1) 7
def shbKeep (c : Bytes) : Nat := le c 25 1 % 16
def shbStoreEn (c : Bytes) : Bool := bitAt (le c 26 1) 2
def shbQDup (c : Bytes) : Bool := bitAt (le c 26 1) 1
def shbQLate (c : Bytes) : Bool := bitAt (le c 26 1) 0
def shbRoute (c : Bytes) (reason : Nat) : Nat := field (le c 28 2) (3 * reason) 3
def shbColEvref (c : Bytes) : Nat := le c 30 2
def shbColEvbytes (c : Bytes) : Nat := le c 32 2
def shbStoreBytes (c : Bytes) : Nat := 1024 * le c 40 4

/-- The expected-source bits of group `j`, as 64 bytes. -/
def shbGroup (c : Bytes) (j : Nat) : Bytes := slice c (64 + 64 * j) 64

/-- A source is expected. -/
def shbExpects (c : Bytes) (src : Nat) : Bool := bitAt (le c (64 + src / 8) 1) (src % 8)

/-- NEXPECT. -/
def shbNExpect (c : Bytes) : Nat := sumOf (slice c 64 2048) (fun b => popCount 8 b.toNat)

/-- Extraction field `i`: BIG, SOURCE, OFFSET, TYPE, FRAC, COLID. -/
structure ShbField where
  big : Bool
  source : Nat
  offset : Nat
  ty : Nat
  frac : Nat
  colid : Nat

def shbField (c : Bytes) (i : Nat) : ShbField :=
  let o := 2112 + 8 * i
  { big := bitAt (le c o 2) 15, source := le c o 2 % 16384, offset := le c (o + 2) 2,
    ty := le c (o + 4) 1, frac := le c (o + 5) 1, colid := le c (o + 6) 2 }

def shbFields (c : Bytes) : List ShbField := (List.range (shbNField c)).map (shbField c)

/-! ### State -/

/-- The state that an event-build vertex keeps. -/
def buildOf (v : VertSt) : BuildSt := match v.eng with | .build b => b | _ => {}

/-- The vertex as the job holds it now. -/
def vertNow (s : State) (x : Vx) : VertSt := ((job? s x.j).bind (fun b => b.verts[x.vid]?)).getD {}

/-- Changes the state of an event-build vertex. -/
def modBuild (s : State) (x : Vx) (f : BuildSt → BuildSt) : State :=
  modVert s x.j x.vid (fun v => { v with eng := .build (f (buildOf v)) })

/-- The vertex builds events. -/
def isBuild (x : Vx) : Bool := x.vert.kind == kShepherd && sheMode x.vert.cfg == 1

/-- Adds to counter `i` of a Shepherd, and of the vertex (R148, R452). -/
def cntShe (s : State) (x : Vx) (i n : Nat) : State :=
  cntVertex (cnt s (0x50010 + 0x1000 * x.vert.inst + 4 * i) n) x.job.kennel x.job.plan x.vid i n

/-- Open events on a Shepherd (R148). -/
def sheOpen (s : State) (n : Nat) : Nat :=
  sumOf s.jobs (fun (_, b) =>
    match jobPlan s b with
    | none => 0
    | some p => sumOf (p.verts.zip b.verts) (fun (v, st) =>
        if v.kind = kShepherd ∧ v.inst = n then (buildOf st).opens.length else 0))

/-- Open-event slots of a vertex in use, by all jobs of its plan, which share its SRAM
(R100, R126): rows that wait to be appended keep theirs (R560). -/
def slotsUsed (s : State) (x : Vx) : Nat :=
  sumOf s.jobs (fun (_, b) =>
    if b.kennel = x.job.kennel ∧ b.plan = x.job.plan then
      match b.verts[x.vid]? with
      | some v => (buildOf v).opens.length + (buildOf v).heldRows.length
      | none => 0
    else 0)

/-- The tombstones of a vertex, of all jobs of its plan (R100, R133). -/
def tombsOf (s : State) (x : Vx) : List Tomb :=
  ((plan? s x.job.kennel x.job.plan).map (fun p => tget p.tombs x.vid [])).getD []

def modTombs (s : State) (x : Vx) (f : List Tomb → List Tomb) : State :=
  modPlan s x.job.kennel x.job.plan (fun p => { p with
    tombs := tset p.tombs x.vid (f (tget p.tombs x.vid [])) })

/-- The place of an epoch among those of the job. -/
def epochOffset (x : Vx) (epoch : Nat) : Nat := (epoch + 2 ^ 48 - jeFirst x.job.entry) % 2 ^ 48

/-- An epoch has closed at the vertex. -/
def epochClosed (x : Vx) (b : BuildSt) (epoch : Nat) : Bool :=
  let o := epochOffset x epoch
  b.closed.any (fun r => r.1 ≤ o && o ≤ r.2)

/-! ### Event tiles (R81, R82, R134) -/

/-- The columns of an event tile. -/
def eventCols (c : Bytes) (rows : List BuildRow) : List Col :=
  let sys := fun (id ty : Nat) (f : BuildRow → Nat) =>
    ({ colid := id, ty, vals := rows.map (fun r => some (f r)) } : Col)
  [sys 0xFF01 8 (·.epoch), sys 0xFF02 6 (·.event), sys 0xFF03 6 (·.toffset),
   sys 0xFF04 8 (·.srcsum), sys 0xFF05 6 (·.build)] ++
  (shbFields c).mapIdx (fun i f =>
    ({ colid := f.colid, ty := f.ty, frac := f.frac, hasValid := true,
       vals := rows.map (fun r => ((r.fields[i]?).getD none)) } : Col)) ++
  (if shbColEvref c = 0xFFFF then [] else [sys (shbColEvref c) 8 (·.evref)]) ++
  (if shbColEvbytes c = 0xFFFF then [] else [sys (shbColEvbytes c) 6 (·.evbytes)])

/-- The open tile of a port is ready to be published: it takes its row ids (R81). -/
def publishEvents (s : State) (x : Vx) (port : Nat) : State :=
  let rows := tget (buildOf (vertNow s x)).outs port []
  if rows.isEmpty then s
  else
    let base := ((job? s x.j).map (·.rowid)).getD 0
    let tile := buildTile { log2cap := outCap x.plan x.vid port, rows := rows.length, seq := 0,
                            rowidBase := base, kennel := x.job.kennel, dense := true, event := true }
      (eventCols x.vert.cfg rows)
    let s := modJob s x.j (fun b => { b with
      rowid := (base + rows.length) % 2 ^ 48, rowArb := b.rowArb.won [] x.vert.inst })
    putOrigin (modBuild s x (fun b => { b with
      outs := tdel b.outs port, firsts := tdel b.firsts port })) x port [tile]

/-- A tile of the port waits to be published: no tile is open there. -/
def portWaits (s : State) (x : Vx) (port : Nat) : Bool := (vertNow s x).outq.any (·.1 == port)

/-- Appends one row to the open tile of its port at FCLK tick `at'`, or holds it back
(R560). -/
def appendRow (x : Vx) (at' : Nat) (s : State) (r : Nat × BuildRow) : State :=
  if portWaits s x r.1 then modBuild s x (fun b => { b with heldRows := b.heldRows ++ [r] })
  else
    let s := modBuild s x (fun b => { b with
      outs := tset b.outs r.1 (tget b.outs r.1 [] ++ [r.2]),
      firsts := if (tget b.outs r.1 []).isEmpty then tset b.firsts r.1 at' else b.firsts })
    if 2 ^ outCap x.plan x.vid r.1 ≤ (tget (buildOf (vertNow s x)).outs r.1 []).length
    then publishEvents s x r.1 else s

/-- Appends the rows held back whose port holds an open tile, in close order. -/
def appendRows (s : State) (x : Vx) : State :=
  let rows := (buildOf (vertNow s x)).heldRows
  rows.foldl (appendRow x s.fclk) (modBuild s x (fun b => { b with heldRows := [] }))

/-- Ports of the vertex whose open tile holds a row. -/
def openPorts (s : State) (x : Vx) : List Nat :=
  (List.range x.vert.nout).filter (fun p => !(tget (buildOf (vertNow s x)).outs p []).isEmpty)

/-- Publishes the open tile of every port. -/
def publishAll (s : State) (x : Vx) : State :=
  (List.range x.vert.nout).foldl (fun s port => publishEvents s x port) s

/-! ### Closing events (R130, R133) -/

/-- SYS_SRCSUM of an event (R83). -/
def srcSum (c : Bytes) (srcs : List Nat) : Nat :=
  let groups := sumOf (List.range 32) (fun j =>
    let bits := leNat (shbGroup c j)
    let got := sumOf (srcs.filter (fun n => n / 512 == j)) (fun n => 2 ^ (n % 512))
    if bits &&& got = bits then 2 ^ j else 0)
  groups * 2 ^ 32 + shbNExpect c * 2 ^ 16 + srcs.length

/-- The row of an event that closes. -/
def eventRow (c : Bytes) (e : OpenEv) (reason : Nat) : BuildRow :=
  { epoch := e.epoch, event := e.event, toffset := e.toffset, srcsum := srcSum c e.srcs,
    build := e.flags + reason,
    fields := (List.range (shbNField c)).map (fun i => (e.caps.find? (·.1 == i)).map (·.2)),
    evref := e.newest, evbytes := e.evbytes }

/-- Writes a tombstone at FCLK tick `now`; a full table evicts its oldest, and one whose
time is over takes no place. -/
def addTomb (s : State) (x : Vx) (now epoch event : Nat) : State :=
  let c := x.vert.cfg
  if shbTombSlots c = 0 then s
  else
    let live := (tombsOf s x).filter (fun t =>
      !(t.job == x.j && t.epoch == epoch && t.event == event) && now ≤ t.death)
    let full := shbTombSlots c ≤ live.length
    let s := modTombs s x (fun _ => (if full then live.drop 1 else live) ++
      [{ job := x.j, epoch, event, death := now + shbTombLife c }])
    if full then cntShe s x 11 1 else s

/-- An open event closes for a reason at FCLK tick `now`; its row is appended in the next. -/
def closeEvent (x : Vx) (now reason : Nat) (s : State) (e : OpenEv) : State :=
  let s := modBuild s x (fun b => { b with
    opens := b.opens.filter (fun o => !(o.epoch == e.epoch && o.event == e.event)) })
  let s := addTomb (cntShe s x (6 + reason) 1) x now e.epoch e.event
  appendRow x (now + 1) s (shbRoute x.vert.cfg reason, eventRow x.vert.cfg e reason)

/-- Open events in ascending order of epoch and event number (R132). -/
def inOrder (x : Vx) (es : List OpenEv) : List OpenEv :=
  sortBy (fun a b => epochOffset x a.epoch < epochOffset x b.epoch ||
    (a.epoch == b.epoch && a.event < b.event)) es

/-! ### The passing of FCLK ticks (R130, R132, R134) -/

/-- Windows end and open tiles go out in their ticks: the tick of what comes next at the
vertex. -/
def nextDue (s : State) (x : Vx) : Option Nat :=
  let b := buildOf (vertNow s x)
  let ts := b.opens.map (fun e => e.opened + shbWindow x.vert.cfg) ++
    (openPorts s x).map (fun p => tget b.firsts p 0 + shbFlush x.vert.cfg)
  ts.foldl (fun m t => match m with
    | none => some t
    | some n => some (min n t)) none

/-- What is due at the vertex in a tick: windows end before tiles go out. -/
def doDue (s : State) (x : Vx) (t : Nat) : State :=
  let due := (buildOf (vertNow s x)).opens.filter (fun e => e.opened + shbWindow x.vert.cfg ≤ t)
  let s := (inOrder x due).foldl (closeEvent x t 1) s
  (openPorts s x).foldl (fun s p =>
    if tget (buildOf (vertNow s x)).firsts p 0 + shbFlush x.vert.cfg ≤ t then publishEvents s x p
    else s) s

/-- Everything that is due at the vertex before tick `n`, tick after tick. -/
def passVertex (x : Vx) (n : Nat) : Nat → State → State
  | 0, s => s
  | fuel + 1, s =>
    match nextDue s x with
    | none => s
    | some t => if t < n then passVertex x n fuel (doDue s x t) else s

/-- Everything that is due at an event-build vertex before tick `n`: each open event ends
once, and each row that is or will be there goes out once. -/
def passBuild (s : State) (x : Vx) (n : Nat) : State :=
  let b := buildOf (vertNow s x)
  passVertex x n (2 * b.opens.length + b.heldRows.length + x.vert.nout) s

/-! ### Closing epochs (R131) -/

/-- Closes a run of epochs of the job at the vertex (R131); its open tiles are then due.
(DEDUCED, safe: log entry 86.) -/
def closeRun (s : State) (x : Vx) (r : Nat × Nat) : State :=
  let c := x.vert.cfg
  let inRun := fun (epoch : Nat) => decide (r.1 ≤ epochOffset x epoch) && decide (epochOffset x epoch ≤ r.2)
  let evs := inOrder x ((buildOf (vertNow s x)).opens.filter (fun e => inRun e.epoch))
  let s := evs.foldl (closeEvent x s.fclk 2) s
  let s := modTombs s x (fun ts => ts.filter (fun t => !(t.job == x.j && inRun t.epoch)))
  let s := modBuild s x (fun b => { b with
    closes := b.closes.filter (fun t => !inRun t.1),
    closed := addRun b.closed r })
  modBuild s x (fun b => { b with store := b.store.filter (fun t =>
    !epochClosed x b ((t.2.2 + shbKeep c) % 2 ^ 48)) })

/-- The runs together cover every place from `lo` to `hi`. -/
def runsCover (runs : List (Nat × Nat)) (hi : Nat) : Nat → Nat → Bool
  | 0, lo => hi < lo
  | n + 1, lo =>
    if hi < lo then true
    else
      match runs.find? (fun q => q.1 ≤ lo && lo ≤ q.2) with
      | some q => runsCover runs hi n (q.2 + 1)
      | none => false

/-- The epoch closes that a change of the current epoch number brings to the vertex, and
whether there are any (R131). -/
def closeExpired (s : State) (x : Vx) : State × Bool :=
  match expired s (jeFirst x.job.entry) (jeNEpoch x.job.entry) (sheCloseAfter x.vert.cfg) with
  | none => (s, false)
  | some r =>
    let closed := (buildOf (vertNow s x)).closed
    if runsCover closed r.2 closed.length r.1 then (s, false) else (closeRun s x r, true)

/-- The event-build vertices of live jobs. -/
def buildVertices (s : State) : List VertexRef :=
  s.jobs.flatMap (fun (j, b) =>
    if jobLive b then (List.range b.verts.length).map (fun v => ({ job := j, vid := v } : VertexRef))
    else [])

/-- Tiles that the vertices of a job emit in one FCLK: the round-robin pointer of the
row-id counter orders them by Shepherd, and advances past each winner (R81). -/
def emitRounds (j : Nat) (vids : List Nat) : Nat → State → State
  | 0, s => s
  | n + 1, s =>
    let xs := vids.filterMap (fun vid => (vx? s { job := j, vid }).filter (fun x => !(openPorts s x).isEmpty))
    let arb := ((job? s j).map (·.rowArb)).getD {}
    let ready := sortBy (· < ·) (xs.map (·.vert.inst))
    match arb.pick (arbAge s) ready with
    | none => s
    | some i =>
      match xs.find? (·.vert.inst == i) with
      | none => s
      | some x =>
        let s := (openPorts s x).take 1 |>.foldl (fun s p => publishEvents s x p) s
        emitRounds j vids n (modJob s j (fun b => { b with rowArb := arb.won ready i }))

/-- A change of the current epoch number as the Shepherds see it: epochs close, and then
the open tiles of the vertices that closed one go out (R81, R131). -/
def closeEpochs (s : State) : State :=
  let (s, vs) := (buildVertices s).foldl (fun (a : State × List VertexRef) v =>
    match vx? a.1 v with
    | some x =>
      if isBuild x && vxLive x then
        let (s, did) := closeExpired a.1 x
        (s, if did then a.2 ++ [v] else a.2)
      else a
    | none => a) (s, [])
  ((vs.map (·.job)).foldl addNew []).foldl (fun s j =>
    let vids := (vs.filter (·.job == j)).map (·.vid)
    emitRounds j vids (8 * vids.length) s) s

/-- FCLK ticks pass up to `now`: what was due before it has taken place in every
event-build vertex and in every open fragment block (R123, R130, R134). A tick that lies
before the latest one named counts as that one. (DESIGN CHOICE, safe: log entry 107.) -/
def tickTo (s : State) (now : Nat) : State :=
  let n := max now s.fclk
  let s := (buildVertices s).foldl (fun s v =>
    match vx? s v with
    | some x =>
      if !vxLive x || x.st.endSent then s
      else if isBuild x then passBuild s x n
      else if x.vert.kind = kSrcIngest then publishBlocks s x (fun o => blockDue o < n)
      else s
    | none => s) s
  { s with fclk := n }

/-- Every epoch of the job has closed at the vertex, or its last one has. -/
def lastClosed (x : Vx) : Bool :=
  epochClosed x (buildOf x.st) ((jeFirst x.job.entry + jeNEpoch x.job.entry - 1) % 2 ^ 48)

/-! ### The event store (R136, R137) -/

/-- Where the next entry of a length goes. -/
def storePlace (c : Bytes) (b : BuildSt) (len : Nat) : Nat :=
  if b.storeAt + len ≤ shbStoreBytes c then b.storeAt else 0

/-- The next entry would overwrite none that is not reclaimed. -/
def storeFits (c : Bytes) (b : BuildSt) (len : Nat) : Bool :=
  let a := storePlace c b len
  a + len ≤ shbStoreBytes c &&
  b.store.all (fun t => t.1 + t.2.1 ≤ a || a + len ≤ t.1)

/-- Appends a fragment to the store, behind the entry `prev` of its event. -/
def storePut (c : Bytes) (b : BuildSt) (prev : Nat) (f : Frag) : BuildSt × Nat :=
  let len := recordBytes f
  let a := storePlace c b len
  let bytes := padTo 16 (toLe 4 prev ++ toLe 2 f.bytes.length ++ toLe 2 (rfxSource f.bytes) ++
    toLe 4 (rfxEvent f.bytes) ++ toLe 4 (rfxEpoch f.bytes) ++ f.bytes)
  ({ b with storeAt := a + len, store := b.store ++ [(a, len, rfxEpoch f.bytes)],
            storeData := b.storeData.write a bytes }, a)

/-! ### Taking fragments (R127 to R129) -/

/-- The value of an extraction field in a payload (R135). -/
def extract (d : ShbField) (payload : Bytes) : Option Nat :=
  let w := ceilDiv (tyWidth d.ty) 8
  if d.offset + w > payload.length then none
  else some (if d.big then be payload d.offset w else le payload d.offset w)

/-- The values that a fragment gives to the fields of its source. -/
def captures (c : Bytes) (f : Frag) : List (Nat × Nat) :=
  let src := rfxSource f.bytes
  ((shbFields c).mapIdx (fun i d => (i, d))).filterMap (fun (i, d) =>
    if d.source = src then (extract d (f.bytes.drop 32)).map (fun v => (i, v)) else none)

/-- What keeping a fragment makes of its event (R128). -/
def keepIn (c : Bytes) (e : OpenEv) (gap : Nat) (f : Frag) : OpenEv :=
  let b1 := be f.bytes 1 1
  let first := e.srcs.isEmpty
  let mismatch := !first && e.toffset != rfxToffset f.bytes
  let flags := e.flags ||| (if mismatch then 8 else 0) ||| (if gap = 1 then 16 else 0) |||
    (if bitAt b1 7 then 32 else 0) ||| (if bitAt b1 6 then 64 else 0) ||| (if bitAt b1 5 then 128 else 0)
  { e with
    toffset := if first then rfxToffset f.bytes else e.toffset,
    srcs := e.srcs ++ [rfxSource f.bytes], flags, caps := e.caps ++ captures c f }

/-- Keeps a fragment in its event, open already or opened now, and closes the event
if it is complete. The store has room. -/
def keepFragment (s : State) (x : Vx) (gap : Nat) (f : Frag) : State :=
  let c := x.vert.cfg
  let epoch := rfxEpoch f.bytes
  let event := rfxEvent f.bytes
  let b := buildOf (vertNow s x)
  let old := (b.opens.find? (fun o => o.epoch == epoch && o.event == event)).getD
    { epoch, event, toffset := 0, srcs := [], flags := 0, opened := s.fclk, caps := [] }
  let s := if old.srcs.isEmpty || old.toffset = rfxToffset f.bytes then s else cntShe s x 4 1
  let s := cntShe s x 5 gap
  let e := keepIn c old gap f
  let (b, e) :=
    if shbStoreEn c then
      let (b, a) := storePut c b e.newest f
      (b, { e with newest := a, evbytes := e.evbytes + recordBytes f })
    else (b, e)
  let b := { b with opens := (b.opens.filter (fun o => !(o.epoch == epoch && o.event == event))) ++ [e] }
  let s := modBuild s x (fun _ => b)
  let peak := 0x50008 + 0x1000 * x.vert.inst
  let s := setReg s peak (max (regVal s peak) (sheOpen s x.vert.inst))
  let got := e.srcs.countP (shbExpects c)
  if 1 ≤ shbNExpect c ∧ got = shbNExpect c then closeEvent x s.fclk 0 s e else s

/-- The next fragment of the block in service; a new block is begun where none is. -/
def sheNext (s : State) (x : Vx) : Option (State × Nat × Frag) :=
  if !isBuild x || !x.st.outq.isEmpty then none
  else
    match (buildOf x.st).block with
    | (gap, f) :: _ => some (s, gap, f)
    | [] =>
      match inHead x 0 with
      | some (.block _ data) =>
        match blockFrags data with
        | (gap, f) :: r =>
          some (modBuild (popIn s x 0) x (fun b => { b with block := (gap, f) :: r }), gap, f)
        | [] => none
      | _ => none

/-- The fragment has been taken: the engine goes on with the block, or leaves the
vertex at the block's end or where an output waits for a credit (R101, R145, R560). -/
def sheTaken (s : State) (x : Vx) : State :=
  let s := modBuild s x (fun b => { b with
    block := b.block.drop 1, openStall := false, storeStall := false })
  let v := vertNow s x
  let s := if (buildOf v).block.isEmpty then releaseHolds s x.j x.vid else s
  if (buildOf v).block.isEmpty || ((vx? s { job := x.j, vid := x.vid }).any (outBlocked s)) then
    { s with engines := s.engines.map (fun (e, st) =>
        (e, if st.serving = some { job := x.j, vid := x.vid } then { st with serving := none } else st)) }
  else s

/-- Takes a DATA fragment by the rules of R127 in order; where it must wait, the wait
is counted once. -/
def takeData (s : State) (x : Vx) (gap : Nat) (f : Frag) : State :=
  let c := x.vert.cfg
  let k := x.job.kennel
  let epoch := rfxEpoch f.bytes
  let event := rfxEvent f.bytes
  let b := buildOf (vertNow s x)
  let open? := b.opens.find? (fun o => o.epoch == epoch && o.event == event)
  let late := epochClosed x b epoch ||
    (tombsOf s x).any (fun t => t.job == x.j && t.epoch == epoch && t.event == event && s.fclk ≤ t.death)
  let dup := open?.any (fun o => o.srcs.contains (rfxSource f.bytes))
  let noSlot := open?.isNone && shbMaxOpen c ≤ slotsUsed s x
  let noStore := shbStoreEn c && !storeFits c b (recordBytes f)
  if late then
    let s := cntShe (cntShe s x 0 1) x 2 1
    sheTaken (if shbQLate c then quarantine s k eSheLate f else s) x
  else if dup then
    let s := modBuild s x (fun b => { b with opens := b.opens.map (fun o =>
      if o.epoch == epoch && o.event == event then { o with flags := o.flags ||| 4 } else o) })
    let s := cntShe (cntShe s x 0 1) x 3 1
    sheTaken (if shbQDup c then quarantine s k eSheDup f else s) x
  else if noSlot then
    if b.openStall then s else modBuild (cntShe s x 9 1) x (fun b => { b with openStall := true })
  else if noStore then
    if b.storeStall then s else modBuild (cntShe s x 10 1) x (fun b => { b with storeStall := true })
  else sheTaken (keepFragment (cntShe s x 0 1) x gap f) x

/-- Takes a CLOSE fragment (R129, R131). -/
def takeClose (s : State) (x : Vx) (f : Frag) : State :=
  let c := x.vert.cfg
  let epoch := rfxEpoch f.bytes
  let src := rfxSource f.bytes
  let s := cntShe s x 1 1
  let b := buildOf (vertNow s x)
  if epochClosed x b epoch then sheTaken s x
  else
    let closes := addNew b.closes (epoch, src)
    let s := modBuild s x (fun b => { b with closes })
    let got := closes.countP (fun t => t.1 == epoch && shbExpects c t.2)
    let s :=
      if shbCloseBySrc c && 1 ≤ shbNExpect c && shbExpects c src && got = shbNExpect c then
        publishAll (closeRun s x (epochOffset x epoch, epochOffset x epoch)) x
      else s
    sheTaken s x

/-- Closes every event whose window has passed, in order (R130). -/
def closeWindows (s : State) (x : Vx) : State :=
  let due := (buildOf x.st).opens.filter (fun e => e.opened + shbWindow x.vert.cfg ≤ s.fclk)
  (inOrder x due).foldl (closeEvent x s.fclk 1) s

end Sys2Proof.Machine
end

