-- ==== Sys2Proof/Machine/VerdictSink.lean ====
section
/-! DEFINITION. The rows of a SINK_VERDICT vertex (R164) and the frames that carry
verdict messages (R59, R453, R481). -/

namespace Sys2Proof.Machine

open Sys2Proof

/-! ### The sink (R113, R164) -/

/-- Changes the state of a sink. -/
def modSink (s : State) (x : Vx) (f : SinkSt → SinkSt) : State :=
  modVert s x.j x.vid (fun v => { v with eng := .sink (f (sinkOf v)) })

/-- The item of a queue with an ordinal and a part, and its index. -/
def orderedItem (q : List EItem) (ordinal part : Nat) : Option (Nat × EItem) :=
  (q.zip (List.range q.length)).findSome? (fun (it, i) =>
    let seq := match it with
      | .tile _ b => some (tileSeq b)
      | .skip n => some n
      | _ => none
    match seq with
    | some n => if seqOrdinal n = ordinal ∧ seqPart n = part then some (i, it) else none
    | none => none)

/-- The item that an ordered sink takes next on a port, if it is there; an unordered
one takes the head. (DEDUCED, safe: log entry 83.) -/
def sinkNext (x : Vx) (port : Nat) : Option (Nat × EItem) :=
  if vOrdered x.vert then
    let k := sinkOf x.st
    orderedItem (inQueue x port) k.ordinal k.part
  else
    match inHead x port with
    | some (.tile n b) => some (0, .tile n b)
    | some (.skip q) => some (0, .skip q)
    | _ => none

/-- Removes an item of an input port and releases its slot. -/
def dropItem (s : State) (x : Vx) (port i : Nat) (it : EItem) : State :=
  match inEdge? x.plan x.vid port with
  | none => s
  | some (e, d) =>
    let s := modEdge s x.j e (fun g => { g with queues := lmod g.queues d (·.eraseIdx i) })
    match it with
    | .tile slot _ => cntVertex (releaseSlot s x.j e slot) x.job.kennel x.job.plan x.vid 62 1
    | _ => s

/-- An ordered sink moves past an item with a SEQ (R115). -/
def sinkPast (s : State) (x : Vx) (seq : Nat) : State :=
  if !vOrdered x.vert then s
  else modSink s x (fun k =>
    if seqLast seq then { k with ordinal := k.ordinal + 1, part := 0 } else { k with part := k.part + 1 })

/-- The rows of a verdict tile: epoch, event, offset and lines. -/
def verdictRows (t : PTile) : Except Nat (List (Nat × Nat × Nat × Nat)) := do
  let es ← sysValues t 0xFF01
  let ns ← sysValues t 0xFF02
  let os ← sysValues t 0xFF03
  let ls ← match t.strips.find? (fun p => p.colid < 0xFF00) with
    | some p => stripValues p t.rows
    | none => .error eTileFormat
  .ok ((List.range t.rows).map (fun i =>
    ((es[i]?).getD 0, (ns[i]?).getD 0, (os[i]?).getD 0, ((ls[i]?).getD none).getD 0)))

/-- The rows of a port's next tile that the sink has not taken. -/
def verdictLeft (s : State) (x : Vx) (port : Nat) : List (Nat × Nat × Nat × Nat) :=
  match sinkNext x port with
  | some (_, .tile _ b) =>
    match readTile s x b with
    | .error _ => []
    | .ok t =>
      match verdictRows t with
      | .error _ => []
      | .ok rows => rows.drop (tget (sinkOf x.st).rows port 0)
  | _ => []

/-- One row of the next tile of a port is taken; after the last the tile goes. -/
def verdictRowTaken (s : State) (x : Vx) (port left : Nat) : State :=
  match sinkNext x port with
  | some (i, .tile n b) =>
    if left ≤ 1 then
      sinkPast (modSink (dropItem s x port i (.tile n b)) x (fun k => { k with rows := tdel k.rows port }))
        x (tileSeq b)
    else modSink s x (fun k => { k with rows := tset k.rows port (tget k.rows port 0 + 1) })
  | _ => s

/-- The sink port whose next row is an event's result. -/
def verdictRowOf (s : State) (k epoch event : Nat) : Option (Vx × Nat × Nat) :=
  (buildVertices s).findSome? (fun v =>
    match vx? s v with
    | none => none
    | some x =>
      if x.vert.kind = kSinkVerdict ∧ x.job.kennel = k then
        (List.range x.vert.nin).findSome? (fun port =>
          match verdictLeft s x port with
          | (e, n, _, _) :: r => if e = epoch ∧ n = event then some (x, port, r.length + 1) else none
          | [] => none)
      else none)

/-- The sink takes the row that brought a result, where one waits. -/
def takeVerdictRow (s : State) (k epoch event : Nat) : State :=
  match verdictRowOf s k epoch event with
  | some (x, port, n) => verdictRowTaken s x port n
  | none => s

/-! ### Frames -/

/-- The FCS of an Ethernet frame follows its bytes (R33). -/
def withFcs (b : Bytes) : Bytes := b ++ toLe 4 (crc32 b)

/-- A checksum field for a sum of words. -/
def sumField (n : Nat) : Nat := 65535 - onesSum n

/-- A UDP datagram with its checksum, which is never sent as 0. -/
def udpDatagram (pseudo sport dport : Nat) (payload : Bytes) : Bytes :=
  let len := 8 + payload.length
  let h := fun (c : Nat) => toBe 2 sport ++ toBe 2 dport ++ toBe 2 len ++ toBe 2 c ++ payload
  let c := sumField (pseudo + 17 + len + sumWords (h 0))
  h (if c = 0 then 65535 else c)

/-- The Ethernet frame of a verdict message to a destination record (R453). Fields
of the IP header that the manual does not state are free values. (DEDUCED, safe: log entry 71.) -/
def udpFrame (s : State) (smac : Nat) (d msg : Bytes) : Bytes × State :=
  let (x, s) := takeFree s
  let sport := le d 42 2
  let dport := le d 40 2
  let l2 := fun (etype : Nat) => slice d 2 6 ++ toLe 6 smac ++ toBe 2 etype
  if le d 1 1 = 0 then
    let u := udpDatagram (sumWords (slice d 24 4 ++ slice d 8 4)) sport dport msg
    let h := fun (c : Nat) => [0x45] ++ toBe 1 x ++ toBe 2 (20 + u.length) ++ toBe 2 (x / 256) ++
      toBe 2 (x / 2 ^ 24 % 2 * 16384) ++ toBe 1 64 ++ toBe 1 17 ++ toBe 2 c ++ slice d 24 4 ++ slice d 8 4
    (withFcs (l2 0x0800 ++ h (sumField (sumWords (h 0))) ++ u), s)
  else
    let u := udpDatagram (sumWords (slice d 24 16 ++ slice d 8 16)) sport dport msg
    let h := toBe 4 (6 * 2 ^ 28 + x % 2 ^ 28) ++ toBe 2 u.length ++ toBe 1 17 ++ toBe 1 64 ++
      slice d 24 16 ++ slice d 8 16
    (withFcs (l2 0x86DD ++ h ++ u), s)

/-- Group and port of a destination record. -/
def destGroup (d : Bytes) : Nat := le d 0 1 / 64
def destPort (d : Bytes) : Nat := le d 0 1 / 16 % 4

/-- The partner's flow control holds the port for untagged frames (R33, R43). -/
def portHeld (s : State) (g p : Nat) : Bool := (ingPort s g p).held.any (·.1 == 0)

/-- Sends a message to one destination; a port whose link is down sends nothing.
(DESIGN CHOICE, unsafe: log entry 122.) -/
def sendVerdict (msg : Bytes) (s : State) (d : Bytes) : State :=
  let g := destGroup d
  let p := destPort d
  if !(ingPort s g p).up then s
  else if le d 1 1 = 2 then emit s (.rawTx g p msg)
  else
    let (f, s) := udpFrame s (regVal s (0x20010 + 0x1000 * g + 8 * p)) d msg
    emit s (.ethTx g p f)

/-- The destination can be sent to now. -/
def destFree (s : State) (d : Bytes) : Bool := !portHeld s (destGroup d) (destPort d)

/-- The message can be sent to some destination now. -/
def msgReady (s : State) (m : VMsg) : Bool := m.leash.isSome || m.dests.any (destFree s)

/-- Sends a message wherever it can go now: what is left of it, if anything. -/
def sendMsg (s : State) (m : VMsg) : State × Option VMsg :=
  let s := match m.leash with
    | some lat =>
      if nodeValid s then sendBroadcast s none 1
        (leashFrame 5 true 1 0 (ownSrc s) m.kennel 0 (m.bytes ++ toLe 4 lat))
      else s
    | none => s
  let left := m.dests.filter (fun d => !destFree s d)
  let s := (m.dests.filter (destFree s)).foldl (sendVerdict m.bytes) s
  (s, if left.isEmpty then none else some { m with dests := left, leash := none })

/-- Sends the first message that can go: the new queue. -/
def sendFirst (s : State) : List VMsg → Option (State × List VMsg)
  | [] => none
  | m :: r =>
    if msgReady s m then
      let (s, left) := sendMsg s m
      some (s, left.toList ++ r)
    else (sendFirst s r).map (fun q => (q.1, m :: q.2))

/-- Quanta of flow control run out on every port (R33). (DESIGN CHOICE, safe: log entry 76.) -/
def passQuanta (s : State) (n : Nat) : State :=
  { s with groups := s.groups.map (fun g => { g with ports := g.ports.map (fun p =>
      { p with held := (p.held.filter (fun h => n < h.2)).map (fun h => (h.1, h.2 - n)) }) }) }

end Sys2Proof.Machine
end

