-- ==== Sys2Proof/Machine/FlowOps.lean ====
section
/-! DEFINITION. How the vertices of a job take tiles, and how sinks write them (R108,
R112 to R116). -/

namespace Sys2Proof.Machine

open Sys2Proof

/-! ### Tiles of an engine -/

/-- The vertex of a kind that an engine serves, ready for its next input: nothing of
it waits to be published. -/
def servedIdle (s : State) (e : EngineId) : Option Vx :=
  match servedVx s e with
  | some x => if x.st.outq.isEmpty && !x.st.finished then some x else none
  | none => none

/-- The vertex as it now is. -/
def again (s : State) (x : Vx) : Vx := (vx? s { job := x.j, vid := x.vid }).getD x

/-- An engine has taken an input for a vertex that answers with new tiles on port 0. -/
def finishOrigin (s : State) (x : Vx) (e : EngineId) (outs : List Bytes) : State :=
  let s := putOrigin s x 0 outs
  engineFree (if outs.isEmpty then releaseHolds s x.j x.vid else s) e

/-- An engine has taken an input for a pass-through vertex. -/
def finishOuts (s : State) (x : Vx) (e : EngineId) (outs : List (Nat × OItem)) : State :=
  engineFree (putOut s x outs) e

/-- The vertex fails, and the engine leaves it. -/
def finishFail (s : State) (x : Vx) (e : EngineId) (status : Nat) : State :=
  engineFree (failVx s x status) e

/-- The tile at the head of an input port. -/
def headTile (x : Vx) (port : Nat) : Option Bytes :=
  match inHead x port with
  | some (.tile _ b) => some b
  | _ => none

/-- A skip mark at the head of an input port. -/
def headSkip (x : Vx) (port : Nat) : Option Nat :=
  match inHead x port with
  | some (.skip q) => some q
  | _ => none

/-! ### Sources -/

/-- The state of an SRC_TS vertex. -/
def tsOf (v : VertSt) : TsSrc := match v.eng with | .ts t => t | _ => {}

/-- The range in service: table space, offset and length, if one is left. -/
def tsRange (x : Vx) : Option (Nat × Nat × Nat) := (jeRanges x.job.entry x.vid)[(tsOf x.st).range]?

/-- Every range has been read. -/
def tsDone (x : Vx) : Bool := (tsRange x).isNone

/-! ### Sinks (R112, R113, R115) -/

/-- The bytes that a sink may write: its window, or its range. -/
def sinkSize (x : Vx) : Nat :=
  if x.vert.kind = kSinkHost then 4096 * le x.vert.cfg 8 4
  else if x.vert.kind = kSinkTs then le x.vert.cfg 16 8 else 0

/-- The sink can write now: a mover runs, the kennel's retirement has not stalled, and its
host writes are not held (R23, R116, R388). -/
def sinkUp (s : State) (x : Vx) : Bool :=
  x.vert.kind == kSinkVerdict ||
  (moverUp s && (kennel? s x.job.kennel).any (fun k => !retireStalled k) &&
    (x.vert.kind != kSinkHost || hostUp s))

/-- Writes bytes at the sink's position. -/
def sinkPut (s : State) (x : Vx) (b : Bytes) : State :=
  let pos := (sinkOf x.st).pos
  let s := modSink s x (fun k => { k with pos := k.pos + b.length })
  if x.vert.kind = kSinkHost then
    let s := modJob s x.j (fun j => { j with result0 := j.result0 + b.length })
    hostWrite s x.job.kennel (jeBuf x.job.entry + 4096 * le x.vert.cfg 4 4 + pos) b
  else
    match ownSpace s x.job.kennel (le x.vert.cfg 2 2) with
    | some t => tsWrite s t (le x.vert.cfg 8 8 + pos) b
    | none => s

/-- Writes a tile: the sizes in its header are checked, and it must fit (R112). -/
def sinkTile (s : State) (x : Vx) (b : Bytes) : Except Nat State :=
  let total := tileTotal b
  if !tileSizesOk b || total > b.length then .error eTileFormat
  else if (sinkOf x.st).pos + total > sinkSize x then .error eJobHostbuf
  else .ok (sinkPut s x (b.take total))

/-- The sink has received every end mark and dealt with what follows its last tile:
64 zero bytes, unless the window is full (R112). -/
def sinkClose (s : State) (x : Vx) : State :=
  if !allEnded x || (sinkOf x.st).closed || !sinkUp s x then s
  else
    let s := if (sinkOf x.st).pos < sinkSize x then sinkPut s x (zeros 64) else s
    modSink s x (fun k => { k with closed := true })

/-- What a sink does with its next item on a port. -/
def sinkTake (s : State) (x : Vx) (port : Nat) : Option State :=
  match sinkNext x port with
  | some (i, .tile n b) =>
    match sinkTile s x b with
    | .error e => some (failVx s x e)
    | .ok s => some (sinkPast (dropItem s x port i (.tile n b)) x (tileSeq b))
  | some (i, .skip q) => some (sinkPast (dropItem s x port i (.skip q)) x q)
  | _ => none

/-- What a verdict sink does with its next item on a port (R164): in a deterministic
kennel each row not yet taken is a TEV result. -/
def verdictTake (s : State) (x : Vx) (port : Nat) : Option State :=
  match sinkNext x port with
  | some (i, .skip q) => some (sinkPast (dropItem s x port i (.skip q)) x q)
  | some (i, .tile n b) =>
    let past := fun (s : State) => sinkPast
      (modSink (dropItem s x port i (.tile n b)) x (fun k => { k with rows := tdel k.rows port }))
      x (tileSeq b)
    if !inDet s x.job.kennel then some (past s)
    else
      match readTile s x b with
      | .error e => some (failVx s x e)
      | .ok t =>
        match verdictRows t with
        | .error e => some (failVx s x e)
        | .ok rows =>
          let left := rows.drop (tget (sinkOf x.st).rows port 0)
          some (past (left.foldl (fun s (e, n, o, l) => tevArrive s x.job.kennel e n o l) s))
  | _ => none

end Sys2Proof.Machine
end

