-- ==== Sys2Proof/Machine/ExchOps.lean ====
section
/-! DEFINITION. The exchange between the devices of a Leash chain (R482 to R486):
partitions, credits, pieces, ends, and the checks at acceptance. -/

namespace Sys2Proof.Machine

open Sys2Proof

def eLshUnreach : Nat := 0x1001
def eLshPeer : Nat := 0x1003
def eLshNotready : Nat := 0x1004
def eLshNodes : Nat := 0x1005
def eLshJobkey : Nat := 0x1006

/-! ### The record (R482) -/

def exMode (c : Bytes) : Nat := le c 1 1
def exNKey (c : Bytes) : Nat := le c 2 1
def exChannel (c : Bytes) : Nat := le c 4 2
def exNNode (c : Bytes) : Nat := le c 6 2
def exCredits (c : Bytes) : Nat := le c 8 2
def exColNode (c : Bytes) : Nat := le c 10 2

/-- Key descriptor `i`: COLID, TYPE and FRAC. -/
def exKey (c : Bytes) (i : Nat) : Nat × Nat × Nat :=
  (le c (64 + 8 * i) 2, le c (66 + 8 * i) 1, le c (67 + 8 * i) 1)

/-- NODES. -/
def exNodes (c : Bytes) : List Nat :=
  (List.range (exNNode c)).map (fun i => le c (64 + 8 * exNKey c + 2 * i) 2)

/-- JOBKEY of a job (R484). -/
def jobKey (mode : Nat) (entry : Bytes) : Nat :=
  if mode = 1 then 2 ^ 63 + jeFirst entry else le entry 4 2

/-- The exchange vertices of a plan, with their VIDs. -/
def exchVerts (p : Plan) : List (Vertex × Nat) :=
  (p.verts.zip (List.range p.verts.length)).filter (fun v => v.1.kind == kExch)

/-! ### State -/

/-- The state of an exchange vertex. -/
def exchOf (v : VertSt) : ExchSt := match v.eng with | .exch e => e | _ => {}

/-- Changes the state of an exchange vertex. -/
def modExch (s : State) (x : Vx) (f : ExchSt → ExchSt) : State :=
  modVert s x.j x.vid (fun v => { v with eng := .exch (f (exchOf v)) })

/-- The exchange vertex that a key names, of a job that goes on. -/
def exchFind (s : State) (k channel key : Nat) : Option Vx :=
  (buildVertices s).findSome? (fun v =>
    match vx? s v with
    | some x =>
      if x.vert.kind = kExch ∧ x.job.kennel = k ∧ exChannel x.vert.cfg = channel ∧
          jobKey x.plan.mode x.job.entry = key then some x else none
    | none => none)

/-! ### Acceptance (R484, R486) -/

/-- A job in flight of the kennel holds the key on the channel. -/
def keyInUse (s : State) (k channel key : Nat) : Bool :=
  s.jobs.any (fun (_, b) => b.kennel == k &&
    (match jobPlan s b with
     | some p => jobKey p.mode b.entry == key &&
         (exchVerts p).any (fun v => exChannel v.1.cfg == channel)
     | none => false))

/-- The first check of R486 that a job fails, and the vertex. -/
def exchFault (s : State) (k : Nat) (p : Plan) (e : Bytes) : Option (Nat × Nat) :=
  (exchVerts p).findSome? (fun (v, i) =>
    let nodes := exNodes v.cfg
    if !nodeValid s then some (eLshNotready, i)
    else if keyInUse s k (exChannel v.cfg) (jobKey p.mode e) then some (eLshJobkey, i)
    else if !nodes.contains (nodeId s) || nodes.any (fun n => nodeCount s ≤ n) then
      some (eLshNodes, i)
    else none)

/-- An exchange frame to a node (R468); it waits while the node has no valid ID (R472). -/
def exchSend (s : State) (k channel type dst : Nat) (payload : Bytes) : State :=
  if nodeValid s then sendUnicast s dst 2 (leashFrame type false 2 dst (ownSrc s) k channel payload)
  else
    let f : ExchOut := { kennel := k, channel, type, dst, payload }
    { s with leash := { s.leash with outbox := s.leash.outbox ++ [f] } }

/-- Grants credits to a sender, itself included (R484). -/
def giveCredits (s : State) (x : Vx) (node n : Nat) : State :=
  let key := jobKey x.plan.mode x.job.entry
  if node = nodeId s then
    modExch s x (fun e => { e with credits := tset e.credits node (tget e.credits node 0 + n) })
  else exchSend s x.job.kennel (exChannel x.vert.cfg) 7 node (toLe 8 key ++ toLe 4 n)

/-- An exchange vertex of an accepted job opens: it takes what came early, and grants
its credits. -/
def exchOpen (s : State) (x : Vx) : State :=
  let key := jobKey x.plan.mode x.job.entry
  let mine := fun (r : ExchEarly) =>
    r.kennel == x.job.kennel && r.channel == exChannel x.vert.cfg && r.jobkey == key
  let got := s.leash.early.filter mine
  let s := { s with leash := { s.leash with early := s.leash.early.filter (fun r => !mine r) } }
  let s := modExch s x (fun e => { e with
    jobkey := key, opened := true,
    credits := got.foldl (fun t r => tset t r.src (tget t r.src 0 + r.credits)) e.credits,
    ended := (got.filter (·.ended)).map (·.src) })
  (exNodes x.vert.cfg).foldl (fun s n => giveCredits s x n (exCredits x.vert.cfg)) s

/-- Tells every other participant that this one's job has ended badly (R486). -/
def exchAbort (s : State) (k : Nat) (c : Bytes) (key status : Nat) : State :=
  ((exNodes c).filter (· != nodeId s)).foldl (fun s n =>
    exchSend s k (exChannel c) 9 n (toLe 8 key ++ toLe 2 status)) s

/-- A check of a JOB_START fails, so that it retires at once. -/
def jobRefused (s : State) (k : Nat) (e : Bytes) : Bool :=
  (jobFault s k e).isSome || ((plan? s k (jePlan e)).bind (fun p => exchFault s k p e)).isSome

/-- A JOB_START is accepted: its checks in order (R105, R486), and its start. -/
def acceptJob (s : State) (k w seq : Nat) (e : Bytes) : State :=
  match jobFault s k e with
  | some (status, vid) => refuseJob s k w seq e status vid
  | none =>
    match plan? s k (jePlan e) with
    | none => s
    | some p =>
      match exchFault s k p e with
      | some (status, vid) =>
        let s := (exchVerts p).foldl (fun s v =>
          exchAbort s k v.1.cfg (jobKey p.mode e) status) s
        refuseJob s k w seq e status vid
      | none =>
        let j := s.nextJob
        (exchVerts p).foldl (fun s v =>
          match vx? s { job := j, vid := v.2 } with
          | some x => exchOpen s x
          | none => s) (startJob s k w seq e p)

/-! ### Sending (R483, R484) -/

/-- The bytes of a key value that are hashed: one NaN, one zero. -/
def keyBytes (ty v : Nat) : Bytes :=
  let w := tyWidth ty
  let v := if tyFloat ty then (if fIsNaN w v then fNaN w else if fIsZero w v then 0 else v) else v
  toLe (ceilDiv w 8) (v % 2 ^ w)

/-- The destination index of each row (R483). A key column that the tile lacks is
null. (DEDUCED, safe: log entry 65.) -/
def exchPartition (c : Bytes) (t : PTile) : Except Nat (List Nat) := do
  let cols ← ((List.range (exNKey c)).map (exKey c)).mapM (fun k =>
    match stripOf t k.1 with
    | none => Except.ok (k, ([] : List (Option Nat)))
    | some p => (stripValues p t.rows).map (fun vs => (k, vs)))
  .ok ((List.range t.rows).map (fun i =>
    let vals := cols.map (fun (k, vs) => ((vs[i]?).getD none).map (fun v => keyBytes k.2.1 v))
    if vals.any Option.isNone then 0
    else crc32c (vals.flatMap (·.getD [])) % max 1 (exNNode c)))

/-- The tiles that an input tile becomes, each with its node. -/
def exchSplit (c : Bytes) (t : PTile) (raw : Bytes) : Except Nat (List (Nat × Bytes)) :=
  let nodes := exNodes c
  match exMode c with
  | 0 => do
    let parts ← exchPartition c t
    let cols ← carryAll t (t.strips.map (·.colid))
    let outs ← ((List.range nodes.length).zip nodes).mapM (fun (i, n) => do
      let keep := (List.range t.rows).filter (fun r => parts[r]? == some i)
      if keep.isEmpty then Except.ok none
      else
        let b ← emitRows t t.event keep cols
        Except.ok (some (n, b)))
    .ok (outs.filterMap id)
  | 1 => .ok (nodes.map (fun n => (n, raw)))
  | _ => .ok ((nodes.take 1).map (fun n => (n, raw)))

/-- A received tile with the sender's ID in its added strip (R482). -/
def exchStamp (s : State) (x : Vx) (src : Nat) (b : Bytes) : Except Nat Bytes :=
  if exColNode x.vert.cfg = 0xFFFF then .ok b
  else do
    let t ← readTile s x b
    let col : Col := { colid := exColNode x.vert.cfg, ty := 4, vals := List.replicate t.rows (some src) }
    .ok (layTile { log2cap := t.log2cap, rows := t.rows, seq := t.seq, rowidBase := t.rowidBase,
                   kennel := t.kennel, dense := t.dense, event := t.event }
          (t.strips.map stripBytes ++ [colBytes col]))

/-- A whole tile has been received: it holds a receive slot until it is published. -/
def exchArrive (s : State) (x : Vx) (src : Nat) (b : Bytes) : State :=
  match exchStamp s x src b with
  | .error e => failVx s x e
  | .ok t =>
    let s := modExch s x (fun e => { e with got := e.got ++ [(src, b)] })
    modVert s x.j x.vid (fun v => { v with outq := v.outq ++ [(0, .tile t)] })

/-- The pieces of a tile on the wire, from an offset. -/
def exchPieces (key seq total : Nat) : Nat → Nat → Bytes → List Bytes
  | 0, _, _ => []
  | n + 1, off, b =>
    if b.isEmpty then []
    else (toLe 8 key ++ toLe 4 off ++ toLe 4 total ++ toLe 8 seq ++ b.take 16344) ::
      exchPieces key seq total n (off + 16344) (b.drop 16344)

/-- Sends a tile to a node, or hands it to this node's own receiver. -/
def exchSendTile (s : State) (x : Vx) (node : Nat) (b : Bytes) : State :=
  if node = nodeId s then exchArrive s x node b
  else
    (exchPieces (jobKey x.plan.mode x.job.entry) (tileSeq b) b.length (b.length / 16344 + 1) 0 b).foldl
      (fun s p => exchSend s x.job.kennel (exChannel x.vert.cfg) 6 node p) s

/-- Sends the tiles for which credits are held, each node's in order. -/
def exchDrain (s : State) (x : Vx) : State :=
  let sends := (exchOf (vertNow s x)).sends
  sends.foldl (fun s (n, b) =>
    let e := exchOf (vertNow s x)
    let c := tget e.credits n 0
    if c = 0 || e.sends.any (·.1 == n) then modExch s x (fun e => { e with sends := e.sends ++ [(n, b)] })
    else exchSendTile (modExch s x (fun e => { e with credits := tset e.credits n (c - 1) })) x n b)
    (modExch s x (fun e => { e with sends := [] }))

/-- After its last tile, the vertex sends XEND to every participant (R484). -/
def exchEnd (s : State) (x : Vx) : State :=
  let e := exchOf (vertNow s x)
  if e.sentEnd || !e.sends.isEmpty || !portEnded (again s x) 0 then s
  else
    let s := modExch s x (fun e => { e with sentEnd := true })
    (exNodes x.vert.cfg).foldl (fun s n =>
      if n = nodeId s then modExch s x (fun e => { e with ended := addNew e.ended n })
      else exchSend s x.job.kennel (exChannel x.vert.cfg) 8 n
        (toLe 8 (jobKey x.plan.mode x.job.entry))) s

/-- Sends what can go, releases the input when all of it has gone, and ends. -/
def exchWork (s : State) (x : Vx) : State :=
  let s := exchDrain s x
  let s := if (exchOf (vertNow s x)).sends.isEmpty then releaseHolds s x.j x.vid else s
  exchEnd s x

/-- Every participant has ended, and every tile has gone on (R484). -/
def exchDone (x : Vx) : Bool :=
  let e := exchOf x.st
  e.sentEnd && e.got.isEmpty && e.sends.isEmpty &&
  (exNodes x.vert.cfg).all (fun n => e.ended.contains n)

/-- The oldest received tile has been published: its credit goes back (R484). -/
def exchPublished (s : State) (x : Vx) : State :=
  match (exchOf (vertNow s x)).got with
  | (src, _) :: r => giveCredits (modExch s x (fun e => { e with got := r })) x src 1
  | [] => s

end Sys2Proof.Machine
end

