-- ==== Sys2Proof/Machine/JoinCore.lean ====
section
/-! DEFINITION. The join modes of the Shepherd: keys (R140), the hash join (R141),
the windowed join (R142), output (R143), and the record's checks (R144). -/

namespace Sys2Proof.Machine

open Sys2Proof

def eSheBuildFull : Nat := 0x0510
def eSheWindowFull : Nat := 0x0511
def eSheOrder : Nat := 0x0512
def eSheColumn : Nat := 0x0513

/-! ### The record (R144) -/

def joinMode (cfg : Bytes) : Nat := le cfg 0 1
def joinType (cfg : Bytes) : Nat := le cfg 2 1
def joinNKey (cfg : Bytes) : Nat := le cfg 3 1
def joinRows (cfg : Bytes) : Nat := le cfg 4 4
def joinWin (cfg : Bytes) : Nat := le cfg 8 4
def joinTCol (cfg : Bytes) (p : Nat) : Nat := le cfg (12 + 2 * p) 2
def joinRowCol (cfg : Bytes) (p : Nat) : Nat := le cfg (16 + 2 * p) 2
def joinNOut (cfg : Bytes) (p : Nat) : Nat := le cfg (20 + p) 1

/-- Key columns of port `p`. -/
def joinKeys (cfg : Bytes) (p : Nat) : List Nat :=
  (List.range (joinNKey cfg)).map (fun k => le cfg (24 + 4 * k + 2 * p) 2)

/-- Carried columns of port `p`: input and output COLID. -/
def joinCarry (cfg : Bytes) (p : Nat) : List (Nat × Nat) :=
  let first := if p = 0 then 0 else joinNOut cfg 0
  (List.range (joinNOut cfg p)).map (fun i =>
    let o := 64 + 4 * (first + i)
    (le cfg o 2, le cfg (o + 2) 2))

def joinWindowed (cfg : Bytes) : Bool := joinMode cfg == 3

/-! ### Keys (R140) -/

/-- A key cell with −0 made +0. -/
def joinCell (ty : Nat) (c : Cell) : Cell :=
  match c.val with
  | some v => if tyFloat ty && fIsZero (tyWidth ty) v then { c with val := some 0 } else c
  | none => c

/-- Two key cells match: by code under one DICTREF, else by value; a NaN by value
matches nothing. (DEDUCED, unsafe: log entry 81.) -/
def keyCellEq (ty : Nat) (a b : Cell) : Bool :=
  match a.val, b.val with
  | some x, some y =>
    match a.dict, b.dict with
    | some (ca, ra, _), some (cb, rb, _) =>
      if ra = rb then ca == cb else x == y && !(tyFloat ty && fIsNaN (tyWidth ty) x)
    | _, _ => x == y && !(tyFloat ty && fIsNaN (tyWidth ty) x)
  | _, _ => false

def keyMatch : List Nat → List Cell → List Cell → Bool
  | [], [], [] => true
  | t :: ts, a :: as, b :: bs => keyCellEq t a b && keyMatch ts as bs
  | _, _, _ => false

/-! ### Columns -/

/-- The columns that port `p` reads. -/
def joinColumns (cfg : Bytes) (p : Nat) : List Nat :=
  joinKeys cfg p ++ (if joinWindowed cfg then [joinTCol cfg p] else []) ++
  (joinCarry cfg p).map (·.1)

/-- Every column is there, and TYPE and FRAC are those of the port's first tile. -/
def joinPortOk (cfg : Bytes) (p : Nat) (sig : List ColSig) (t : PTile) : Bool :=
  let cs := joinColumns cfg p
  cs.all (fun c => (stripOf t c).isSome) &&
  (sig.isEmpty ||
   (cs.zip sig).all (fun q =>
     match stripOf t q.1 with
     | some s => s.ty == q.2.ty && s.frac == q.2.frac
     | none => false))

/-- The signatures of the columns that port `p` reads from a tile. -/
def joinSigs (cfg : Bytes) (p : Nat) (t : PTile) : List ColSig :=
  (joinColumns cfg p).filterMap (fun c => (stripOf t c).map stripSig)

/-- The paired key columns agree, their widths fit, and time columns are integers
(R140, R142). -/
def joinPairOk (cfg : Bytes) (sig0 sig1 : List ColSig) : Bool :=
  let n := joinNKey cfg
  let k0 := sig0.take n
  let k1 := sig1.take n
  (sig0.isEmpty || sig1.isEmpty ||
   (k0.zip k1).all (fun q => q.1.ty == q.2.ty && q.1.frac == q.2.frac)) &&
  sumOf k0 (fun g => tyWidth g.ty) ≤ 128 && sumOf k1 (fun g => tyWidth g.ty) ≤ 128 &&
  (!joinWindowed cfg ||
   ([sig0, sig1].all (fun s => match s[n]? with | some g => tyInteger g.ty | none => true)))

/-- The rows of a tile on port `p`: key, time and carried cells. A row of a
windowed join without a time has no key. -/
def joinRowsOf (cfg : Bytes) (p : Nat) (t : PTile) :
    Except Nat (List (JRow × Option Int)) := do
  let cols ← columnsCells eSheColumn t (joinColumns cfg p)
  let ids ← rowIds t
  let n := joinNKey cfg
  .ok ((List.range t.rows).map (fun i =>
    let at_ := fun (c : ColSig × List Cell) => (c.2[i]?).getD { val := none }
    let keys := (cols.take n).map (fun c => joinCell c.1.ty (at_ c))
    let usable := (cols.take n).all (fun c => (at_ c).val.isSome)
    let time : Option Int :=
      if joinWindowed cfg then
        match cols[n]? with
        | some c => (at_ c).val.map (valInt c.1.ty)
        | none => none
      else some 0
    let rest := cols.drop (if joinWindowed cfg then n + 1 else n)
    ({ key := if usable && time.isSome then some keys else none, time := time.getD 0,
       cols := rest.map at_, rowid := (ids[i]?).getD 0 }, time)))

/-! ### Output (R143) -/

/-- An output row: port-0 cells, port-1 cells, then the two row ids. -/
def joinOutRow (cfg : Bytes) (a b : Option JRow) : List Cell :=
  let side := fun (p : Nat) (r : Option JRow) =>
    match r with
    | some r => r.cols
    | none => (joinCarry cfg p).map (fun _ => ({ val := none } : Cell))
  let idCell := fun (r : Option JRow) => ({ val := r.map (·.rowid) } : Cell)
  side 0 a ++ side 1 b ++ [idCell a, idCell b]

/-- A null cell that takes part in a DICT column of the others, or of nulls alone: `sig` is
the column as the input gave it. -/
def fitNulls (sig : Option ColSig) (cells : List Cell) : List Cell :=
  let fit := match cells.find? (fun c => c.dict.isSome), sig with
    | some d, _ => d.dict.map (fun x => (0, x.2.1, x.2.2))
    | none, some g =>
      if cells.all (fun c => c.val.isNone) then g.dict.map (fun r => (0, r, g.width)) else none
    | none, none => none
  cells.map (fun c => if c.val.isNone && c.dict.isNone then { c with dict := fit } else c)

/-- One output tile from rows, SEQ left 0. -/
def joinTile (cfg : Bytes) (kennel log2cap base : Nat) (st : JoinSt) (rows : List (List Cell)) :
    Bytes :=
  let n := joinNKey cfg + (if joinWindowed cfg then 1 else 0)
  let sigs := (st.sig0.drop n).map some ++ List.replicate (joinNOut cfg 0 - (st.sig0.drop n).length) none
    ++ (st.sig1.drop n).map some
  let outs := (joinCarry cfg 0 ++ joinCarry cfg 1).map (·.2)
  let cols := outs.mapIdx (fun i o =>
    let g := ((sigs[i]?).getD none)
    let cells := fitNulls g (columnOf rows i)
    let nulls := cells.any (fun c => c.val.isNone)
    cellCol o (match g with | some g => g.ty | none => 8) (match g with | some g => g.frac | none => 0)
      (nulls || (match g with | some g => g.hasValid | none => true)) cells)
  let idCol := fun (p i : Nat) =>
    if joinRowCol cfg p = 0xFFFF then [] else
      let cells := columnOf rows i
      [({ colid := joinRowCol cfg p, ty := 8, hasValid := cells.any (fun c => c.val.isNone),
          vals := cells.map (·.val) } : Col)]
  buildTile { log2cap, rows := rows.length, seq := 0, rowidBase := base % 2 ^ 48, kennel,
              dense := true, event := false }
    (cols ++ idCol 0 outs.length ++ idCol 1 (outs.length + 1))

/-- Cuts full output tiles off the rows gathered; all of them with `flush`. -/
def joinFlush (cfg : Bytes) (kennel log2cap : Nat) (flush : Bool) :
    Nat → JoinSt → JoinSt × List Bytes
  | 0, st => (st, [])
  | n + 1, st =>
    let cap := 2 ^ log2cap
    if st.outRows.length ≥ cap || (flush && !st.outRows.isEmpty) then
      let rows := st.outRows.take cap
      let b := joinTile cfg kennel log2cap st.nextRow st rows
      let (st', bs) := joinFlush cfg kennel log2cap flush n
        { st with outRows := st.outRows.drop cap, nextRow := st.nextRow + rows.length }
      (st', b :: bs)
    else (st, [])

/-! ### The hash join (R141) -/

/-- One build tile; counts nothing. -/
def joinBuild (cfg : Bytes) (st : JoinSt) (t : PTile) : Except Nat JoinSt :=
  let sig0 := if st.sig0.isEmpty then joinSigs cfg 0 t else st.sig0
  if !joinPortOk cfg 0 st.sig0 t || !joinPairOk cfg sig0 st.sig1 then .error eSheColumn
  else do
    let rows ← joinRowsOf cfg 0 t
    let keyed := (rows.map (·.1)).filter (fun r => r.key.isSome)
    if st.rows0.length + keyed.length > joinRows cfg then .error eSheBuildFull
    else .ok { st with sig0, rows0 := st.rows0 ++ keyed }

/-- The stored rows that match a row, in storage order. -/
def joinMatches (tys : List Nat) (r : JRow) (stored : List JRow) : List JRow :=
  match r.key with
  | none => []
  | some k => stored.filter (fun s => match s.key with | some k' => keyMatch tys k' k | none => false)

/-- The output rows of one probe row by JTYPE. -/
def probeRow (cfg : Bytes) (tys : List Nat) (st : JoinSt) (r : JRow) : List (List Cell) :=
  let ms := joinMatches tys r st.rows0
  match joinType cfg with
  | 0 => ms.map (fun m => joinOutRow cfg (some m) (some r))
  | 1 => if ms.isEmpty then [joinOutRow cfg none (some r)]
         else ms.map (fun m => joinOutRow cfg (some m) (some r))
  | 2 => if ms.isEmpty then [] else [joinOutRow cfg none (some r)]
  | _ => if ms.isEmpty then [joinOutRow cfg none (some r)] else []

/-- One probe tile: the state, and how many matches were made. -/
def joinProbe (cfg : Bytes) (st : JoinSt) (t : PTile) : Except Nat (JoinSt × Nat) :=
  let sig1 := if st.sig1.isEmpty then joinSigs cfg 1 t else st.sig1
  if !joinPortOk cfg 1 st.sig1 t || !joinPairOk cfg st.sig0 sig1 then .error eSheColumn
  else do
    let rows ← joinRowsOf cfg 1 t
    let tys := (sig1.take (joinNKey cfg)).map (·.ty)
    let outs := (rows.map (fun r => probeRow cfg tys st r.1)).flatten
    let found := sumOf rows (fun r => (joinMatches tys r.1 st.rows0).length)
    .ok ({ st with sig1, outRows := st.outRows ++ outs }, found)

/-! ### The windowed join (R142) -/

/-- One arriving row on port `p`; `ended` says that the other port has ended. A row
that the other port's watermark has passed already is dropped as it is stored.
(DEDUCED, unsafe: log entry 82.) -/
def winRow (cfg : Bytes) (p : Nat) (ended : Bool) (tys : List Nat) (st : JoinSt)
    (r : JRow) (time : Option Int) : Except Nat (JoinSt × Nat) :=
  let mark := if p = 0 then st.mark0 else st.mark1
  let win : Int := joinWin cfg
  let low : Bool := match time, mark with
    | some t, some m => decide (t < m)
    | _, _ => false
  if low then .error eSheOrder
  else
    let other := if p = 0 then st.rows1 else st.rows0
    let near := fun (s : JRow) => (r.time - s.time).natAbs ≤ win.natAbs
    let ms := (joinMatches tys r other).filter near
    let outs := ms.map (fun m =>
      if p = 0 then joinOutRow cfg (some r) (some m) else joinOutRow cfg (some m) (some r))
    let mark' := match time with
      | some t => some t
      | none => mark
    let live := match mark' with
      | some m => other.filter (fun s => m ≤ s.time + win)
      | none => other
    let past : Bool := match (if p = 0 then st.mark1 else st.mark0) with
      | some m => decide (r.time + win < m)
      | none => false
    let stays := r.key.isSome && !ended && !past
    let mine := (if p = 0 then st.rows0 else st.rows1) ++ (if stays then [r] else [])
    if stays && mine.length + live.length > joinRows cfg then
      .error eSheWindowFull
    else
      let st := { st with outRows := st.outRows ++ outs }
      .ok (if p = 0 then { st with rows0 := mine, rows1 := live, mark0 := mark' }
           else { st with rows1 := mine, rows0 := live, mark1 := mark' }, ms.length)

/-- The rows of a tile one after another. -/
def winRows (cfg : Bytes) (p : Nat) (ended : Bool) (tys : List Nat) :
    List (JRow × Option Int) → JoinSt → Nat → Except Nat (JoinSt × Nat)
  | [], st, n => .ok (st, n)
  | (r, time) :: rest, st, n => do
    let (st', m) ← winRow cfg p ended tys st r time
    winRows cfg p ended tys rest st' (n + m)

/-- One tile of a windowed join on port `p`. -/
def joinWindow (cfg : Bytes) (p : Nat) (ended : Bool) (st : JoinSt) (t : PTile) :
    Except Nat (JoinSt × Nat) :=
  let mine := if p = 0 then st.sig0 else st.sig1
  let sig := if mine.isEmpty then joinSigs cfg p t else mine
  let st' := if p = 0 then { st with sig0 := sig } else { st with sig1 := sig }
  if !joinPortOk cfg p mine t || !joinPairOk cfg st'.sig0 st'.sig1 then .error eSheColumn
  else do
    let rows ← joinRowsOf cfg p t
    winRows cfg p ended ((sig.take (joinNKey cfg)).map (·.ty)) rows st' 0

/-- After a port's end mark its watermark is unbounded: the other port's stored
rows are dropped. -/
def winEnded (p : Nat) (st : JoinSt) : JoinSt :=
  if p = 0 then { st with rows1 := [] } else { st with rows0 := [] }

/-! ### Admission (R144) -/

/-- The least E that the record allows: the types of its columns are known only
at run time, so each key and carried column counts one byte (DEDUCED, unsafe: log entry 30). -/
def joinEntry (cfg : Bytes) : Nat :=
  let carried := if joinWindowed cfg then min (joinNOut cfg 0) (joinNOut cfg 1) else joinNOut cfg 0
  alignUp (16 + joinNKey cfg + carried) 16

/-- Check 5 of R99 for a join vertex; `fromIngest` says that an input edge comes
from an SRC_INGEST vertex. -/
def joinConfigOk (cfg : Bytes) (defer : Bool) (spillKib : Nat) (fromIngest : Bool) : Bool :=
  let hash := joinMode cfg == 2
  let outs := ((joinCarry cfg 0 ++ joinCarry cfg 1).map (·.2)) ++
    [joinRowCol cfg 0, joinRowCol cfg 1].filter (· != 0xFFFF)
  let nk := joinNKey cfg
  (hash || joinMode cfg == 3) && le cfg 1 1 == 1 && joinType cfg ≤ 3 &&
  (hash || joinType cfg == 0) && (defer == hash) && 1 ≤ nk && nk ≤ 4 &&
  1 ≤ joinRows cfg && joinRows cfg ≤ 268435456 &&
  (if hash then joinWin cfg == 0 && joinTCol cfg 0 == 0xFFFF && joinTCol cfg 1 == 0xFFFF
   else joinTCol cfg 0 ≤ 0xFF05 && joinTCol cfg 1 ≤ 0xFF05) &&
  joinNOut cfg 0 ≤ 16 && joinNOut cfg 1 ≤ 16 && zeroes cfg 22 2 && zeroes cfg 40 24 &&
  (joinType cfg < 2 || joinNOut cfg 0 == 0) &&
  cfg.length == 64 + 4 * (joinNOut cfg 0 + joinNOut cfg 1) &&
  (List.range 4).all (fun k =>
    let a := le cfg (24 + 4 * k) 2
    let b := le cfg (26 + 4 * k) 2
    if k < nk then a ≤ 0xFF05 && b ≤ 0xFF05 else a == 0xFFFF && b == 0xFFFF) &&
  (joinCarry cfg 0 ++ joinCarry cfg 1).all (fun c => c.1 ≤ 0xFF05) &&
  allDistinct outs && outs.all (· ≤ 0xFEFF) && !fromIngest &&
  ceilDiv (joinRows cfg * joinEntry cfg) 1024 ≤ spillKib

end Sys2Proof.Machine
end

