-- ==== Sys2Proof/Machine/JobFlow.lean ====
section
/-! DEFINITION. The scheduling of vertices on engines (R101, R402), publishing (R116,
R119), ends (R108) and the retirement of jobs (R108 to R111). -/

namespace Sys2Proof.Machine

open Sys2Proof

/-! ### Engine states -/

def joinOf (v : VertSt) : JoinSt := match v.eng with | .join j => j | _ => {}
def facetOf (v : VertSt) : FacetSt := match v.eng with | .facet f => f | _ => {}
def sortOf (v : VertSt) : SortSt := match v.eng with | .sort f => f | _ => {}
def aggOf (v : VertSt) : AggSt := match v.eng with | .agg f => f | _ => {}
def czeOf (v : VertSt) : CzeSt := match v.eng with | .cze f => f | _ => {}
def dgeOf (v : VertSt) : List DgeTile := match v.eng with | .dge f => f | _ => []

/-- A GATE port holds a tile back, not a skip mark behind one. -/
def gateHolds (port : Nat) (g : GateTile) : Bool :=
  g.port == port && (match g.item with | .tile _ => true | .skip _ => false)

/-- The CONST section of a plan (R89). -/
def planConst (p : Plan) : Bytes := slice p.image (le p.image 96 4) (le p.image 100 4)

/-- A GATE port of the vertex holds as many tiles as it may (R165). -/
def gateFull (x : Vx) : Bool :=
  (List.range x.vert.nout).any (fun i =>
    let p := facetPort x.vert.cfg i
    portGate p && p.gateDepth ≤ (facetOf x.st).gate.countP (gateHolds i))

/-! ### Engines (R101, R402, R507) -/

/-- The vertex has an input, or final work, that its engine can do now. -/
def engineReady (x : Vx) : Bool :=
  let c := x.vert.cfg
  x.st.outq.isEmpty && !x.st.finished &&
  (if isBuild x then !(buildOf x.st).block.isEmpty || portReady x 0
   else if x.vert.kind = kShepherd then
     if sheMode c = 2 then portReady x 0 || (portEnded x 0 && portReady x 1)
     else portReady x 0 || portReady x 1
   else if x.vert.kind = kFacet then portReady x 0 && !gateFull x
   else if x.vert.kind = kSort then portReady x 0 || (portEnded x 0 && !(sortOf x.st).finished)
   else if x.vert.kind = kAgg then
     (List.range x.vert.nin).any (portReady x) || (allEnded x && !(aggOf x.st).finished)
   else portReady x 0 && (!czeRestore c || (czeOf x.st).restored))

/-- The vertices that an engine could serve now, in order of plan handle, VID and job. -/
def engineCands (s : State) (kind inst : Nat) : List Vx :=
  let all := (buildVertices s).filterMap (fun v =>
    match liveVx s v with
    | some x =>
      if x.vert.kind = kind ∧ x.vert.inst = inst ∧ engineReady x then some x else none
    | none => none)
  sortBy (fun a b => a.job.plan < b.job.plan || (a.job.plan == b.job.plan &&
    (a.vid < b.vid || (a.vid == b.vid && a.j < b.j)))) all

/-- The candidate after the last winner of its kennel. -/
def nextCand (last : Option (Nat × Nat × Nat)) (l : List Vx) : Option Vx :=
  match last with
  | none => l.head?
  | some (h, v, j) =>
    match l.find? (fun x => h < x.job.plan || (h == x.job.plan &&
        (v < x.vid || (v == x.vid && j < x.j)))) with
    | some x => some x
    | none => l.head?

/-- Weight of a kennel at an engine of a kind. -/
def kennelWeight (s : State) (k kind : Nat) : Nat :=
  ((kennel? s k).map (fun x => engineWeight x.share kind)).getD 0

/-- The engine grants its next tile: the new entry and the vertex served. -/
def engineGrant (s : State) (e : EngineId) : Option (EngineSt × Vx) :=
  let (kind, inst) := engineKind e
  let st := engineSt s e
  let cands := (engineCands s kind inst).filter (fun x => 0 < kennelWeight s x.job.kennel kind)
  let ks := sortBy (· < ·) ((cands.map (·.job.kennel)).foldl addNew [])
  let urgent := ks.filter (fun k => arbAge s ≤ tget st.lost k 0)
  let stay := urgent.isEmpty && ks.contains st.cur && 0 < st.budget
  let win := if stay then some st.cur else rrNext st.cur (if urgent.isEmpty then ks else urgent)
  match win with
  | none => none
  | some k =>
    match nextCand (tfind? st.last k) (cands.filter (fun x => x.job.kennel == k)) with
    | none => none
    | some x =>
      let budget := if stay || (k = st.cur && 0 < st.budget) then st.budget - 1
        else kennelWeight s k kind - 1
      some ({ serving := some { job := x.j, vid := x.vid }, cur := k, budget,
              lost := rrLost st.lost ks k, last := tset st.last k (x.job.plan, x.vid, x.j) }, x)

/-! ### Publishing (R94, R116, R119) -/

/-- The destinations of an item of an edge, by place (R94). -/
def itemDests (e : Edge) (seq : Nat) : List Nat :=
  if eDeal e then [seqOrdinal seq % max 1 e.dsts.length] else List.range e.dsts.length

/-- Adds an item to the queues of some destinations. -/
def pushItem (s : State) (j eid : Nat) (ds : List Nat) (it : EItem) : State :=
  modEdge s j eid (fun g => { g with queues := g.queues.mapIdx (fun i q =>
    if ds.contains i then q ++ [it] else q) })

/-- A destination is still on port 0, so that a tile for it may go to its spill area
(R119). -/
def spillsNow (s : State) (j : Nat) (d : Nat × Nat) : Bool :=
  match vx? s { job := j, vid := d.1 } with
  | some x => vDefer x.vert && d.2 != 0 && !portEnded x 0
  | none => false

/-- A tile goes to the spill areas of its destinations. -/
def spillTile (s : State) (x : Vx) (eid : Nat) (e : Edge) (ds : List Nat) (b : Bytes) : State :=
  ds.foldl (fun s i =>
    match (e.dsts[i]?).bind (fun d => vx? s { job := x.j, vid := d.1 }) with
    | none => s
    | some d =>
      if 1024 * d.vert.spillKib < d.st.spilled + b.length then failVx s d eJobSpill
      else pushItem (modVert s x.j d.vid (fun v => { v with spilled := v.spilled + b.length }))
        x.j eid [i] (.spilled b)) s

/-- The vertex's request for a tile slot. -/
def tileReq (x : Vx) : SlotReq := { kennel := x.job.kennel, a := x.j, b := x.vid }

/-- A tile slot is free for the vertex: slots granted to others are not, and it passes no
other requester (R27, R29). -/
def tileSlotFree (s : State) (x : Vx) : Bool :=
  let held := s.slots.tileGrant.filter (· != tileReq x)
  slotTurn s .tile (· == tileReq x) &&
  deviceTiles s + held.length < 16384 &&
  kennelTiles s x.job.kennel + (held.filter (fun g => g.kennel == x.job.kennel)).length <
    ((kennel? s x.job.kennel).map tileLimit).getD 0

/-- The vertex waits for a tile slot. -/
def awaitTile (s : State) (x : Vx) : State :=
  if s.slots.tileWait.contains (tileReq x) || s.slots.tileGrant.contains (tileReq x) then s
  else { s with slots := { s.slots with tileWait := s.slots.tileWait ++ [tileReq x] } }

/-- What follows when an output of a vertex has been published. -/
def published (s : State) (x : Vx) : State :=
  let y := again s x
  if isBuild x then appendRows s y
  else if x.vert.kind = kExch then exchWork (exchPublished s y) y
  else if x.vert.kind = kDge then s
  else if y.st.outq.isEmpty then releaseHolds s x.j x.vid else s

/-- Publishes the first output of a port: `none` where it must wait (R116). -/
def publishNext (s : State) (x : Vx) (port : Nat) : Option State :=
  match (x.st.outq.zip (List.range x.st.outq.length)).find? (fun o => o.1.1 == port),
        outEdge? x.plan x.vid port with
  | some ((_, item), i), some (eid, e) =>
    let out := fun (s : State) => modVert s x.j x.vid (fun v => { v with outq := v.outq.eraseIdx i })
    match item with
    | .skip q => some (published (pushItem (out s) x.j eid (itemDests e q) (.skip q)) x)
    | .tile b =>
      let seq := tileSeq b
      let ds := itemDests e seq
      let done := fun (s : State) => published (cntVertex s x.job.kennel x.job.plan x.vid 63 1) x
      if creditFree s x eid e seq then
        if tileSlotFree s x then
          let slot := ((x.job.edges[eid]?).map (·.nextSlot)).getD 0 + 1
          let s := { s with slots := { s.slots with
            tileArb := s.slots.tileArb.won [] x.job.kennel,
            tileWait := s.slots.tileWait.filter (· != tileReq x),
            tileGrant := s.slots.tileGrant.filter (· != tileReq x) } }
          let s := modEdge (out s) x.j eid (fun g => { g with
            nextSlot := slot, slots := g.slots ++ [(slot, ds.length)] })
          some (done (pushItem s x.j eid ds (.tile slot b)))
        else some (awaitTile s x)
      else if eSpill e && ds.all (fun i => (e.dsts[i]?).any (spillsNow s x.j)) then
        some (done (spillTile (out s) x eid e ds b))
      else none
  | _, _ => none

/-! ### Ends (R107, R108) -/

/-- Every event-building Shepherd of the job has closed the job's last epoch (R107). -/
def ingestEnded (s : State) (x : Vx) : Bool :=
  (List.range x.job.verts.length).all (fun vid =>
    match vx? s { job := x.j, vid } with
    | some y => !isBuild y || lastClosed y
    | none => true)

/-- The last work of a vertex whose inputs have ended; it may leave outputs. -/
def lastWork (s : State) (x : Vx) : State :=
  if x.vert.kind = kSrcIngest then
    let s := publishBlocks (takeEarly s x) x (fun _ => true)
    let left := (ingestOf (vertNow s x)).early.length
    addNojob (modIngest s x.j x.vid (fun i => { i with early := [] })) x.job.kennel x.job.plan left
  else if isBuild x then
    if (buildOf x.st).block.isEmpty then
      publishAll ((inOrder x (buildOf x.st).opens).foldl (closeEvent x s.fclk 2) s) x
    else s
  else if x.vert.kind = kShepherd then
    let (st, outs) := joinFlush x.vert.cfg x.job.kennel (outCap x.plan x.vid 0) true
      ((joinOf x.st).outRows.length + 1) (joinOf x.st)
    putOrigin (setEng s x (.join st)) x 0 outs
  else if x.vert.kind = kExch then exchEnd s x
  else s

/-- The vertex has nothing left to do or to publish. (DEDUCED, safe: log entry 18.) -/
def workDone (s : State) (x : Vx) : Bool :=
  let v := x.st
  let kind := x.vert.kind
  v.outq.isEmpty &&
  (if kind = kSrcIngest then (ingestOf v).opens.isEmpty
   else if kind = kSrcTs then tsDone x
   else if kind = kShepherd then
     if isBuild x then (buildOf v).block.isEmpty && (buildOf v).heldRows.isEmpty &&
       (buildOf v).outs.isEmpty && (buildOf v).opens.isEmpty
     else (joinOf v).outRows.isEmpty
   else if kind = kFacet then (facetOf v).gate.isEmpty
   else if kind = kSort then (sortOf v).finished
   else if kind = kAgg then (aggOf v).finished
   else if kind = kCze then v.finished && (!czeSave x.vert.cfg || (czeOf v).saved)
   else if kind = kDge then (dgeOf v).isEmpty
   else if kind = kExch then exchDone x
   else if kind = kHound then x.vert.units.all (fun h => v.houndsDone.contains h)
   else v.inHold.isEmpty) &&
  (kind != kSrcIngest || ingestEnded s x)

/-- Puts an end mark on every output edge. -/
def sendEnds (s : State) (x : Vx) : State :=
  let s := (x.plan.edges.zip (List.range x.plan.edges.length)).foldl (fun s (e, i) =>
    if e.src = x.vid then pushItem s x.j i (List.range e.dsts.length) .endMark else s) s
  modVert s x.j x.vid (fun v => { v with endSent := true })

/-- A vertex whose inputs have ended does its last work, and sends its end marks once
nothing is left (R108). -/
def endVertex (s : State) (x : Vx) : State :=
  let s := lastWork s x
  let x := again s x
  if workDone s x then sendEnds s x else s

/-! ### Retirement (R108, R109) -/

/-- The vertices of a plan keep nothing for a job. -/
def planForget (j : Nat) (p : Plan) : Plan :=
  { p with
    tombs := p.tombs.map (fun (v, ts) => (v, ts.filter (·.job != j))),
    bitmaps := p.bitmaps.map (fun (v, bs) => (v, bs.filter (·.job != j))) }

/-- Forgets what units keep for a job. -/
def forgetJob (s : State) (j : Nat) : State :=
  { s with
    kennels := s.kennels.map (fun (k, x) =>
      (k, { x with plans := x.plans.map (fun (h, p) => (h, planForget j p)) })),
    engines := s.engines.map (fun (e, st) =>
      (e, if st.serving.any (fun v => v.job == j) then { st with serving := none } else st)),
    slots := { s.slots with
      tileWait := s.slots.tileWait.filter (fun g => g.a != j),
      tileGrant := s.slots.tileGrant.filter (fun g => g.a != j) },
    hounds := s.hounds.map (fun (h, x) =>
      (h, if x.job = some j then { x with job := none } else x)) }

/-- A job ends: its slots go back, and its completion falls due. -/
def retireJob (s : State) (j : Nat) (b : Job) (status vid : Nat) : State :=
  let s := modJob (forgetJob s j) j (fun b => { b with retired := true, edges := [], verts := [] })
  completeEntry s b.kennel b.wq b.seq status vid b.result0 0 (some j)

/-- Every vertex of the job has stopped. -/
def allStopped (b : Job) : Bool := b.verts.all (·.stopped)

/-- An abandoned job all of whose vertices have stopped is gone: its entry leaves
flight with no completion (R390, R391). In a kennel reset its slots go back when the
drain ends (R410). -/
def dropAbandoned (s : State) (j : Nat) : State :=
  match job? s j with
  | some b =>
    if b.abandoned && allStopped b then
      let s := forgetJob s j
      let s := modWq s b.kennel b.wq (fun q => { q with
        inflight := q.inflight.filter (fun f => !decide (f.work = .job j)),
        reset := q.reset.map (fun r => { r with waitFor := r.waitFor.filter (· != b.seq) }) })
      if ((kennel? s b.kennel).map (·.state)).getD 1 = 3 then s else { s with jobs := tdel s.jobs j }
    else s
  | none => s

/-- A vertex of a failed or abandoned job stops: what it holds is discarded, its tile slots
are free (R109, R111), and its digest contexts return to EMPTY (R335). -/
def stopVertex (s : State) (x : Vx) : State :=
  let s := if x.vert.kind = kExch then
      exchAbort s x.job.kennel x.vert.cfg (jobKey x.plan.mode x.job.entry)
        ((x.job.failed.map (·.1)).getD eLshPeer)
    else s
  let s := { s with dge := { s.dge with ctxs := s.dge.ctxs.map (fun (i, c) =>
    (i, match c.user, c.tile with
        | .vertex _ vid _, some (j, _) => if vid = x.vid ∧ j = x.j then ctxEmpty c else c
        | _, _ => c)) } }
  let s := modVert (releaseHolds s x.j x.vid) x.j x.vid (fun _ => { stopped := true })
  let s := { s with engines := s.engines.map (fun (e, st) =>
    (e, if st.serving = some { job := x.j, vid := x.vid } then { st with serving := none } else st)) }
  dropAbandoned s x.j

end Sys2Proof.Machine
end

