-- ==== Sys2Proof/Machine/Aggregate.lean ====
section
/-! DEFINITION. Meanings of the aggregation engines' commands (R179 to R187). -/

namespace Sys2Proof.Machine

open Sys2Proof

/-- Adds to the counters of an aggregation engine, and of the vertex (R192, R452). -/
def cntAgg (s : State) (x : Vx) (ns : List Nat) : State :=
  cntBoth s (0x80010 + 0x1000 * x.vert.inst) x.job.kennel x.job.plan x.vid ns

/-- The AGG vertex that an engine serves. -/
def servedAgg (s : State) (agg : Fin 8) : Option Vx :=
  match servedIdle s (.agg agg) with
  | some x => if x.vert.kind = kAgg then some x else none
  | none => none

/-- The input ports that have a tile to take. -/
def aggReady (x : Vx) : List Nat := (List.range x.vert.nin).filter (portReady x)

/-- The input port that goes next (R186, R507). -/
def aggPort (age : Nat) (x : Vx) : Option Nat :=
  (aggOf x.st).arb.pick age (aggReady x)

/-- AGG_INPUT_TILE (R179 to R187). -/
def execAggInputTile (agg : Fin 8) (s : State) : Result :=
  attempt (fun s =>
    match servedAgg s agg with
    | none => none
    | some x =>
      match aggPort (arbAge s) x with
      | none => none
      | some p =>
        let st := { aggOf x.st with arb := (aggOf x.st).arb.won (aggReady x) p }
        let s' := popIn s x p
        match headTile x p with
        | none => some (engineFree (setEng s' x (.agg st)) (.agg agg))
        | some b =>
          match readTile s x b with
          | .error e => some (finishFail s' x (.agg agg) e)
          | .ok t =>
            match aggTake x.vert.cfg st t with
            | .error e => some (finishFail s' x (.agg agg) e)
            | .ok (st', n) =>
              let s' := cntAgg (noteDicts s' x t) x
                [n.updates, n.groupsNew, n.ovfUpd, 0, n.nullKey, n.hrange, n.hskip, n.sat]
              some (finishOrigin (setEng s' x (.agg st')) x (.agg agg) [])) s

/-- AGG_EMIT (R182, R185). -/
def execAggEmit (agg : Fin 8) (s : State) : Result :=
  attempt (fun s =>
    match servedAgg s agg with
    | none => none
    | some x =>
      let cfg := x.vert.cfg
      let st := aggOf x.st
      if !allEnded x || st.finished then none
      else
        let outs := aggEmitTiles cfg x.job.kennel (outCap x.plan x.vid 0) st
        let sats := if aggMode cfg = 1 then emitSats cfg st else 0
        let s := setEng s x (.agg { st with finished := true })
        some (finishOrigin (cntAgg s x [0, 0, 0, 0, 0, 0, 0, sats]) x (.agg agg) outs)) s

end Sys2Proof.Machine
end

