-- ==== Sys2Proof/Machine/ErrorOps.lean ====
section
/-! DEFINITION. The device-error condition and fatal errors (R504 to R506). -/

namespace Sys2Proof.Machine

open Sys2Proof

/-- CAUSE and SOURCE of PWR_RAS keep the first error; a cause to which no event source
belongs has an open SOURCE (DEDUCED, safe: log entry 95). (DEDUCED, unsafe: log entry 51.) -/
def noteCause (s : State) (cause : Nat) (source : Option Nat) : State :=
  if fatal s || devErr s then s
  else
    let (n, s) := match source with
      | some n => (n, s)
      | none => takeFree s
    setRegField (setRegField s 0x130040 48 8 cause) 0x130040 32 10 (n % 1024)

/-- The statuses that the manual defines (R12), as runs: the first and how many. -/
def statusRuns : List (Nat × Nat) :=
  [(0x0101, 5), (0x0110, 4), (0x0201, 6), (0x0210, 2), (0x0301, 6), (0x0401, 10), (0x0410, 11),
   (0x0420, 8), (0x0501, 2), (0x0510, 4), (0x0601, 2), (0x0701, 4), (0x0710, 2), (0x0801, 3),
   (0x0810, 3), (0x0901, 3), (0x0910, 3), (0x0A01, 6), (0x0A10, 2), (0x0B01, 9), (0x0B10, 2),
   (0x0C01, 1), (0x0D01, 8), (0x0E01, 4), (0x0E10, 4), (0x0F01, 7), (0x0F10, 5), (0x1001, 6),
   (0x1010, 3), (0x1101, 3)]

/-- Success, and every status that the manual defines: no other is ever produced (R12). -/
def statusCodes : List Nat := 0 :: statusRuns.flatMap (fun r => (List.range r.2).map (r.1 + ·))

/-- Writes the error record of a device-level error; which status it holds is open. -/
def logDevice (s : State) (source : Option Nat) (severity : Nat) : State :=
  match pick s statusCodes with
  | some (status, s) => logError s (source.getD 0) 0xFF severity status
  | none => s

/-- Every command that has not retired ends, with no completion: the jobs are abandoned, the
table store and the digest engine drop what they hold (R30, R432). -/
def endCommands (s : State) : State :=
  { s with
    jobs := s.jobs.map (fun (j, b) => (j, { b with abandoned := true }))
    store := { s.store with cmds := [] }
    dge := { s.dge with cmds := [] } }

/-- Every verdict that is due will be the default (R505). -/
def deadAll (s : State) : State :=
  { s with timing := { s.timing with events := s.timing.events.map (fun e =>
      { e with dead := true, result := none }) } }

/-- A device error (R432, R505); a second one is logged and changes nothing.
(DESIGN CHOICE, unsafe: log entry 129.) -/
def deviceError (s : State) (cause : Nat) (source : Option Nat) : State :=
  if fatal s then s
  else if devErr s then logDevice s source 2
  else
    let s := setRegField (noteCause s cause source) 0x130040 62 1 1
    let s := deadAll (endCommands { s with power := { s.power with fetchStopped := true } })
    logDevice (raiseEvent s 0) source 2

/-- A fatal error (R432, R506). -/
def fatalError (s : State) (cause : Nat) (source : Option Nat) : State :=
  if fatal s then s
  else
    let s := logDevice (noteCause s cause source) source 3
    let s := setRegField s 0x130040 63 1 1
    endCommands { s with pins := { s.pins with fatalLow := true } }

end Sys2Proof.Machine
end

