-- ==== Sys2Proof/Machine/DramOps.lean ====
section
/-! DEFINITION. What the DRAM controllers keep beside their write queues: channels, and the row tables
(R343 to R347). -/

namespace Sys2Proof.Machine

open Sys2Proof

/-- DDR_GSTATUS (R362). -/
def gstatus (s : State) : Nat := regVal s 0x10F004

/-- The line exists, and DRAM is trained. -/
def dramThere (s : State) (line : Nat) : Bool := bitAt (gstatus s) 2 && 64 * line < 2 ^ log2Cap s

/-- DRAM is trained and not in self-refresh, and the line exists. -/
def dramUp (s : State) (line : Nat) : Bool :=
  bitAt (gstatus s) 2 && !bitAt (gstatus s) 4 && 64 * line < 2 ^ log2Cap s

/-- The channel pauses for a re-tune (R345). -/
def paused (s : State) (c : Nat) : Bool := s.dram.pause == some c

/-- Lines of a channel, and the nth of them (R340). -/
def channelLines (s : State) : Nat := 2 ^ (log2Cap s - 10)
def channelLine (c n : Nat) : Nat := n / 2 * 32 + 2 * c + n % 2

/-! ### Row tables (R346) -/

/-- The row table of a bank of a subchannel. -/
def bankKey (ch sub bank : Nat) : Nat := (2 * ch + sub) * 2 ^ 16 + bank

/-- The first line of a row of a bank, and whether the population has that row (R340). -/
def rowLine (s : State) (ch sub bank row : Nat) : Nat :=
  (row * bankCount s + bank) * 2 ^ (5 + columnBits s) + 2 * ch + sub
def rowUp (s : State) (ch sub bank row : Nat) : Bool :=
  bank < bankCount s && dramUp s (rowLine s ch sub bank row)

/-- The entry with the lowest count, the lowest-numbered of a tie. -/
def lowestEntry (t : List (Nat × Nat)) : Nat :=
  (((t.zip (List.range t.length)).foldl (fun (best : Option (Nat × Nat)) ((_, n), i) =>
    match best with
    | some (m, _) => if n < m then some (n, i) else best
    | none => some (n, i)) none).map (·.2)).getD 0

/-- An activate of row `r`. -/
def rowNote (t : List (Nat × Nat)) (r : Nat) : List (Nat × Nat) :=
  if t.any (·.1 == r) then t.map (fun (x, n) => (x, if x = r then n + 1 else n))
  else if t.length < 16 then t ++ [(r, 1)]
  else lmod t (lowestEntry t) (fun (_, n) => (r, n + 1))

/-- DDR_ACT_CFG.THRESH and RADIUS. -/
def actThresh (s : State) : Nat := regField s 0x10F008 0 16
def actRadius (s : State) : Nat := regField s 0x10F008 16 2

/-- The neighbours of a row that lie in the bank. -/
def rowNeighbours (s : State) (r : Nat) : List Nat :=
  let rows := bankRows s
  (List.range (actRadius s)).flatMap (fun i =>
    (if i + 1 ≤ r then [r - (i + 1)] else []) ++ (if r + i + 1 < rows then [r + i + 1] else []))

/-- Neighbours of rows whose counts have reached THRESH are refreshed, which counts as
activates; then the count is 0. The table, and how often. -/
def rowGuard (s : State) : Nat → List (Nat × Nat) → List (Nat × Nat) × Nat
  | 0, t => (t, 0)
  | fuel + 1, t =>
    match t.find? (fun e => actThresh s ≤ e.2) with
    | none => (t, 0)
    | some (r, _) =>
      let t := (rowNeighbours s r).foldl rowNote t
      let (t, n) := rowGuard s fuel (t.map (fun (x, c) => (x, if x = r then 0 else c)))
      (t, n + 1)

/-- The row tables of a channel are cleared (R347). -/
def clearRows (s : State) (ch : Nat) : State :=
  { s with dram := { s.dram with rows := s.dram.rows.filter (fun e => e.1 / 2 ^ 17 != ch) } }

end Sys2Proof.Machine
end

