-- ==== Sys2Proof/Machine/DgeOps.lean ====
section
/-! DEFINITION. The digest engine's commands and vertices (R321 to R335): checks,
contexts, key slots, and the progress of messages. -/

namespace Sys2Proof.Machine

open Sys2Proof

/-! ### Contexts and slots -/

/-- Changes the digest engine. -/
def modDge (s : State) (f : DgeSt → DgeSt) : State := { s with dge := f s.dge }

def setCtx (s : State) (i : Nat) (c : DgeCtx) : State :=
  modDge s (fun d => { d with ctxs := tset d.ctxs i c })

/-- The context that a MSG_ID of a kennel names. -/
def msgCtx (s : State) (k id : Nat) : Option (Nat × DgeCtx) :=
  s.dge.ctxs.find? (fun c => c.2.kennel == k && decide (c.2.user = .msg id))

/-- The lowest free context number. -/
def freeCtx (s : State) : Option Nat := (List.range 64).find? (fun i => (tfind? s.dge.ctxs i).isNone)

/-- DGE_QUOTA of a share; the contexts that the kennel's plans reserve; the command
pool; and how much of it is in use (R323). -/
def dgeQuota (x : Kennel) : Nat := le x.share 11 1
def dgeReserved (x : Kennel) : Nat := sumOf x.plans (fun p => p.2.dgeContexts)
def dgePool (x : Kennel) : Nat := dgeQuota x - dgeReserved x
def dgeInUse (s : State) (k : Nat) : Nat :=
  s.dge.ctxs.countP (fun c => c.2.kennel == k && (match c.2.user with | .msg _ => true | _ => false))

/-- A context of the kennel's command pool is free. -/
def dgePoolFree (s : State) (k : Nat) : Bool :=
  match kennel? s k with
  | some x => dgeInUse s k < dgePool x
  | none => false

/-- The slots that a kennel holds. -/
def dgeSlotsOf (s : State) (k : Nat) : Nat := s.dge.slots.countP (fun c => c.2.kennel == k)

/-- The slot of a context. -/
def ctxSlot (s : State) (c : DgeCtx) : Option DgeSlot := tfind? s.dge.slots c.slot

/-! ### The record of a DGE vertex (R333) -/

def dvAlg (c : Bytes) : Nat := le c 1 1
def dvSlot (c : Bytes) : Nat := le c 2 1
def dvOutlen (c : Bytes) : Nat := le c 3 1
def dvRaw (c : Bytes) : Bool := bitAt (le c 4 1) 0
def dvJob (c : Bytes) : Bool := bitAt (le c 4 1) 1
def dvNctx (c : Bytes) : Nat := le c 5 1
def dvCol (c : Bytes) : Nat := le c 6 2
def dvOut (c : Bytes) : Nat := le c 8 2

/-- The DGE vertices of a kennel's plans that name a slot. -/
def slotNamed (x : Kennel) (n : Nat) : List Vertex :=
  (x.plans.flatMap (fun p => p.2.verts)).filter (fun v =>
    v.kind == kDge && dgeKeyed (dvAlg v.cfg) && dvSlot v.cfg == n)

/-! ### Commands (R329): offsets count from the body -/

/-- OPC 0x30 to 0x35 with LEN as R329 gives it. -/
def dgeLenOk (opc len : Nat) : Bool :=
  len == (if opc = 0x31 || opc = 0x35 then 2 else if opc = 0x33 then 5 else 1)

/-- MSG_ID of a command; a DGE_KEY has none. -/
def dgeMsg (c : DgeCmd) : Option Nat := if c.opc = 0x35 then none else some (le c.body 0 2)

/-- Fields in range and reserved fields 0 (check 1 of R330), but for CLEN. -/
def dgeFieldsOk (opc : Nat) (b : Bytes) : Bool :=
  if opc = 0x30 then
    let alg := le b 2 1
    1 ≤ alg && alg ≤ 9 && dgeOutOk alg (le b 4 1) && zeroes b 5 11 &&
    (if dgeKeyed alg then le b 3 1 < 32 else le b 3 1 == 0xFF)
  else if opc = 0x31 then
    le b 2 1 < 2 && le b 3 1 < 2 && zeroes b 6 2 && zeroes b 24 8 && le b 16 8 ≤ 2 ^ 40 &&
    (if le b 2 1 = 1 then le b 4 2 < 4096 else zeroes b 4 2)
  else if opc = 0x32 then le b 2 1 < 2 && zeroes b 3 5
  else if opc = 0x33 then le b 2 1 < 2 && 1 ≤ le b 3 1 && zeroes b 4 12
  else if opc = 0x34 then zeroes b 2 14
  else
    let clear := le b 3 1 == 1
    le b 0 1 < 32 && le b 2 1 < 2 && le b 3 1 < 2 && zeroes b 26 6 && le b 6 2 ≤ 4096 &&
    (if clear then le b 1 1 == 0 || dgeKeyed (le b 1 1) else dgeKeyed (le b 1 1)) &&
    (if le b 2 1 = 1 then le b 4 2 < 4096 else zeroes b 4 2) &&
    (if le b 1 1 = 9 then le b 24 2 ≤ 256 else zeroes b 24 2)

/-- CLEN of a DGE_VERIFY is at most OUTLEN (R329). -/
def dgeClenOk (s : State) (k opc : Nat) (b : Bytes) : Bool :=
  opc != 0x33 ||
  (match msgCtx s k (le b 0 2) with
   | some (_, c) => le b 3 1 ≤ c.outlen
   | none => le b 3 1 ≤ 64)

/-- The status of checks 3 to 5 of R330 for a DGE_INIT. -/
def initFault (s : State) (k : Nat) (b : Bytes) : Option Nat :=
  let alg := le b 2 1
  let slotOk := match tfind? s.dge.slots (le b 3 1) with
    | some t => t.kennel == k && t.alg == alg
    | none => false
  if dgeKeyed alg && !slotOk then some eDgeSlot
  else
    match kennel? s k with
    | some x => if dgePool x = 0 then some eDgeQuota else none
    | none => some eDgeQuota

/-- The status of checks 3 to 5 for a DGE_KEY. -/
def keyFault (s : State) (k : Nat) (b : Bytes) : Option Nat :=
  let n := le b 0 1
  match kennel? s k with
  | none => some eDgeSlot
  | some x =>
    match tfind? s.dge.slots n with
    | some t =>
      if t.kennel ≠ k then some eDgeSlot
      else
        let named := slotNamed x n
        let open' := s.dge.ctxs.any (fun c => c.2.slot == n && dgeKeyed c.2.alg &&
          (match c.2.user with | .msg _ => true | _ => false))
        let reload := t.alg == 0 && le b 3 1 == 0 && named.all (fun v => dvAlg v.cfg == le b 1 1)
        if open' || (!named.isEmpty && !reload) then some eDgeSlotBusy else none
    | none => if dgeQuota x ≤ dgeSlotsOf s k then some eDgeQuota else none

/-- Check 6: table-space sources. -/
def dgeSourceOk (s : State) (k opc : Nat) (b : Bytes) : Bool :=
  le b 2 1 != 1 || !(opc == 0x31 || opc == 0x35) ||
  (let sp := le b 4 2
   if opc = 0x31 then inSpace s k sp (le b 8 8) (le b 16 8)
   else (le b 3 1 == 1) || (inSpace s k sp (le b 8 8) (le b 6 2) &&
     (le b 24 2 == 0 || inSpace s k sp (le b 16 8) (le b 24 2))))

/-- The first check of R330 that a command fails. -/
def dgeFault (s : State) (c : DgeCmd) : Option Nat :=
  let b := c.body
  let ctx := (msgCtx s c.kennel (le b 0 2)).map (·.2)
  if !dgeFieldsOk c.opc b || !dgeClenOk s c.kennel c.opc b then some eDgeField
  else if c.opc = 0x30 && ctx.isSome then some eDgeMsgid
  else if c.opc ≠ 0x30 && c.opc ≠ 0x35 && ctx.isNone then some eDgeMsgid
  else
    let slot := if c.opc = 0x30 then initFault s c.kennel b
      else if c.opc = 0x35 then keyFault s c.kennel b else none
    match slot with
    | some e => some e
    | none =>
      if !dgeSourceOk s c.kennel c.opc b then some eDgeSource
      else if (c.opc = 0x32 || c.opc = 0x33) && ctx.any (fun x => decide (x.state ≠ .finished)) then
        some eDgeState
      else if c.opc = 0x31 && ctx.any (fun x =>
          dgeLimit x.alg < (if x.state = .finished then 0 else x.count) + le b 16 8) then
        some eDgeLength
      else none

/-! ### Data sources -/

/-- What a command reads: its bytes, or the status with which it fails. -/
def dgeSource (s : State) (k src sp off len : Nat) (host : HostRead) : Except Nat Bytes :=
  if src = 1 then
    match ownSpace s k sp with
    | some t =>
      let (d, bad) := tsRead s t off len
      if bad then .error eDdrUe else .ok d
    | none => .error eDgeSource
  else
    match host with
    | some d => if d.length < len then .error eDgeSource else .ok (d.take len)
    | none => if len = 0 then .ok [] else .error eDgeSource

/-! ### Taking commands (R324, R327 to R332) -/

/-- The command completes. -/
def dgeComplete (s : State) (c : DgeCmd) (status : Nat) : State :=
  let s := modDge s (fun d => { d with cmds := d.cmds.filter (·.order != c.order) })
  completeEntry s c.kennel c.wq c.seq status 0xFFFF 0 0 none

/-- A context opens for a DGE_INIT. -/
def dgeOpen (s : State) (c : DgeCmd) : State :=
  match freeCtx s with
  | none => s
  | some i =>
    let b := c.body
    dgeComplete (setCtx s i { kennel := c.kennel, user := .msg (le b 0 2), alg := le b 2 1,
                              slot := le b 3 1, outlen := le b 4 1 }) c 0

/-- A context is freed (R329). -/
def dgeFree (s : State) (k id : Nat) : State :=
  match msgCtx s k id with
  | some (i, _) => modDge s (fun d => { d with ctxs := tdel d.ctxs i })
  | none => s

/-- A DGE_UPDATE is taken: its data goes to the context (R324, R330). -/
def dgeUpdate (s : State) (c : DgeCmd) (i : Nat) (x : DgeCtx) : State :=
  let b := c.body
  let again := decide (x.state = .finished)
  let s := if again then cnt s 0xC001C 1 else s
  match dgeSource s c.kennel (le b 2 1) (le b 4 2) (le b 8 8) (le b 16 8) c.host with
  | .error e => dgeComplete (kennelError (setCtx s i (ctxEmpty x)) c.kennel) c e
  | .ok data =>
    let y := ctxTake (if again then ctxEmpty x else x) (ctxSlot s x) data (le b 3 1 == 1)
    let s := setCtx (cntW 64 s 0xC0010 data.length) i y
    if ctxReady y then
      modDge s (fun d => { d with cmds := d.cmds.map (fun e =>
        if e.order = c.order then { e with started := true } else e) })
    else dgeComplete s c 0

/-- Blocks that a key takes (R326, R327). -/
def keyBlocks (alg : Nat) (key cust : Bytes) : Nat :=
  if alg = 9 then
    ((bytepad 136 (encodeString [0x4B, 0x4D, 0x41, 0x43] ++ encodeString cust)).length +
      (bytepad 136 (encodeString key)).length) / 136
  else 2 + (if dgeBlock alg < key.length then
    ceilDiv (key.length + (if alg = 7 then 9 else 17)) (dgeBlock alg) else 0)

/-- A DGE_KEY is taken (R327). -/
def dgeLoadKey (s : State) (c : DgeCmd) : State :=
  let b := c.body
  let n := le b 0 1
  if le b 3 1 = 1 then dgeComplete (modDge s (fun d => { d with slots := tdel d.slots n })) c 0
  else
    match dgeSource s c.kennel (le b 2 1) (le b 4 2) (le b 8 8) (le b 6 2) c.host,
          dgeSource s c.kennel (le b 2 1) (le b 4 2) (le b 16 8) (le b 24 2) c.cust with
    | .ok key, .ok cust =>
      let (inner, outer) := keyStates (le b 1 1) key cust
      let s := modDge s (fun d => { d with
        slots := tset d.slots n { kennel := c.kennel, alg := le b 1 1, inner, outer } })
      dgeComplete (cnt (cnt s 0xC0018 (keyBlocks (le b 1 1) key cust)) 0xC002C 1) c 0
    | .error e, _ | _, .error e => dgeComplete (kennelError s c.kennel) c e

/-- The command is taken by the engine; `none` for a DGE_INIT that must wait. -/
def dgeTake (s : State) (c : DgeCmd) : Option State :=
  match dgeFault s c with
  | some e => some (dgeComplete s c e)
  | none =>
    let b := c.body
    let id := le b 0 2
    if c.opc = 0x30 then (if dgePoolFree s c.kennel then some (dgeOpen s c) else none)
    else if c.opc = 0x35 then some (dgeLoadKey s c)
    else
      match msgCtx s c.kennel id with
      | none => none
      | some (i, x) =>
        let close := fun (s : State) => if le b 2 1 = 1 then dgeFree s c.kennel id else s
        if c.opc = 0x31 then some (dgeUpdate s c i x)
        else if c.opc = 0x32 then
          some (dgeComplete (close (hostWrite s c.kennel (le b 8 8) (x.output.take x.outlen))) c 0)
        else if c.opc = 0x33 then
          let n := le b 3 1
          let same := x.output.take n == (b.drop 16).take n
          let s := cnt s (if same then 0xC0020 else 0xC0024) 1
          some (dgeComplete (close s) c (if same then 0 else eDgeMismatch))
        else some (dgeComplete (dgeFree s c.kennel id) c 0)

/-- The slot that a DGE_KEY or a keyed DGE_INIT names. -/
def dgeSlotName (c : DgeCmd) : Option Nat :=
  if c.opc = 0x35 then some (le c.body 0 1)
  else if c.opc = 0x30 && dgeKeyed (le c.body 2 1) then some (le c.body 3 1) else none

/-- An earlier command of the kennel that names the same MSG_ID has not completed, or,
for a DGE_KEY and a DGE_INIT, the same slot (R329, R332). (DEDUCED, safe: log entry 88.) -/
def dgeBehind (s : State) (c : DgeCmd) : Bool :=
  s.dge.cmds.any (fun d => d.order < c.order && d.kennel == c.kennel &&
    (((dgeMsg c).isSome && dgeMsg d == dgeMsg c) ||
     ((c.opc == 0x35) != (d.opc == 0x35) && (dgeSlotName c).isSome && dgeSlotName d == dgeSlotName c)))

/-- The command waits to be taken, and nothing but a pool can hold it: no frozen share, no
retirement that has stalled (R383). -/
def dgeCanTake (s : State) (c : DgeCmd) : Bool :=
  !c.started && !dgeBehind s c && mayStart s c.kennel &&
  !(kennel? s c.kennel).any retireStalled &&
  (c.opc != 0x32 || hostUp s) && !unitGated s .dge

/-- Takes commands in acceptance order until none can be taken (R329, R332). -/
def dgeAdvance : Nat → State → State
  | 0, s => s
  | n + 1, s =>
    match s.dge.cmds.findSome? (fun c =>
      if dgeCanTake s c && !(c.opc == 0x30 && (dgeFault s c).isNone) then dgeTake s c else none) with
    | some s' => dgeAdvance n s'
    | none => s

/-- Commands that may still be taken. -/
def dgeRun (s : State) : State := dgeAdvance (s.dge.cmds.length + 1) s

/-- A kennel's commands that wait (R329). -/
def dgeWaiting (s : State) (k : Nat) : Nat :=
  s.dge.cmds.countP (fun c => c.kennel == k && !c.started)

/-- The first waiting DGE_INIT of a kennel that a free context of its pool lets in
(R323). -/
def dgeInitReady (s : State) (k : Nat) : Option DgeCmd :=
  if dgePoolFree s k then s.dge.cmds.find? (fun c =>
    c.kennel == k && c.opc == 0x30 && dgeCanTake s c) else none

/-- An accepted command (R329): a DGE_INIT that finds its pool in use waits. -/
def dgeAccept (s : State) (k w seq opc : Nat) (e : Bytes) (host cust : HostRead) : State :=
  let c : DgeCmd := { order := s.nextOrder, kennel := k, wq := w, seq, opc, body := e.drop 16, host, cust }
  let s := modDge { s with nextOrder := s.nextOrder + 1 } (fun d => { d with cmds := d.cmds ++ [c] })
  let s := dgeRun s
  if opc = 0x30 && s.dge.cmds.any (·.order == c.order) && dgeCanTake s c then
    if (dgeInitReady s k).any (·.order == c.order) then dgeRun (dgeOpen s c) else cnt s 0xC0028 1
  else s

/-- The kennels of which a waiting DGE_INIT could be granted a context. -/
def dgeInitKennels (s : State) : List Nat :=
  (s.kennels.map (·.1)).filter (fun k => (dgeInitReady s k).isSome)

/-- The kennel whose waiting DGE_INIT comes next, and its command. -/
def dgeNextInit (s : State) : Option (Nat × DgeCmd) :=
  (s.dge.initArb.pick (arbAge s) (dgeInitKennels s)).bind (fun k => (dgeInitReady s k).map (fun c => (k, c)))

/-! ### Vertices (R334) -/

/-- The context `n` of a DGE vertex. -/
def vertexCtx (s : State) (x : Vx) (n : Nat) : Option (Nat × DgeCtx) :=
  s.dge.ctxs.find? (fun c => c.2.kennel == x.job.kennel &&
    decide (c.2.user = .vertex x.job.plan x.vid n))

/-- A context of the vertex that hashes nothing. -/
def idleCtx (s : State) (x : Vx) : Option (Nat × DgeCtx) :=
  (List.range (dvNctx x.vert.cfg)).findSome? (fun n =>
    (vertexCtx s x n).bind (fun (i, c) => if c.tile.isNone then some (i, c) else none))

/-- The digest tile of a SEQ. -/
def digestTile (x : Vx) (seq : Nat) (d : Bytes) : OItem :=
  .tile (byteTile (outCap x.plan x.vid 0) x.job.kennel seq 0 (dvOut x.vert.cfg) 2 d)

/-- The digests that stand at the front go out, in input order. -/
def digestsOut (x : Vx) : List DgeTile → List (Nat × OItem) × List DgeTile
  | { seq, digest := some d } :: r =>
    let (a, b) := digestsOut x r
    ((0, digestTile x seq d) :: a, b)
  | l => ([], l)

/-- Puts out what can go. -/
def digestFlush (s : State) (x : Vx) : State :=
  let (outs, left) := digestsOut x (dgeOf (vertNow s x))
  modVert s x.j x.vid (fun v => { v with outq := v.outq ++ outs, eng := .dge left })

/-- Releases the oldest input slot that the vertex holds. -/
def releaseOldest (s : State) (j vid : Nat) : State :=
  match ((job? s j).bind (fun b => b.verts[vid]?)).bind (·.inHold.head?) with
  | some h => modVert (releaseSlot s j h.edge h.slot) j vid (fun v => { v with inHold := v.inHold.drop 1 })
  | none => s

/-- A vertex's context has finished: its digest stands. -/
def digestDone (s : State) (i : Nat) (c : DgeCtx) (vid : Nat) : State :=
  let s := setCtx s i (ctxEmpty c)
  match c.tile with
  | none => s
  | some (j, seq) =>
    match vx? s { job := j, vid } with
    | none => s
    | some x =>
      let s := modVert s j vid (fun v => { v with eng := .dge ((dgeOf v).map (fun t =>
        if t.seq = seq then { t with digest := some (c.output.take c.outlen) } else t)) })
      digestFlush s x

/-- One block of the context numbered `i` has gone through a pipe (R324 to R326, R329,
R334). -/
def dgeBlockDone (s : State) (i : Nat) (c : DgeCtx) : State :=
  let y := ctxBlock c (ctxSlot s c)
  let s := cnt (setCtx s i y) 0xC0018 1
  let s := match y.user with
    | .vertex plan vid _ => cntVertex s y.kennel plan vid 1 1
    | .msg _ => s
  if ctxReady y then s
  else
    match y.user with
    | .msg id =>
      (match s.dge.cmds.find? (fun d => d.kennel == y.kennel && d.started && dgeMsg d == some id) with
       | some d => dgeRun (dgeComplete s d 0)
       | none => s)
    | .vertex _ vid _ =>
      if y.state = .finished then
        let s := match y.tile with
          | some (j, _) => releaseOldest s j vid
          | none => s
        digestDone s i y vid
      else
        match y.tile with
        | some (j, _) => releaseOldest s j vid
        | none => s

/-- Contexts that can use a pipe: ready, and not of a frozen kennel (R325, R403). -/
def pipeReady (s : State) : List Nat :=
  (s.dge.ctxs.filter (fun c => ctxReady c.2 && mayStart s c.2.kennel)).map (·.1)

end Sys2Proof.Machine
end

