-- ==== Sys2Proof/Machine/ScentCore.lean ====
section
/-! DEFINITION. Scent vertices: configuration record, search keys and output tiles
(R194 to R206). -/

namespace Sys2Proof.Machine

open Sys2Proof

def eScnColumn : Nat := 0x0801
def eScnMask : Nat := 0x0802
def eScnEcc : Nat := 0x0803
def eScnTarget : Nat := 0x0810
def eScnRange : Nat := 0x0811
def eScnSource : Nat := 0x0812

/-! ### Configuration record (R205) -/

def scentNKey (cfg : Bytes) : Nat := le cfg 1 1
def scentNMask (cfg : Bytes) : Nat := le cfg 2 1
def scentFilter (cfg : Bytes) : Bool := bitAt (le cfg 3 1) 1
def scentReplica (cfg : Bytes) : Bool := bitAt (le cfg 3 1) 0
def scentMaskCol (cfg : Bytes) : Nat := le cfg 4 2
def scentColMatch (cfg : Bytes) : Nat := le cfg 6 2
def scentColNother (cfg : Bytes) : Nat := le cfg 8 2
def scentNBank (cfg : Bytes) : Nat := le cfg 10 1

/-- Key descriptor `i`: COLID, TYPE, FRAC, LSB. -/
def scentKey (cfg : Bytes) (i : Nat) : Nat × Nat × Nat × Nat :=
  (le cfg (64 + 8 * i) 2, le cfg (66 + 8 * i) 1, le cfg (67 + 8 * i) 1, le cfg (68 + 8 * i) 1)

/-- Mask `i`. -/
def scentMask (cfg : Bytes) (i : Nat) : Nat := le cfg (64 + 8 * scentNKey cfg + 16 * i) 16

/-- The key fields of a record do not overlap. -/
def scentDisjoint : List (Nat × Nat) → Bool
  | [] => true
  | (l, w) :: r => r.all (fun q => l + w ≤ q.1 || q.1 + q.2 ≤ l) && scentDisjoint r

/-- The address range of the vertex (R194). -/
def scentRange (cfg : Bytes) : Nat :=
  if scentReplica cfg then scentEntries else scentEntries * scentNBank cfg

/-- Check 5 of R99 for a SCENT vertex, but for the sum over the plan (R205). -/
def scentConfigOk (cfg : Bytes) (sramKib spillKib : Nat) : Bool :=
  let nk := scentNKey cfg
  let nm := scentNMask cfg
  let keys := (List.range nk).map (scentKey cfg)
  let outs := [scentColMatch cfg] ++
    (if scentColNother cfg = 0xFFFF then [] else [scentColNother cfg])
  let ins := keys.map (·.1) ++ (if scentMaskCol cfg = 0xFFFF then [] else [scentMaskCol cfg])
  le cfg 0 1 == 1 && 1 ≤ nk && nk ≤ 4 && 1 ≤ nm && nm ≤ 8 && le cfg 3 1 < 4 &&
  1 ≤ scentNBank cfg && scentNBank cfg ≤ 8 && zeroes cfg 11 53 &&
  cfg.length == 64 + 8 * nk + 16 * nm &&
  (List.range nk).all (fun i => zeroes cfg (64 + 8 * i + 5) 3) &&
  (scentMaskCol cfg ≤ 0xFF05 || scentMaskCol cfg == 0xFFFF) &&
  keys.all (fun (c, ty, frac, lsb) =>
    c ≤ 0xFF05 && tyOk ty && ty != 0 && fracOk ty frac && lsb + tyWidth ty ≤ 128) &&
  scentDisjoint (keys.map (fun (_, ty, _, lsb) => (lsb, tyWidth ty))) &&
  outs.all (fun c => c ≤ 0xFEFF && !ins.contains c) && allDistinct outs &&
  sramKib == 0 && spillKib == 0

/-! ### One tile (R196, R206) -/

/-- A key or mask column, with its TYPE and FRAC as described. -/
def scentColumn (t : PTile) (colid ty frac : Nat) : Except Nat (List (Option Nat)) :=
  match stripOf t colid with
  | some s => if s.ty == ty && s.frac == frac then stripValues s t.rows else .error eScnColumn
  | none => .error eScnColumn

/-- The values of the key columns, with the LSB of each. -/
def scentColumns (cfg : Bytes) (t : PTile) : List Nat → Except Nat (List (Nat × List (Option Nat)))
  | [] => .ok []
  | i :: r => do
    let (c, ty, frac, lsb) := scentKey cfg i
    let vs ← scentColumn t c ty frac
    let rest ← scentColumns cfg t r
    .ok ((lsb, vs) :: rest)

/-- The search key of row `i`, or none where a key column is null (R196). -/
def scentKeyOf (i : Nat) : List (Nat × List (Option Nat)) → Option Nat
  | [] => some 0
  | (lsb, vs) :: r =>
    match (vs[i]?).getD none, scentKeyOf i r with
    | some v, some k => some (k + v * 2 ^ lsb)
    | _, _ => none

/-- The key and mask of each row of a tile, or none where it is not searched. -/
def scentRows (cfg : Bytes) (t : PTile) : Except Nat (List (Option (Nat × Nat))) := do
  let keys ← scentColumns cfg t (List.range (scentNKey cfg))
  let masks ←
    if scentMaskCol cfg = 0xFFFF then .ok (List.replicate t.rows (some 0))
    else scentColumn t (scentMaskCol cfg) 2 0
  if masks.any (fun m => (m.getD 0) ≥ scentNMask cfg) then .error eScnMask
  else
    .ok ((List.range t.rows).map (fun i =>
      match (masks[i]?).getD none, scentKeyOf i keys with
      | some m, some k => some (k, scentMask cfg m)
      | _, _ => none))

/-- The strips of a tile with some of its rows, in input order; a SYS_ROWID strip that the
tile does not have comes after the added strips (R206). (DESIGN CHOICE, safe: log entry 126.) -/
def keptCols (t : PTile) (keep : List Nat) (idc added : List Col) (cols : List Col) : List Col :=
  let own := (stripOf t 0xFF00).isSome
  cols.flatMap (fun c => if c.colid = 0xFF00 then idc else [pickRows c keep]) ++
    added.map (pickRows · keep) ++ (if own then [] else idc)

/-- The output of a tile from its rows' results; a skip where no row is left. Where every
row is kept, every input strip stands as it is; else DICT keeps its codes and any other
encoding becomes PLAIN. (DESIGN CHOICE, unsafe: log entry 125.) -/
def scentEmit (cfg : Bytes) (t : PTile) (res : List (Option Nat × Nat)) : Except Nat FOut := do
  let added : List Col :=
    [{ colid := scentColMatch cfg, ty := 6, hasValid := true, vals := res.map (·.1) }] ++
    (if scentColNother cfg = 0xFFFF then []
     else [{ colid := scentColNother cfg, ty := 4, vals := res.map (fun r => some r.2) }])
  let keep := (List.range t.rows).filter (fun i =>
    !scentFilter cfg || ((res[i]?).getD (none, 0)).1.isSome)
  if keep.isEmpty then .ok .skip
  else if keep.length < t.rows then
    let cols ← carryAll t (t.strips.map (·.colid))
    let (dense, base, idc) ← keptRowIds t keep
    let head : TileHead :=
      { log2cap := t.log2cap, rows := keep.length, seq := t.seq, rowidBase := base,
        kennel := t.kennel, dense, event := t.event }
    .ok (.tile (buildTile head (keptCols t keep idc added cols)))
  else
    let head : TileHead :=
      { log2cap := t.log2cap, rows := t.rows, seq := t.seq, rowidBase := t.rowidBase,
        kennel := t.kennel, dense := t.dense, event := t.event }
    .ok (.tile (layTile head (t.strips.map stripBytes ++ added.map colBytes)))

end Sys2Proof.Machine
end

