-- ==== Sys2Proof/Machine/Scent.lean ====
section
/-! DEFINITION. Meanings of the Scent search and patrol (R194 to R200). -/

namespace Sys2Proof.Machine

open Sys2Proof

/-- A bank by its number. -/
def scentBank (s : State) (b : Nat) : ScentBank := tget s.scent b {}

/-- Counters of a bank (R209). -/
def cntScent (s : State) (b : Nat) (ns : ScentCounts) : State :=
  (ns.zip (List.range ns.length)).foldl (fun s (n, i) => cnt s (0x90010 + 0x1000 * b + 4 * i) n) s

/-- An uncorrectable verify-copy error raises the bank's source, and is flagged at the
kennel that holds the bank (R199, R407). -/
def scentUe (s : State) (b : Nat) (ns : ScentCounts) : State :=
  if (ns[5]?).getD 0 = 0 then s
  else
    let s := raiseEvent s (48 + b)
    match (scentBank s b).owner with
    | some (k, _) => kennelError s k
    | none => s

/-- Where a REPLICA vertex goes on (R194). -/
def scentNextOf (s : State) (x : Vx) : Nat :=
  ((s.scentNext.find? (fun e => e.1 == x.job.kennel && e.2.1 == x.job.plan && e.2.2.1 == x.vid)).map
    (·.2.2.2)).getD 0

/-- Keeps the state of a search. -/
def scentKeep (s : State) (x : Vx) (r : ScentRun) : State :=
  let others := s.scentNext.filter (fun e =>
    !(e.1 == x.job.kennel && e.2.1 == x.job.plan && e.2.2.1 == x.vid))
  let s := { s with
    scent := (x.vert.units.zip r.banks).foldl (fun t (b, st) => tset t b st) s.scent,
    scentNext := others ++ [(x.job.kennel, x.job.plan, x.vid, r.next)] }
  let s := (x.vert.units.zip r.counts).foldl (fun s (b, ns) => scentUe (cntScent s b ns) b ns) s
  let total := r.counts.foldl addCounts noScentCounts
  (total.zip (List.range 8)).foldl (fun s (n, i) =>
    cntVertex s x.job.kennel x.job.plan x.vid i n) s

/-- SCENT_SEARCH_TILE (R196 to R199, R206). -/
def execScentSearchTile (v : VertexRef) (ecc : List EccHit) (s : State) : Result :=
  attempt (fun s =>
    match liveVx s v with
    | none => none
    | some x =>
      if x.vert.kind ≠ kScent ∨ !x.st.outq.isEmpty then none
      else
        match headSkip x 0, headTile x 0 with
        | some q, _ => some (putOut (popIn s x 0) x (skipOuts x q))
        | none, some b =>
          let s' := popIn s x 0
          match readTile s x b with
          | .error e => some (failVx s' x e)
          | .ok t =>
            match scentRows x.vert.cfg t with
            | .error e => some (failVx s' x e)
            | .ok rows =>
              let errs := fun (i : Nat) => (ecc.filter (fun h => x.vert.units[i]? == some h.bank.val)).map
                (fun h => (h.row.val, h.ue))
              let r := rows.foldl (scentRow (scentReplica x.vert.cfg) errs)
                { banks := x.vert.units.map (scentBank s),
                  counts := x.vert.units.map (fun _ => noScentCounts), next := scentNextOf s x }
              let s' := scentKeep (noteDicts s' x t) x r
              if r.ue then some (failVx s' x eScnEcc)
              else
                match scentEmit x.vert.cfg t r.results with
                | .error e => some (failVx s' x e)
                | .ok (.tile b) => some (putOut s' x [(0, .tile b)])
                | .ok _ => some (putOut s' x (skipOuts x t.seq))
        | none, none => none) s

/-- SCENT_PATROL (R199, R200). -/
def execScentPatrol (b : Fin 8) (ecc : EccOutcome) (s : State) : Result :=
  let (bank, ns, _) := scentPatrolStep (scentBank s b.val) (decide (ecc = .corrected))
    (decide (ecc = .uncorrectable))
  .next (scentUe (cntScent { s with scent := tset s.scent b.val bank } b.val ns) b.val ns)

end Sys2Proof.Machine
end

