-- ==== Sys2Proof/Machine/ScnOps.lean ====
section
/-! DEFINITION. Loading and invalidating Scent entries from a work queue (R201 to
R203). -/

namespace Sys2Proof.Machine

open Sys2Proof


/-! ### The entry (R201): offsets count from the header -/

def seFirst (e : Bytes) : Nat := le e 24 4
def seCount (e : Bytes) : Nat := le e 28 4

/-- The SCENT vertex that an entry names. -/
def scnTarget (s : State) (k : Nat) (e : Bytes) : Option Vertex :=
  match (plan? s k (le e 16 2)).bind (fun p => p.verts[le e 18 2]?) with
  | some v => if v.kind = kScent then some v else none
  | none => none

/-- The address range of a vertex (R194). -/
def scnSize (v : Vertex) : Nat :=
  if scentReplica v.cfg then scentEntries else scentEntries * v.units.length

/-- The fields of an entry (check 2 of R202). -/
def scnFieldsOk (opc : Nat) (e : Bytes) (v : Vertex) : Bool :=
  1 ≤ seCount e && seCount e ≤ 262144 && seFirst e + seCount e ≤ scnSize v &&
  (if opc = 0x28 then
     le e 1 1 == 2 && le e 20 1 < 2 && zeroes e 21 1 && zeroes e 40 8 && le e 32 8 % 64 == 0 &&
     (if le e 20 1 = 1 then le e 22 2 < 4096 else zeroes e 22 2)
   else le e 1 1 == 1 && zeroes e 20 4)

/-- The first check of R202 that an entry fails. -/
def scnFault (s : State) (k opc : Nat) (e : Bytes) : Option Nat :=
  match scnTarget s k e with
  | none => some eScnTarget
  | some v =>
    if !scnFieldsOk opc e v then some eScnRange
    else if opc = 0x28 && le e 20 1 = 1 &&
        !inSpace s k (le e 22 2) (le e 32 8) (16 * seCount e) then some eScnSource
    else none

/-- Applies `f` to an entry address of a vertex: in every bank of a REPLICA vertex. -/
def scnAt (s : State) (v : Vertex) (a : Nat) (f : ScentBank → Nat → ScentBank) : State :=
  let on := fun (s : State) (b row : Nat) => { s with scent := tset s.scent b (f (scentBank s b) row) }
  if scentReplica v.cfg then v.units.foldl (fun s b => on s b a) s
  else
    match v.units[a / scentEntries]? with
    | some b => on s b (a % scentEntries)
    | none => s

/-- The keys that a load can read, and the status where they are not all of them. -/
def scnKeys (s : State) (k : Nat) (e : Bytes) (host : HostRead) : List Nat × Nat :=
  let n := seCount e
  let keys := fun (b : Bytes) (n : Nat) => (List.range n).map (fun i => le b (16 * i) 16)
  if le e 20 1 = 1 then
    match ownSpace s k (le e 22 2) with
    | none => ([], eScnSource)
    | some t =>
      let off := le e 32 8
      let good := ((List.range (ceilDiv n 4)).find? (fun i =>
        (cohLine s (spaceLine t (off / 64 + i))).2)).map (4 * ·)
      match good with
      | some g => (keys (tsRead s t off (16 * g)).1 (min g n), eDdrUe)
      | none => (keys (tsRead s t off (16 * n)).1 n, 0)
  else
    let b := host.getD []
    if b.length < 16 * n then (keys b (b.length / 16), eScnSource) else (keys b n, 0)

/-- An SCN_LOAD that has passed its checks: the state and its status. -/
def scnLoad (s : State) (k : Nat) (e : Bytes) (host : HostRead) : State × Nat :=
  match scnTarget s k e with
  | none => (s, eScnTarget)
  | some v =>
    let (ks, status) := scnKeys s k e host
    let s := (ks.zip (List.range ks.length)).foldl (fun s (key, i) =>
      scnAt s v (seFirst e + i) (fun b row => scentWrite b row (key, true))) s
    let per := fun (i : Nat) =>
      if scentReplica v.cfg then ks.length
      else min (seFirst e + ks.length) ((i + 1) * scentEntries) - max (seFirst e) (i * scentEntries)
    let s := (v.units.zip (List.range v.units.length)).foldl (fun s (b, i) =>
      cntVertex (cnt s (0x90010 + 0x1000 * b + 24) (per i)) k (le e 16 2) (le e 18 2) 6 (per i)) s
    (if status = 0 then s else kennelError s k, status)

/-- An SCN_INVAL that has passed its checks. -/
def scnInval (s : State) (k : Nat) (e : Bytes) : State :=
  match scnTarget s k e with
  | none => s
  | some v => (List.range (seCount e)).foldl (fun s i => scnAt s v (seFirst e + i) scentClear) s

end Sys2Proof.Machine
end

