-- ==== Sys2Proof/Machine/PlanCheck.lean ====
section
/-! DEFINITION. The plan image and the checks of it that look at the image alone:
checks 2 to 10 of R99 (R87 to R97, R113 to R119, R231 to R233, R485). -/

namespace Sys2Proof.Machine

open Sys2Proof

def ePlanFormat : Nat := 0x0401
def ePlanGraph : Nat := 0x0402
def ePlanCredits : Nat := 0x0403
def ePlanConfig : Nat := 0x0404
def ePlanCode : Nat := 0x0405
def ePlanTev : Nat := 0x0406
def ePlanDict : Nat := 0x0407
def ePlanOrder : Nat := 0x0408
def ePlanReconv : Nat := 0x0409

/-- A refusal: the status and the index of the record at fault (R99). -/
abbrev PFault := Nat × Nat

/-- The index where no single record is at fault. -/
def noIndex : Nat := 0xFFFF

/-! ### The image (R87 to R97) -/

def imNvert (b : Bytes) : Nat := le b 20 2
def imNedge (b : Bytes) : Nat := le b 22 2
def imNbind (b : Bytes) : Nat := le b 24 2
def imMode (b : Bytes) : Nat := le b 5 1

/-- Offset and length of a section. -/
def imSec (b : Bytes) (s : Nat) : Nat × Nat := (le b (64 + 8 * s) 4, le b (68 + 8 * s) 4)

/-- The bytes of a section. -/
def imBytes (b : Bytes) (s : Nat) : Bytes := (b.drop (imSec b s).1).take (imSec b s).2

def vertRec (b : Bytes) (v : Nat) : Bytes := slice b ((imSec b 0).1 + 64 * v) 64
def edgeRec (b : Bytes) (e : Nat) : Bytes := slice b ((imSec b 1).1 + 32 * e) 32
def bindRec (b : Bytes) (i : Nat) : Bytes := slice b ((imSec b 6).1 + 16 * i) 16

/-- The vertex that a record describes, not yet placed. -/
def vertOf (b : Bytes) (v : Nat) : Vertex :=
  let r := vertRec b v
  let const := imBytes b 4
  let kind := le r 2 1
  { kind, flags := le r 3 1, nin := le r 4 1, nout := le r 5 1, place := le r 6 2,
    nhounds := le r 8 2, cfg := (const.drop (le r 12 4)).take (le r 16 4),
    body := if kind = kHound then ((imBytes b 2).drop (le r 20 4)).take (le r 24 4)
      else if kind = kFacet then ((imBytes b 3).drop (le r 20 4)).take (le r 24 4) else [],
    sramKib := le r 28 4, spillKib := le r 32 4 }

/-- The edge that a record describes. -/
def edgeOf (b : Bytes) (e : Nat) : Edge :=
  let r := edgeRec b e
  { src := le r 2 2, srcPort := le r 4 1, credits := le r 6 2,
    dsts := (List.range (min 4 (le r 5 1))).map (fun i => (le r (8 + 2 * i) 2, le r (16 + i) 1)),
    flags := le r 20 1, log2cap := if le r 21 1 = 0 then le b 6 1 else le r 21 1,
    tileBytes := le r 24 4 }

/-- The binding that a record describes. -/
def bindOf (b : Bytes) (i : Nat) : Bind :=
  let r := bindRec b i
  { first := le r 0 2, last := le r 2 2, vid := le r 4 2, groups := le r 6 1 }

/-- NDICT, and the entries of the dictionary table (R95). -/
def imNdict (b : Bytes) : Nat := le (imBytes b 4) 0 8
def dictEntry (b : Bytes) (i : Nat) : Nat × Nat :=
  let c := imBytes b 4
  (le c (8 + 8 * i) 4, le c (12 + 8 * i) 4)

/-- The dictionary table has at most 4,096 entries and lies in CONST (R95). -/
def dictTableOk (b : Bytes) : Bool := imNdict b ≤ 4096 && 8 + 8 * imNdict b ≤ (imSec b 4).2

/-- The dictionaries: DICT_ID and the bytes of CONST from there on. -/
def imDicts (b : Bytes) : List (Nat × Bytes) :=
  (List.range (if dictTableOk b then imNdict b else 0)).map (fun i =>
    ((dictEntry b i).1, (imBytes b 4).drop (dictEntry b i).2))

def imVerts (b : Bytes) : List Vertex := (List.range (imNvert b)).map (vertOf b)
def imEdges (b : Bytes) : List Edge := (List.range (imNedge b)).map (edgeOf b)

/-- The RESOURCE section (R96). -/
def imRes (b : Bytes) : Bytes := imBytes b 5
def rsMaxJobs (r : Bytes) : Nat := le r 0 2
def rsHounds (r : Bytes) : Nat := le r 2 2
def rsTiles (r : Bytes) : Nat := le r 4 4
def rsExtra (r : Bytes) : Nat := le r 8 2
def rsScent (r : Bytes) : Nat := le r 10 1
def rsDge (r : Bytes) : Nat := le r 11 1
def rsWays (r : Bytes) : Nat := le r 12 2
def rsDram (r : Bytes) : Nat := le r 16 8

/-- The plan of an image, with nothing placed or reserved. -/
def planOf (b : Bytes) (k : Nat) : Plan :=
  let r := imRes b
  { kennel := k, handle := 0, planId := le b 8 8, mode := imMode b, image := b, verts := imVerts b,
    edges := imEdges b, binds := (List.range (imNbind b)).map (bindOf b), dicts := imDicts b,
    maxJobs := rsMaxJobs r, tileSlots := rsTiles r, scentBanks := rsScent r,
    dgeContexts := rsDge r, shcWays := rsWays r, dramBytes := rsDram r, granules := [] }

/-! ### Check 2: the format -/

/-- What each section's length must be, beyond its being a multiple of 64 (R89). -/
def secLenOk (b : Bytes) (s len : Nat) : Bool :=
  match s with
  | 0 => len == 64 * imNvert b
  | 1 => len == 32 * imNedge b
  | 2 => len % 64 == 0
  | 3 => len % 64 == 0
  | 4 => len % 64 == 0 && 64 ≤ len
  | 5 => len == 64
  | 6 => len == alignUp (16 * imNbind b) 64
  | _ => len == 0

/-- Sections by rising offset, each with offset and end. -/
def imSections (b : Bytes) : List (Nat × Nat) :=
  sortBy (fun p q => p.1 < q.1) (((List.range 8).map (imSec b)).filterMap (fun (o, n) =>
    if n = 0 then none else some (o, o + n)))

/-- From `cur` on, sections do not overlap and what lies between them is 0 (R87). -/
def gapsOk (b : Bytes) (cur : Nat) : List (Nat × Nat) → Bool
  | [] => zeroes b cur (b.length - cur)
  | (o, e) :: r => cur ≤ o && zeroes b cur (o - cur) && gapsOk b e r

/-- Check 2 (R87 to R89, R95); `major` is the running firmware's. (DEDUCED, safe: log entry 67.) -/
def imageOk (b : Bytes) (major : Nat) : Bool :=
  le b 0 4 == 0x4E4C5045 && le b 4 1 == 1 && imMode b ≤ 1 && 8 ≤ le b 6 1 && le b 6 1 ≤ 16 &&
  zeroes b 7 1 && le b 16 4 == b.length && 1 ≤ imNvert b && imNvert b ≤ 1024 && 1 ≤ imNedge b &&
  imNedge b ≤ 4096 &&
  (if imMode b = 0 then imNbind b == 0 else 1 ≤ imNbind b && imNbind b ≤ 64) &&
  le b 26 2 ≤ major && crc32c (b.take 28 ++ zeros 4 ++ b.drop 32) == le b 28 4 && zeroes b 32 32 &&
  (List.range 8).all (fun s =>
    let (o, n) := imSec b s
    secLenOk b s n && o % 64 == 0 && (if n = 0 then o == 0 else 128 ≤ o && o + n ≤ b.length)) &&
  gapsOk b 128 (imSections b) &&
  ((imSec b 2).2 == 0 || (List.range (imNvert b)).any (fun v => le (vertRec b v) 2 1 == kHound)) &&
  ((imSec b 3).2 == 0 || (List.range (imNvert b)).any (fun v =>
    le (vertRec b v) 2 1 == kFacet && !zeroes (vertRec b v) 24 4))

/-! ### Check 3: the graph -/

/-- NIN and NOUT of a kind: least and greatest (R91). -/
def kindPorts (kind : Nat) : Option (Nat × Nat × Nat × Nat) :=
  match kind with
  | 0x01 => some (0, 8, 0, 8)
  | 0x02 => some (1, 1, 1, 8)
  | 0x03 => some (1, 2, 1, 8)
  | 0x04 | 0x06 | 0x07 | 0x08 | 0x40 => some (1, 1, 1, 1)
  | 0x05 => some (1, 8, 1, 1)
  | 0x20 | 0x21 => some (0, 0, 1, 1)
  | 0x30 | 0x32 => some (1, 8, 0, 0)
  | 0x31 => some (1, 1, 0, 0)
  | _ => none

/-- Values of PLACE for a kind that may be pinned (R90, R91). -/
def kindPlaces (kind : Nat) : Nat :=
  match kind with
  | 0x01 => 8
  | 0x02 => 32
  | 0x03 => 8
  | 0x04 => 4
  | 0x05 => 8
  | 0x07 => 4
  | _ => 0

/-- A vertex record keeps R90 and R91, and the plan's MODE (R93). -/
def vertOk (b : Bytes) (v : Nat) : Bool :=
  let r := vertRec b v
  let x := vertOf b v
  let kind := x.kind
  match kindPorts kind with
  | none => false
  | some (a, c, d, e) =>
    le r 0 2 == v && x.flags < 8 && (!vOrdered x || isSink kind) &&
    a ≤ x.nin && x.nin ≤ c && d ≤ x.nout && x.nout ≤ e &&
    (if vPinned x then x.place < kindPlaces kind else x.place == 0xFFFF) &&
    (if kind = kHound then 1 ≤ x.nhounds && x.nhounds ≤ 16 else x.nhounds == 0) &&
    zeroes r 10 2 && le r 12 4 % 64 == 0 && le r 12 4 + le r 16 4 ≤ (imSec b 4).2 &&
    le r 20 4 % 64 == 0 &&
    (if kind = kHound then le r 20 4 + le r 24 4 ≤ (imSec b 2).2
     else if kind = kFacet then le r 20 4 + le r 24 4 ≤ (imSec b 3).2
     else zeroes r 20 8) &&
    zeroes r 36 28 &&
    (if imMode b = 0 then kind != kSrcIngest && kind != kSinkVerdict else kind != kSrcTs)

/-- An edge record keeps R92. -/
def edgeOk (b : Bytes) (vs : List Vertex) (e : Nat) : Bool :=
  let r := edgeRec b e
  let x := edgeOf b e
  let nd := le r 5 1
  le r 0 2 == e && x.srcPort < ((vs[x.src]?).map (·.nout)).getD 0 && 1 ≤ nd && nd ≤ 4 &&
  x.dsts.all (fun (v, p) => p < ((vs[v]?).map (·.nin)).getD 0) &&
  (List.range 4).all (fun i =>
    i < nd || (le r (8 + 2 * i) 2 == 0xFFFF && le r (16 + i) 1 == 0xFF)) &&
  x.flags < 16 && field x.flags 0 2 ≤ 1 &&
  (le r 21 1 == 0 || (8 ≤ le r 21 1 && le r 21 1 ≤ 16)) && zeroes r 22 2 && zeroes r 28 4 &&
  x.tileBytes % 64 == 0

/-- An edge has a wrong destination (R93): it names one twice, spills to a vertex that cannot
take it, or leads from an SRC_INGEST vertex to another kind than SHEPHERD. -/
def edgeDstWrong (vs : List Vertex) (x : Edge) : Bool :=
  !allDistinct x.dsts ||
  (eSpill x && !x.dsts.all (fun (v, _) => (vs[v]?).any (fun y => vDefer y && y.spillKib != 0))) ||
  ((vs[x.src]?).any (fun y => y.kind == kSrcIngest) &&
    !x.dsts.all (fun (v, _) => (vs[v]?).any (fun y => y.kind == kShepherd)))

/-- The index at which check 3 refuses an edge: its EID, or for a DIST or SPILL that does not
go with NDST the VID of its vertex (R93). (DEDUCED, safe: log entry 93.) -/
def edgeFault (b : Bytes) (vs : List Vertex) (e : Nat) : Option Nat :=
  let x := edgeOf b e
  if !edgeOk b vs e then some e
  else if (eDeal x && x.dsts.length < 2) || (eSpill x && x.dsts.length != 1) then some x.src
  else if edgeDstWrong vs x then some e
  else none

/-- A binding record keeps R97. -/
def bindOk (b : Bytes) (vs : List Vertex) (i : Nat) : Bool :=
  let r := bindRec b i
  let x := bindOf b i
  x.first < 16384 && x.last < 16384 && x.first ≤ x.last && x.groups < 16 && zeroes r 7 9 &&
  ((vs[x.vid]?).map (·.kind)).getD 0 == kSrcIngest

/-- Every port of a vertex is on exactly one edge (R93). -/
def portsOk (es : List Edge) (v : Nat) (x : Vertex) : Bool :=
  (List.range x.nout).all (fun p => es.countP (fun e => e.src == v && e.srcPort == p) == 1) &&
  (List.range x.nin).all (fun p => sumOf es (fun e => e.dsts.countP (· == (v, p))) == 1)

/-- Vertices reachable along every edge from those of a list, these included. -/
def reachAll (es : List Edge) : Nat → List Nat → List Nat
  | 0, seen => seen
  | n + 1, seen =>
    let next := es.foldl (fun acc e =>
      if acc.contains e.src then e.dsts.foldl (fun a d => addNew a d.1) acc else acc) seen
    if next.length = seen.length then seen else reachAll es n next

/-- Vertices from which those of a list can be reached, these included. -/
def reachBack (es : List Edge) : Nat → List Nat → List Nat
  | 0, seen => seen
  | n + 1, seen =>
    let next := es.foldl (fun acc e =>
      if e.dsts.any (fun d => acc.contains d.1) then addNew acc e.src else acc) seen
    if next.length = seen.length then seen else reachBack es n next

/-- The vertices that lie on a cycle with `v`, and `v`. -/
def cycleMates (es : List Edge) (n v : Nat) : List Nat :=
  let back := reachBack es n [v]
  (reachAll es n [v]).filter back.contains

/-- The first breach of rule 1 of R117 (DEDUCED, safe: log entry 93). -/
def cycleFault (es : List Edge) (n : Nat) : Option Nat :=
  let mates := fun (v : Nat) => cycleMates es n v
  let edges := es.zip (List.range es.length)
  let onCycle := fun (e : Edge) => e.dsts.any (fun d => (mates e.src).contains d.1)
  match edges.find? (fun (e, _) => eFeedback e && !onCycle e) with
  | some (_, i) => some i
  | none =>
    (List.range n).findSome? (fun v =>
      let ms := mates v
      let inside := edges.filter (fun (e, _) => ms.contains e.src && e.dsts.any (fun d => ms.contains d.1))
      if inside.isEmpty || ms.any (· < v) then none
      else
        let outs := fun (u : Nat) => sumOf inside (fun (e, _) =>
          if e.src = u then e.dsts.countP (fun d => ms.contains d.1) else 0)
        let ins := fun (u : Nat) => sumOf inside (fun (e, _) => e.dsts.countP (fun d => d.1 == u))
        let fbs := (inside.filter (fun (e, _) => eFeedback e)).map (·.2)
        match (sortBy (· < ·) ms).find? (fun u => 1 < outs u || 1 < ins u) with
        | some u => some u
        | none =>
          if fbs.isEmpty then some v else if 1 < fbs.length then fbs.getLast? else none)

/-- A LEASH_EXCH vertex behind one whose CHANNEL is not less (R485). -/
def exchOrderFault (vs : List Vertex) (es : List Edge) : Option Nat :=
  let ex := (vs.zip (List.range vs.length)).filter (fun p => p.1.kind == kExch)
  (ex.find? (fun (y, j) => ex.any (fun (x, i) =>
    exChannel y.cfg ≤ exChannel x.cfg && (if i = j then
        es.any (fun e => e.src == i && e.dsts.any (fun d => (reachAll es vs.length [d.1]).contains i))
      else (reachAll es vs.length [i]).contains j)))).map (·.2)

/-- Check 3: the index of the first record that fails. (DEDUCED, safe: log entry 93.) -/
def graphFault (b : Bytes) (vs : List Vertex) (es : List Edge) : Option Nat :=
  let nv := vs.length
  (((List.range nv).find? (fun v => !vertOk b v)).or
    (((List.range es.length).findSome? (edgeFault b vs)).or
      (((List.range nv).find? (fun v => ((vs[v]?).map (fun x => !portsOk es v x)).getD true)).or
        ((List.range (imNbind b)).find? (fun i => !bindOk b vs i))))).or
  (if imMode b = 1 && !vs.any (fun x => x.kind == kSrcIngest) then some noIndex
   else
    (((List.range nv).find? (fun v =>
      ((vs[v]?).map (·.kind)).getD 0 == kSrcIngest &&
      !(List.range (imNbind b)).any (fun i => (bindOf b i).vid == v))).or
      (cycleFault es nv)).or (exchOrderFault vs es))

/-! ### Check 4: credits -/

/-- The kinds that no cycle holds (R118). -/
def notOnCycle (kind : Nat) : Bool :=
  kind == kShepherd || kind == kSort || kind == kAgg || kind == kExch

/-- The first edge that breaks rule 2 of R117 or R118. -/
def creditFault (vs : List Vertex) (es : List Edge) : Option Nat :=
  let n := vs.length
  ((List.range es.length).find? (fun i =>
    ((es[i]?).map (fun e => !(2 ≤ e.credits && e.credits ≤ 4096))).getD false)).or
  ((List.range es.length).find? (fun i =>
    match es[i]? with
    | none => false
    | some e => eFeedback e &&
        (e.dsts.length != 1 || eDeal e || eSpill e ||
         (cycleMates es n e.src).any (fun v => notOnCycle (((vs[v]?).map (·.kind)).getD 0)))))

/-- The edge into an input port. -/
def edgeInto (es : List Edge) (v p : Nat) : Option Edge := es.find? (fun e => e.dsts.contains (v, p))

/-- The first DEFER vertex that breaks R119. -/
def deferFault (vs : List Vertex) (es : List Edge) : Option Nat :=
  let n := vs.length
  (List.range n).find? (fun v =>
    match vs[v]? with
    | none => false
    | some x => vDefer x &&
        (match edgeInto es v 0 with
         | none => false
         | some e0 =>
           let up := reachBack es n [e0.src]
           (List.range x.nin).any (fun p => p != 0 &&
             (match edgeInto es v p with
              | none => false
              | some e => !eSpill e && (reachBack es n [e.src]).any up.contains))))

/-! ### Check 5: configuration records -/

/-- The LOG2CAP of an edge, and its TILE_BYTES. -/
def inCapOf (es : List Edge) (v p : Nat) : Nat := ((edgeInto es v p).map (·.log2cap)).getD 0
def inBytesOf (es : List Edge) (v p : Nat) : Nat := ((edgeInto es v p).map (·.tileBytes)).getD 0
def outOf (es : List Edge) (v p : Nat) : Option Edge :=
  es.find? (fun e => e.src == v && e.srcPort == p)

/-- COLIDs of an event-build record (R139). -/
def shbCols (c : Bytes) : List Nat :=
  (List.range (shbNField c)).map (fun i => le c (2112 + 8 * i + 6) 2) ++
  [shbColEvref c, shbColEvbytes c].filter (· != 0xFFFF)

/-- A field descriptor of an event-build record is in range (R138). -/
def shbFieldOk (c : Bytes) (i : Nat) : Bool :=
  let o := 2112 + 8 * i
  !bitAt (le c o 2) 14 && le c (o + 2) 2 ≤ 16351 && 1 ≤ le c (o + 4) 1 && tyOk (le c (o + 4) 1) &&
  fracOk (le c (o + 4) 1) (le c (o + 5) 1)

/-- Check 5 for an event-build vertex (R138, R139); `fromIngest` says where its input
edge comes from, and `tileBytes` is that edge's (R123). -/
def buildConfigOk (c : Bytes) (x : Vertex) (fromIngest : Bool) (tileBytes : Nat) : Bool :=
  let n := shbNField c
  let mo := shbMaxOpen c
  let cols := shbCols c
  x.nin == 1 && !vDefer x && c.length == 2112 + 8 * n && le c 1 1 == 1 && n ≤ 64 &&
  1024 ≤ mo && mo ≤ 131072 && mo % 1024 == 0 && 64 ≤ shbWindow c && 64 ≤ le c 12 4 &&
  shbTombSlots c ≤ 131072 && field (le c 24 1) 4 3 == 0 && le c 25 1 < 16 &&
  le c 26 1 < 8 && zeroes c 27 1 && le c 28 2 < 512 && zeroes c 34 6 && zeroes c 44 20 &&
  (if shbStoreEn c then 1 ≤ le c 25 1
   else le c 25 1 == 0 && le c 40 4 == 0 && shbColEvref c == 0xFFFF && shbColEvbytes c == 0xFFFF) &&
  (List.range 3).all (fun i => shbRoute c i < x.nout) &&
  (List.range n).all (shbFieldOk c) && cols.all (· ≤ 0xFEFF) && allDistinct cols &&
  ceilDiv (24 * mo + 8 * shbTombSlots c) 1024 + 66 ≤ x.sramKib &&
  2 * mo + le c 40 4 ≤ x.spillKib && fromIngest && 16512 ≤ tileBytes

/-- The data and BSS of a Hound's scratchpad, and its buffers and stack, fit (R232). -/
def houndLayout (c code : Bytes) : Nat :=
  alignUp (le code 20 4 + le code 24 4) 4096 +
  le c 2 1 * alignUp (1024 * le c 4 4) 64 + le c 3 1 * alignUp (1024 * le c 8 4) 64 + 1024 * le c 12 4

/-- ORIGIN of a HOUND record. -/
def houndOrigin (c : Bytes) : Bool := bitAt (le c 1 1) 0

/-- An origin of R114. -/
def isOrigin (x : Vertex) : Bool :=
  x.kind == kSrcTs || x.kind == kShepherd || x.kind == kSort || x.kind == kAgg ||
  (x.kind == kHound && houndOrigin x.cfg)

/-- The edges that lead to a vertex through pass-through vertices: tracing back (R114). -/
def traceBack (vs : List Vertex) (es : List Edge) : Nat → List Nat → List Nat
  | 0, seen => seen
  | n + 1, seen =>
    let next := es.foldl (fun acc e =>
      if e.dsts.any (fun d => acc.contains d.1 &&
          !((vs[d.1]?).map isOrigin).getD false) then addNew acc e.src else acc) seen
    if next.length = seen.length then seen else traceBack vs es n next

/-- An ORDERED sink traces back to the vertex through DEAL (R233). -/
def dealtToOrdered (vs : List Vertex) (es : List Edge) (v : Nat) : Bool :=
  (List.range vs.length).any (fun k =>
    ((vs[k]?).map (fun x => isSink x.kind && vOrdered x)).getD false &&
    (let back := traceBack vs es vs.length [k]
     back.contains v &&
     es.any (fun e => eDeal e && back.contains e.src &&
       e.dsts.any (fun d => back.contains d.1 && !((vs[d.1]?).map isOrigin).getD false) &&
       (e.src == v || (!((vs[e.src]?).map isOrigin).getD false &&
         (traceBack vs es vs.length [e.src]).contains v)))))

/-- Check 5 for a HOUND vertex (R232, R233). -/
def houndConfigOk (vs : List Vertex) (es : List Edge) (v : Nat) (x : Vertex) : Bool :=
  let c := x.cfg
  c.length == 64 && le c 0 1 == 1 && le c 1 1 < 2 &&
  (if x.nin = 0 then le c 2 1 == 0 else 1 ≤ le c 2 1 && le c 2 1 ≤ 8) &&
  (if x.nout = 0 then le c 3 1 == 0 else 1 ≤ le c 3 1 && le c 3 1 ≤ 8) &&
  4 ≤ le c 12 4 && zeroes c 16 48 && houndLayout c x.body ≤ 752 * 1024 &&
  (List.range x.nin).all (fun p => inBytesOf es v p ≤ 1024 * le c 4 4) &&
  (List.range x.nout).all (fun p => ((outOf es v p).map (·.tileBytes)).getD 0 ≤ 1024 * le c 8 4) &&
  x.sramKib == 0 && (x.nin != 0 || houndOrigin c) &&
  !(houndOrigin c && dealtToOrdered vs es v)

/-- Check 5 for a DGE vertex, but for its slot (R321, R333). -/
def dgeConfigOk (vs : List Vertex) (es : List Edge) (v contexts : Nat) (x : Vertex) : Bool :=
  let c := x.cfg
  let alg := dvAlg c
  c.length == 64 && le c 0 1 == 1 && 1 ≤ alg && alg ≤ 9 && dgeOutOk alg (dvOutlen c) &&
  (if dgeKeyed alg then dvSlot c < 32 else dvSlot c == 0xFF) && le c 4 1 < 4 &&
  (if dvJob c then dvNctx c == 1 else 1 ≤ dvNctx c && dvNctx c ≤ 8) &&
  (if dvRaw c then dvCol c ≤ 0xFF05 else dvCol c == 0xFFFF) && dvOut c ≤ 0xFEFF && zeroes c 10 54 &&
  sumOf vs (fun y => if y.kind = kDge then dvNctx y.cfg else 0) == contexts &&
  256 ≤ ((outOf es v 0).map (·.tileBytes)).getD 0 && x.sramKib == 0 && x.spillKib == 0

/-- EXTRA_TILES of the LEASH_EXCH vertices: NNODE × XCREDITS each (R482). -/
def exchExtra (vs : List Vertex) : Nat :=
  sumOf vs (fun x => if x.kind = kExch then exNNode x.cfg * exCredits x.cfg else 0)

/-- Check 5 for a LEASH_EXCH vertex, but for the channels of other plans (R482). -/
def exchConfigOk (vs : List Vertex) (extra : Nat) (x : Vertex) : Bool :=
  let c := x.cfg
  let nk := exNKey c
  le c 0 1 == 1 && exMode c ≤ 2 && (if exMode c = 0 then 1 ≤ nk && nk ≤ 4 else nk == 0) &&
  zeroes c 3 1 && 1 ≤ exNNode c && exNNode c ≤ 4096 && 2 ≤ exCredits c && exCredits c ≤ 64 &&
  (exColNode c ≤ 0xFEFF || exColNode c == 0xFFFF) && zeroes c 12 52 &&
  c.length == 64 + 8 * nk + 2 * exNNode c &&
  (List.range nk).all (fun i =>
    let (col, ty, frac) := exKey c i
    col ≤ 0xFF05 && tyOk ty && fracOk ty frac && zeroes c (64 + 8 * i + 4) 4) &&
  allDistinct (exNodes c) && exchExtra vs ≤ extra && x.sramKib == 0 && x.spillKib == 0

/-- The window of a SINK_HOST record (R113). -/
def sinkWindow (c : Bytes) : Nat × Nat := (le c 4 4, le c 4 4 + le c 8 4)

/-- Check 5 for a source or sink (R113); `earlier` are the windows of earlier sinks. -/
def sinkConfigOk (earlier : List (Nat × Nat)) (x : Vertex) : Bool :=
  let c := x.cfg
  x.sramKib == 0 && x.spillKib == 0 &&
  (if x.kind = kSinkHost then
     let w := sinkWindow c
     c.length == 64 && le c 0 1 == 1 && zeroes c 1 3 && 1 ≤ le c 8 4 && zeroes c 12 52 &&
     earlier.all (fun e => e.2 ≤ w.1 || w.2 ≤ e.1)
   else if x.kind = kSinkTs then
     c.length == 64 && le c 0 1 == 1 && zeroes c 1 1 && le c 2 2 < 4096 && zeroes c 4 4 &&
     le c 8 8 % 64 == 0 && le c 16 8 % 64 == 0 && 64 ≤ le c 16 8 && zeroes c 24 40
   else c.isEmpty)

/-- A plan-constant dictionary is ORDERED, by its DICTREF. -/
def constOrdered (b : Bytes) (r : Nat) : Bool :=
  ((imDicts b).find? (·.1 == r)).any (fun d => dictOrdered (dictOfBytes d.2))

/-- Check 5 for vertex `v`; `slotOk` says whether a key slot of the kennel holds an
algorithm, and `channelFree` whether no other plan uses a channel. -/
def vertConfigOk (b : Bytes) (vs : List Vertex) (es : List Edge) (slotOk : Nat → Nat → Bool)
    (channelFree : Nat → Bool) (v : Nat) (x : Vertex) : Bool :=
  let c := x.cfg
  let r := imRes b
  let from0 := ((edgeInto es v 0).bind (fun e => vs[e.src]?)).map (·.kind)
  let ingest := fun (p : Nat) =>
    ((edgeInto es v p).bind (fun e => vs[e.src]?)).any (fun y => y.kind == kSrcIngest)
  if x.kind = kHound then houndConfigOk vs es v x
  else if x.kind = kFacet then
    facetConfigOk c x.body (imBytes b 4) x.nout x.sramKib (inCapOf es v 0)
      ((List.range x.nout).map (fun p => ((outOf es v p).map (·.log2cap)).getD 0))
  else if x.kind = kShepherd then
    if sheMode c = 1 then buildConfigOk c x (from0 == some kSrcIngest) (inBytesOf es v 0)
    else x.nin == 2 && x.nout == 1 && joinConfigOk c (vDefer x) x.spillKib (ingest 0 || ingest 1)
  else if x.kind = kSort then sortConfigOk (constOrdered b) c x.sramKib x.spillKib
  else if x.kind = kAgg then aggConfigOk c x.sramKib x.spillKib
  else if x.kind = kScent then
    scentConfigOk c x.sramKib x.spillKib &&
    sumOf vs (fun y => if y.kind = kScent then scentNBank y.cfg else 0) == rsScent r
  else if x.kind = kCze then
    czeConfigOk c x.sramKib x.spillKib (rsMaxJobs r) (inBytesOf es v 0)
      (((outOf es v 0).map (·.log2cap)).getD 0) (((outOf es v 0).map (·.tileBytes)).getD 0)
  else if x.kind = kDge then
    dgeConfigOk vs es v (rsDge r) x && (!dgeKeyed (dvAlg c) || slotOk (dvSlot c) (dvAlg c))
  else if x.kind = kExch then exchConfigOk vs (rsExtra r) x && channelFree (exChannel c)
  else
    sinkConfigOk (((vs.take v).filter (fun y => y.kind == kSinkHost)).map (fun y => sinkWindow y.cfg)) x

/-! ### Checks 6 to 10 -/

/-- Check 6 for a code segment (R231, R233). -/
def codeOk (x : Vertex) : Bool :=
  let b := x.body
  le b 0 4 == 0x31444E48 && le b 4 1 == 1 && zeroes b 5 3 && le b 8 4 % 4 == 0 && 64 ≤ le b 8 4 &&
  le b 8 4 < 64 + le b 12 4 && le b 12 4 % 4 == 0 && le b 16 4 % 64 == 0 &&
  (le b 20 4 != 0 || zeroes b 16 4) && zeroes b 28 36 && 64 ≤ b.length &&
  le b 12 4 + 64 ≤ b.length && le b 16 4 + le b 20 4 ≤ b.length

/-- The entries of a dictionary rise strictly in the order of R77. -/
def dictRises (d : DictView) : Bool :=
  let ty := dictType d
  let w := tyWidth ty
  let key := fun (v : Nat) => if tyFloat ty then fTotalKey w v else valInt ty v
  (List.range (dictCount d - 1)).all (fun i => decide (key (d.entry 0 w i) < key (d.entry 0 w (i + 1))))

/-- Check 8 for the dictionary of a table entry (R76, R77, R95). -/
def dictOk (b : Bytes) (i : Nat) : Bool :=
  let (id, off) := dictEntry b i
  let c := imBytes b 4
  let bytes := c.drop off
  let d := dictOfBytes bytes
  1 ≤ id && id ≤ 65535 && off % 64 == 0 && off < c.length &&
  !((List.range i).any (fun j => (dictEntry b j).1 == id)) &&
  le bytes 0 1 == 1 && tyOk (dictType d) && dictType d != 0 && fracOk (dictType d) (dictFrac d) &&
  le bytes 3 1 < 2 && 1 ≤ dictCount d && dictCount d ≤ 1048576 && le bytes 8 4 == id &&
  zeroes bytes 12 20 && dictFits d && (!dictOrdered d || dictRises d)

/-- The origins to which a sink traces back. -/
def originsOf (vs : List Vertex) (es : List Edge) (v : Nat) : List Nat :=
  (traceBack vs es vs.length [v]).filter (fun u => ((vs[u]?).map isOrigin).getD false)

/-- Check 9 for a vertex (R114, R482). -/
def orderOk (vs : List Vertex) (es : List Edge) (v : Nat) (x : Vertex) : Bool :=
  !(isSink x.kind && vOrdered x) ||
  ((originsOf vs es v).length == 1 &&
   !(traceBack vs es vs.length [v]).any (fun u => ((vs[u]?).map (·.kind)).getD 0 == kExch))

/-- Tile slots that a vertex holds in EXTRA_TILES. -/
def extraTiles (x : Vertex) : Nat :=
  if x.kind = kHound then le x.cfg 2 1 * x.nhounds
  else if x.kind = kFacet then facetExtra x.cfg x.nout
  else if x.kind = kShepherd then (if sheMode x.cfg = 1 then x.nout else 1)
  else if x.kind = kSort || x.kind = kAgg || x.kind = kCze || x.kind = kDge then 1
  else if x.kind = kExch then exNNode x.cfg * exCredits x.cfg
  else 0

/-- Check 8: the index of the first dictionary that fails (DEDUCED, safe: log entry 67). -/
def dictFault (b : Bytes) : Option Nat :=
  if dictTableOk b then (List.range (imNdict b)).find? (fun i => !dictOk b i) else some noIndex

/-- Check 10: the declared sums and the reserved fields of RESOURCE (R96). -/
def sumsOk (b : Bytes) (vs : List Vertex) (es : List Edge) : Bool :=
  let r := imRes b
  let has := fun (kind : Nat) => vs.any (fun x => x.kind == kind)
  zeroes r 14 2 && zeroes r 24 40 &&
  1 ≤ rsMaxJobs r && rsMaxJobs r ≤ 1024 && rsHounds r == sumOf vs (·.nhounds) &&
  rsExtra r == sumOf vs extraTiles &&
  rsTiles r == rsExtra r + sumOf es (fun e =>
    if ((vs[e.src]?).map (·.kind)).getD 0 = kSrcIngest then 0 else e.credits) &&
  rsScent r ≤ 8 && (!has kScent || 1 ≤ rsScent r) && rsDge r ≤ 64 && (!has kDge || 1 ≤ rsDge r) &&
  rsWays r ≤ 16 &&
  sumOf es (fun e => e.credits * e.tileBytes) + sumOf vs (fun x => 1024 * x.spillKib) ≤ rsDram r

/-- The first vertex that `ok` refuses. -/
def firstBad (vs : List Vertex) (ok : Nat → Vertex → Bool) : Option Nat :=
  (List.range vs.length).find? (fun v => ((vs[v]?).map (fun x => !ok v x)).getD false)

/-- Checks 2 to 10 of R99, in order: the first that fails. -/
def imageFault (b : Bytes) (major : Nat) (slotOk : Nat → Nat → Bool) (channelFree : Nat → Bool) :
    Option PFault :=
  if !imageOk b major then some (ePlanFormat, noIndex)
  else
    let vs := imVerts b
    let es := imEdges b
    let at' := fun (status : Nat) (i : Option Nat) => i.map (fun n => (status, n))
    (at' ePlanGraph (graphFault b vs es)).or <|
    (at' ePlanCredits (creditFault vs es)).or <|
    (at' ePlanReconv (deferFault vs es)).or <|
    (at' ePlanConfig (firstBad vs (vertConfigOk b vs es slotOk channelFree))).or <|
    (at' ePlanCode (firstBad vs (fun _ x =>
      x.kind != kHound || ((imSec b 2).2 ≤ 67108864 && codeOk x)))).or <|
    (at' ePlanTev (firstBad vs (fun _ x =>
      x.kind != kFacet || !facetTev x.cfg || tevOk x.cfg x.body))).or <|
    (at' ePlanDict (dictFault b)).or <|
    (at' ePlanOrder (firstBad vs (orderOk vs es))).or <|
    (if sumsOk b vs es then none else some (ePlanFormat, noIndex))

end Sys2Proof.Machine
end

