-- ==== Sys2Proof/Machine/TsOps.lean ====
section
/-! DEFINITION. Table-store commands (R423 to R432): their checks, range locks,
pieces, and how they complete. -/

namespace Sys2Proof.Machine

open Sys2Proof

def eTsSpace : Nat := 0x0E01
def eTsField : Nat := 0x0E02
def eTsRange : Nat := 0x0E03
def eTsHosterr : Nat := 0x0E04

/-! ### The entry (R423): offsets count from the header -/

def teSpace (e : Bytes) : Nat := le e 16 2 % 4096
def teOff (e : Bytes) : Nat := le e 24 8
def teLen (e : Bytes) : Nat := le e 32 8
def teArg (e : Bytes) : Nat := le e 40 8

/-- A TS_WRITE or TS_FILL. -/
def tsIsWrite (opc : Nat) : Bool := opc == 0x11 || opc == 0x13

/-- The fields of a command (check 2 of R424). -/
def tsFieldsOk (opc : Nat) (e : Bytes) (size : Nat) : Bool :=
  le e 16 2 < 4096 && zeroes e 18 6 &&
  (if opc = 0x12 then zeroes e 24 8
   else if opc = 0x13 then
     teOff e % 8 == 0 && teLen e % 8 == 0 && 8 ≤ teLen e && teLen e ≤ size
   else 1 ≤ teLen e && teLen e ≤ 2 ^ 32)

/-- The first check of R424 that a command fails. -/
def tsFault (s : State) (k opc : Nat) (e : Bytes) : Option Nat :=
  if le e 1 1 ≠ (if opc = 0x12 then 1 else 2) then some eTsField
  else
    match ownSpace s k (teSpace e) with
    | none => some eTsSpace
    | some t =>
      if !tsFieldsOk opc e (spaceSize t) then some eTsField
      else if opc ≠ 0x12 && spaceSize t < teOff e + teLen e then some eTsRange
      else none

/-! ### Range locks (R428, R429) -/

/-- The command holds an entry of the range-lock table. -/
def tsHolds (c : TsCmd) : Bool := c.opc != 0x12

/-- Entries that a kennel holds. -/
def locksOf (s : State) (k : Nat) : Nat := s.store.cmds.countP (fun c => tsHolds c && c.kennel == k)

/-- Entries of the common pool, and those of them in use. -/
def poolSize (s : State) : Nat := 1024 - 4 * s.kennels.length
def poolUsed (s : State) : Nat := sumOf s.kennels (fun (k, _) => locksOf s k - 4)

/-- An entry is free for the kennel. -/
def lockFree (s : State) (k : Nat) : Bool := locksOf s k < 4 || poolUsed s < poolSize s

/-- The locked range: first byte, and the byte after the last. -/
def tsLockRange (c : TsCmd) : Nat × Nat :=
  (c.off / 4096 * 4096, alignUp (c.off + c.len) 4096)

/-- Two commands conflict (R429). -/
def tsConflict (c d : TsCmd) : Bool :=
  tsHolds c && tsHolds d && c.space == d.space &&
  (tsLockRange c).1 < (tsLockRange d).2 && (tsLockRange d).1 < (tsLockRange c).2 &&
  (tsIsWrite c.opc || tsIsWrite d.opc)

/-- An earlier command holds the command back. -/
def tsHeldBack (s : State) (c : TsCmd) : Bool :=
  s.store.cmds.any (fun d => d.order < c.order && tsConflict c d)

/-- The command can issue now (R403, R429). -/
def tsIssuable (s : State) (c : TsCmd) : Bool :=
  tsHolds c && !c.issued && mayStart s c.kennel && !tsHeldBack s c

/-! ### Taking and completing -/

def tsCmd? (s : State) (order : Nat) : Option TsCmd := s.store.cmds.find? (·.order == order)

def modTs (s : State) (order : Nat) (f : TsCmd → TsCmd) : State :=
  { s with store := { s.store with
      cmds := s.store.cmds.map (fun c => if c.order = order then f c else c) } }

/-- The command is no longer in the table; flushes no longer wait for it. -/
def tsRemove (s : State) (order : Nat) : State :=
  { s with store := { s.store with
      cmds := (s.store.cmds.filter (·.order != order)).map (fun c =>
        { c with waits := c.waits.filter (· != order) }) } }

/-- Flushes that wait for nothing any more complete (R427). -/
def tsFlushes (s : State) : State :=
  (s.store.cmds.filter (fun c => c.opc == 0x12 && c.waits.isEmpty)).foldl (fun s c =>
    completeEntry (tsRemove s c.order) c.kennel c.wq c.seq 0 0xFFFF 0 0 none) s

/-- An accepted command that has passed its checks (R427 to R429). -/
def tsAccept (s : State) (k w seq opc : Nat) (e : Bytes) : State :=
  let c : TsCmd := { order := s.nextOrder, kennel := k, wq := w, seq, opc, space := teSpace e,
                     off := if opc = 0x12 then 0 else teOff e, len := if opc = 0x12 then 0 else teLen e,
                     arg := if opc = 0x12 then 0 else teArg e,
                     waits := if opc = 0x12 then
                         (s.store.cmds.filter (fun d => d.kennel == k && d.space == teSpace e &&
                           tsIsWrite d.opc)).map (·.order)
                       else [] }
  let s := if tsHeldBack s c then cnt s 0xE0104 1 else s
  tsFlushes { s with
    nextOrder := s.nextOrder + 1,
    store := { s.store with cmds := s.store.cmds ++ [c] } }

/-- The pieces of a command: offset and length, none across a 4 KiB boundary (R426). -/
def tsPieces : Nat → Nat → Nat → List (Nat × Nat)
  | 0, _, _ => []
  | n + 1, off, len =>
    if len = 0 then []
    else
      let l := min len (4096 - off % 4096)
      (off, l) :: tsPieces n (off + l) (len - l)

/-- A failure of a command at an offset: no further piece is issued, and the earliest
failure gives the bytes that are certain (R425). -/
def tsFail (c : TsCmd) (status at' : Nat) : TsCmd :=
  { c with
    status := if c.status = 0 then status else c.status,
    upTo := if c.status = 0 then at' else min c.upTo at',
    pieces := c.pieces.take 16 }

/-- A piece has completed; after the last the command completes (R425, R426, R430). -/
def tsPieceDone (s : State) (order off : Nat) : State :=
  let s := modTs s order (fun c => { c with pieces := c.pieces.filter (·.1 != off) })
  match tsCmd? s order with
  | some c =>
    if c.pieces.isEmpty then
      let moved := if c.status = 0 then c.len else c.upTo - c.off
      let s := completeEntry (tsRemove s order) c.kennel c.wq c.seq c.status 0xFFFF moved 0 none
      tsFlushes s
    else s
  | none => s

/-- The offset in a space of the first poisoned line of a range, if there is one. -/
def tsPoison (s : State) (t : TSpace) : Nat → Nat → Nat → Option Nat
  | 0, _, _ => none
  | n + 1, off, fin =>
    if fin ≤ off then none
    else if (cohLine s (spaceLine t (off / 64))).2 then some off
    else tsPoison s t n ((off / 64 + 1) * 64) fin

/-- A piece of a TS_READ: no byte of a poisoned line, or after it, reaches the host
(R342, R425). -/
def tsReadPiece (s : State) (c : TsCmd) (t : TSpace) (off len : Nat) : State :=
  let out := fun (s : State) (n : Nat) =>
    hostWrite s c.kennel (c.arg + (off - c.off)) (tsRead s t off n).1
  match tsPoison s t ((off + len - c.off) / 64 + 2) c.off (off + len) with
  | none => out s len
  | some p =>
    let s := out s (p - off)
    kennelError (modTs s c.order (fun c => tsFail c eDdrUe p)) c.kennel

/-- A piece of a TS_WRITE, with what the host read gave. -/
def tsWritePiece (s : State) (c : TsCmd) (t : TSpace) (off len : Nat) (host : HostRead) : State :=
  let b := (host.getD []).take len
  let s := tsWrite s t off b
  if b.length = len then s
  else kennelError (modTs s c.order (fun c => tsFail c eTsHosterr off)) c.kennel

/-- A piece of a TS_FILL. -/
def tsFillPiece (s : State) (c : TsCmd) (t : TSpace) (off len : Nat) : State :=
  let pat := toLe 8 c.arg
  tsWrite s t off ((List.range len).map (fun i => (pat[(off - c.off + i) % 8]?).getD 0))

/-- A piece of an issued command, of those in flight (R426), completes. -/
def tsPiece (s : State) (c : TsCmd) (off : Nat) (host : HostRead) : Option State :=
  match (c.pieces.take 16).find? (·.1 == off), space? s c.space with
  | some (_, len), some t =>
    if !c.issued || !moverUp s || (c.opc != 0x13 && !hostUp s) then none
    else
      let s := if c.opc = 0x10 then tsReadPiece s c t off len
        else if c.opc = 0x11 then tsWritePiece s c t off len host
        else tsFillPiece s c t off len
      some (tsPieceDone s c.order off)
  | _, _ => none

end Sys2Proof.Machine
end

