-- ==== Sys2Proof/Machine/QueueOps.lean ====
section
/-! DEFINITION. Work queues and completion queues (R369 to R388): doorbells, fetch
and its checks, acceptance, and what a full completion queue holds back. -/

namespace Sys2Proof.Machine

open Sys2Proof

def eWqBadlen : Nat := 0x0101
def eWqOpcode : Nat := 0x0102
def eWqBadpi : Nat := 0x0103
def eWqReserved : Nat := 0x0104
def eWqHostrd : Nat := 0x0105

/-! ### Indices -/

/-- Units of a WQ ring, and units that are not retired (R369). -/
def wqUnits (q : Wq) : Nat := 2 ^ q.log2
def wqLeft (q : Wq) : Nat := (q.pi + 2 ^ 32 - q.ci) % 2 ^ 32

/-- K0 has its PASID, or another kennel its own (R397). -/
def pasidSet (s : State) (k : Nat) : Bool := bitAt (regVal s (0xF0000 + 8 * k)) 63

/-- The device may read and write the memory of the kennel. -/
def hostFor (s : State) (k : Nat) : Bool := hostUp s && pasidSet s k && pState s < 2

/-- Doorbells have an effect now, and are not just recorded (R456, R495). -/
def doorsOpen (s : State) (k : Nat) : Bool := hostFor s k && !s.power.fetchStopped && !devErr s

/-- The WQ holds an entry that may be fetched (R374, R379, R389, R403). -/
def fetchable (s : State) (k : Nat) (q : Wq) : Bool :=
  doorsOpen s k && mayStart s k && !q.stopped && q.reset.isNone && q.pi != q.ci

/-- WQs of a kennel that take part in the round robin: one whose head entry waits is
passed over (R379). -/
def fetchWqs (s : State) (k : Nat) (x : Kennel) : List Nat :=
  (x.wqs.filter (fun e => fetchable s k e.2 && e.2.waits == 0)).map (·.1)

/-- The round robin within a kennel. -/
def fetchInner (s : State) (k : Nat) : Nat × Tbl Nat := tget s.qe.inner k (65535, [])

/-- Kennels that take part in it. -/
def fetchKennels (s : State) : List Nat :=
  (s.kennels.filter (fun e => !(fetchWqs s e.1 e.2).isEmpty)).map (·.1)

/-- The WQ whose turn it is (R379, R507). -/
def fetchTurn (s : State) : Option (Nat × Nat) :=
  match rrPick (arbAge s) s.qe.last s.qe.lost (fetchKennels s) with
  | none => none
  | some k =>
    match kennel? s k with
    | none => none
    | some x =>
      let (last, lost) := fetchInner s k
      (rrPick (arbAge s) last lost (fetchWqs s k x)).map (fun w => (k, w))

/-- The pointers after a WQ's turn: every loser among the kennels, and among the WQs of the
kennel, has lost one more round (R507). -/
def fetchMoved (s : State) (k w : Nat) : State :=
  let ws := match kennel? s k with
    | some x => fetchWqs s k x
    | none => []
  { s with qe := { last := k, lost := rrLost s.qe.lost (fetchKennels s) k,
                   inner := tset s.qe.inner k (w, rrLost (fetchInner s k).2 ws w) } }

/-! ### Stops (R374) -/

/-- A completion that the device makes for a WQ by itself. -/
def deviceCompl (q : Wq) (w : Nat) (bytes : Bytes) : Compl :=
  { cq := q.cq, wq := w, seq := q.seq, bytes, solicit := false, retires := false, job := none }

/-- The WQ stops; its entry carries OPC and TAG where the header was read.
(DEDUCED, unsafe: log entry 45.) -/
def stopWq (s : State) (k w status : Nat) (head : Option Bytes) : State :=
  match wq? s k w with
  | none => s
  | some q =>
    let s := modWq s k w (fun q => { q with
      stopped := true, waits := 0, push := none, reading := false, again := false,
      recorded := false })
    let s := raiseEvent (cnt s 0xE0030 1) (256 + k)
    let (opc, tag) := match head with
      | some h => (le h 0 1, le h 4 2)
      | none => (0xFF, 0xFFFF)
    complete s k (deviceCompl q w (cqeBytes tag status opc w 0xFFFF 0 0 q.seq))

/-- A host read for the WQ failed (R374, R407). -/
def stopRead (s : State) (k w : Nat) (head : Option Bytes) : State :=
  kennelError (stopWq s k w eWqHostrd head) k

/-! ### Acceptance (R371, R373, R375) -/

/-- The table space that an entry names (R423, R201, R329). -/
def entrySpace (b : Bytes) : Option Nat :=
  let opc := le b 0 1
  if 0x10 ≤ opc && opc ≤ 0x13 then some (le b 16 2)
  else if opc = 0x28 then (if le b 20 1 = 1 then some (le b 22 2) else none)
  else if opc = 0x31 || opc = 0x35 then (if le b 18 1 = 1 then some (le b 20 2) else none)
  else none

/-- The entry leaves the ring: it has a SEQNO, and is in flight. -/
def takeEntry (s : State) (k w : Nat) (b : Bytes) (work : Work) : State :=
  let s := modWq s k w (fun q => { q with
    ci := (q.ci + le b 1 1 + 1) % 2 ^ 32, seq := (q.seq + 1) % 2 ^ 32, ciDirty := true, waits := 0,
    push := q.push.filter (fun p => p.1 != q.ci),
    inflight := q.inflight ++ [{ seq := q.seq, opc := le b 0 1, tag := le b 4 2,
                                 solicit := bitAt (le b 2 2) 1, work, space := entrySpace b }] })
  cnt s 0xE0010 1

/-- An entry that completes as soon as it is taken; while the kennel's retirement stalls, it
waits (R383). -/
def takeNow (s : State) (k w seq : Nat) (b : Bytes) (status : Nat) : Option State :=
  if (kennel? s k).any retireStalled then none
  else some (completeEntry (takeEntry s k w b .now) k w seq status 0xFFFF 0 0 none)

/-- OPC is not reserved (R372). -/
def opcKnown (opc : Nat) : Bool :=
  opc == 1 || (0x10 ≤ opc && opc ≤ 0x13) || opc == 0x20 || opc == 0x28 || opc == 0x29 ||
  (0x30 ≤ opc && opc ≤ 0x35)

/-- Acceptance of an entry whose header is right: `none` where it must wait (R26, R105,
R329, R371, R428). -/
def acceptEntry (s : State) (k w : Nat) (q : Wq) (b : Bytes) (host cust : HostRead) : Option State :=
  let opc := le b 0 1
  let seq := q.seq
  if bitAt (le b 2 2) 0 && !q.inflight.isEmpty then none
  else if opc = 1 then takeNow s k w seq b 0
  else if opc = 0x20 then
    if jobSlotFree s k w (jePlan b) && !((kennel? s k).any retireStalled && jobRefused s k b) then
      some (acceptJob (takeEntry s k w b (.job s.nextJob)) k w seq b)
    else none
  else if opc ≤ 0x13 then
    match tsFault s k opc b with
    | some e => takeNow s k w seq b e
    | none =>
      if opc = 0x12 || lockFree s k then
        some (tsAccept (takeEntry s k w b (.ts s.nextOrder)) k w seq opc b)
      else none
  else if opc = 0x28 || opc = 0x29 then
    match scnFault s k opc b with
    | some e => takeNow s k w seq b e
    | none =>
      let (s, status) := if opc = 0x28 then scnLoad s k b host else (scnInval s k b, 0)
      takeNow s k w seq b status
  else if 256 ≤ dgeWaiting s k then none
  else some (dgeAccept (takeEntry s k w b (.dge s.nextOrder)) k w seq opc b host cust)

/-- An entry that cannot be accepted stays at the head. A job start waits for a slot
(R26, R29), and a table-store command for a lock (R428). -/
def awaitEntry (s : State) (k w : Nat) (q : Wq) (b : Bytes) : State :=
  let opc := le b 0 1
  let barrier := bitAt (le b 2 2) 0 && !q.inflight.isEmpty
  let lock := !barrier && 0x10 ≤ opc && opc ≤ 0x13 && !lockFree s k
  let s := if lock && q.waits != 2 then cnt s 0xE0108 1 else s
  let s := modWq s k w (fun q => { q with waits := if lock then 2 else 1 })
  let r : SlotReq := { kennel := k, a := w }
  let limited := match plan? s k (jePlan b) with
    | some p => p.maxJobs ≤ jobsOfPlan s k p.handle
    | none => false
  if opc = 0x20 && !barrier && !limited && !jobSlotFree s k w (jePlan b) && !s.slots.jobWait.contains r then
    { s with slots := { s.slots with jobWait := s.slots.jobWait ++ [r] } }
  else s

/-! ### Fetch (R373, R374, R378) -/

/-- LEN is one that OPC 0x30 to 0x35 requires; other chapters check their own. -/
def entryLenFault (b : Bytes) : Option Nat :=
  let opc := le b 0 1
  if 0x30 ≤ opc && !dgeLenOk opc (le b 1 1) then some eDgeField else none

/-- The head entry of a WQ has been read from its ring, as far as it could be, or
stands in the push buffer. -/
def fetchEntry (s : State) (k w : Nat) (q : Wq) (pushed : Bool) (b : Bytes)
    (host cust : HostRead) : State :=
  let len := le b 1 1
  if b.length < 16 then stopRead s k w none
  else if wqUnits q < q.ci % wqUnits q + len + 1 || wqLeft q < len + 1 then
    stopWq s k w eWqBadlen (some b)
  else if pushed && 2 < len then stopWq s k w eWqBadlen (some b)
  else if b.length < 16 * (len + 1) then stopRead s k w (some b)
  else
    let b := b.take (16 * (len + 1))
    let taken :=
      if !opcKnown (le b 0 1) then takeNow s k w q.seq b eWqOpcode
      else if 4 ≤ le b 2 2 || !zeroes b 6 10 then takeNow s k w q.seq b eWqReserved
      else
        match entryLenFault b with
        | some e => takeNow s k w q.seq b e
        | none => acceptEntry s k w q b host cust
    taken.getD (awaitEntry s k w q b)

/-- The entry that the push buffer holds for the head slot (R378). -/
def pushedEntry (q : Wq) : Option Bytes :=
  match q.push with
  | some (i, b) => if i = q.ci then some b else none
  | none => none

/-- A WQ's head entry is fetched: on its turn, or again after it has had to wait. With
`only`, its OPC must be the one named. -/
def fetchHead (s : State) (r : QueueRef) (only : Option Nat) (e host cust : HostRead) :
    Option State :=
  let k := r.k.val
  let w := r.w.val
  match wq? s k w with
  | none => none
  | some q =>
    let b := ((pushedEntry q).or e).getD []
    let right := match only with
      | some opc => 16 ≤ b.length && le b 0 1 == opc
      | none => true
    if !fetchable s k q || !right then none
    else if q.waits != 0 then some (fetchEntry s k w q (pushedEntry q).isSome b host cust)
    else if fetchTurn s = some (k, w) then
      some (fetchEntry (fetchMoved s k w) k w q (pushedEntry q).isSome b host cust)
    else none

/-! ### Doorbells (R376 to R378) -/

/-- The WQ takes doorbells: it is neither stopped nor being reset (R374, R389). -/
def takesDoors (q : Wq) : Bool := !q.stopped && q.reset.isNone

/-- A plain doorbell. -/
def ringWq (s : State) (k w : Nat) : State :=
  let on := doorsOpen s k
  modWq s k w (fun q =>
    if !takesDoors q then q
    else if !on then { q with recorded := true }
    else if q.reading then { q with again := true }
    else { q with reading := true })

/-- PI has come from the shadow or a push (check 1 of R374). -/
def newPi (s : State) (k w pi : Nat) : State :=
  match wq? s k w with
  | none => s
  | some q =>
    if wqUnits q < (pi + 2 ^ 32 - q.ci) % 2 ^ 32 then stopWq s k w eWqBadpi none
    else modWq s k w (fun q => { q with pi })

/-- Recorded doorbells are served, once fetching goes on (R456, R495). -/
def serveDoors (s : State) : State :=
  if s.power.fetchStopped || !hostUp s then s
  else { s with kennels := s.kennels.map (fun (k, x) =>
      (k, { x with wqs := x.wqs.map (fun (w, q) =>
        (w, if !q.recorded || !takesDoors q then q
            else if q.reading then { q with recorded := false, again := true }
            else { q with recorded := false, reading := true })) })) }

/-! ### Completion queues (R382, R383) -/

/-- The host's CI has been read. -/
def newCi (s : State) (k c : Nat) (ci : Option (BitVec 32)) : State :=
  match ci, cq? s k c with
  | none, _ => kennelError s k
  | some v, some q =>
    if cqSize q < (q.tail + 2 ^ 32 - v.toNat) % 2 ^ 32 then cnt s 0xE002C 1
    else modCq s k c (fun q => { q with ci := v.toNat })
  | _, none => s

/-- Completions wait for the CQ. -/
def cqBacklog (x : Kennel) (c : Nat) : Bool := x.ovf.any (·.cq == c) || x.stalled.any (·.cq == c)

/-- Stalled completions retire while the overflow buffer takes them (R383). -/
def unstall (k : Nat) : Nat → State → State
  | 0, s => s
  | n + 1, s =>
    match kennel? s k with
    | none => s
    | some x =>
      match x.stalled with
      | [] => s
      | e :: r =>
        if retireStalled x then s
        else unstall k n (complete (modKennel s k (fun x => { x with stalled := r })) k e)

/-- The oldest buffered completion of a CQ with space, and the state without it. -/
def drainable (s : State) (k c : Nat) : Option (Compl × State) :=
  match kennel? s k, cq? s k c with
  | some x, some q =>
    if !hostFor s k || cqUsed q == cqSize q || devErr s then none
    else (x.ovf.find? (·.cq == c)).map (fun e =>
      (e, modKennel s k (fun x => { x with ovf := eraseFirst (fun f => f.cq == c) x.ovf })))
  | _, _ => none

/-- It is written, and what has stalled goes on. -/
def drainCq (s : State) (k c : Nat) : Option State :=
  (drainable s k c).map (fun (e, s) =>
    dgeRun (unstall k ((((kennel? s k).map (·.stalled.length)).getD 0) + 1) (writeCqe s k e)))

/-- The oldest stalled completion retires, where the overflow buffer has room for it: it is
buffered, or written now. -/
def unstallOne (s : State) (k : Nat) : Option (List Compl × State) :=
  match kennel? s k with
  | none => none
  | some x =>
    match x.stalled with
    | [] => none
    | e :: r =>
      if retireStalled x then none
      else
        let s := modKennel s k (fun x => { x with stalled := r })
        match cq? s k e.cq with
        | none => some ([], s)
        | some q =>
          some (if mustBuffer s x q e.cq || devErr s then ([], complete s k e)
            else ([e], released (putCqe s k e) k e))

/-- Completions of a kennel that can be written, written within one tick: the entries, and
the state in which moderation has yet to be evaluated (R386). -/
def drainMany (k : Nat) : Nat → List Compl → State → List Compl × State
  | 0, es, s => (es, s)
  | n + 1, es, s =>
    match (kennel? s k).bind (fun x => x.cqs.findSome? (fun (c, _) => drainable s k c)) with
    | some (e, s) => drainMany k n (e :: es) (putCqe s k e)
    | none =>
      match unstallOne s k with
      | some (l, s) => drainMany k n (l ++ es) s
      | none => (es, s)

/-- Writes every held completion of a kennel that can be written: each CQ fires at most
once (R386). -/
def drainAll (s : State) (k : Nat) (x : Kennel) : State :=
  let (es, s) := drainMany k (x.ovf.length + 2 * x.stalled.length + 1) [] s
  x.cqs.foldl (fun s (c, _) =>
    if es.any (·.cq == c) then moderate s k c (es.any (fun e => e.cq == c && e.solicit)) else s) s

/-- The same for every kennel. -/
def drainDevice (s : State) : State := s.kennels.foldl (fun s (k, x) => drainAll s k x) s

end Sys2Proof.Machine
end

