-- ==== Sys2Proof/Machine/Events.lean ====
section
/-! DEFINITION. Meanings of the event registers' writes, of interrupt delivery and of
the host's power states (R387, R388, R518 to R529). -/

namespace Sys2Proof.Machine

open Sys2Proof

/-- The offset of the word of EVT_STATUS that holds a source. -/
def evtWord (n : Nat) : Nat := 0x10000 + 8 * (n / 64)

/-- An armed source requests its vector. -/
def evtRequest (s : State) (n : Nat) : State :=
  if evtArmed s n then requestVector s (field (evtRoute s n) 0 11) else s

/-- A written 1 and a raise meet one pending bit (R520, R528). -/
def evtClear (s : State) (n : Nat) (clear raise : Bool) : State :=
  if !evtListed n then s
  else if clear && raise && evtPending s n then evtRequest s n
  else if raise then raiseEvent s n
  else if clear then setRegField s (evtWord n) (n % 64) 1 0
  else s

/-- EVT_TEST (R529). -/
def execEvtTest (val : BitVec 32) (s : State) : Result :=
  .next (hostAccess (raiseEvent · (val.toNat % 1024)) s)

/-- Writes EVT_STATUSi, while `raised` rise (R519, R520). -/
def writeEvtStatus (s : State) (i val raised : Nat) : State :=
  (List.range 64).foldl (fun s j => evtClear s (64 * i + j) (bitAt val j) (bitAt raised j)) s

/-- EVT_STATUS_CLEAR (R519, R520): `raised` are the sources that rise in the same tick. -/
def execEvtStatusClear (i : Fin 16) (val raised : BitVec 64) (s : State) : Result :=
  .next (writeEvtStatus s i.val (if barOpen s then val.toNat else 0) raised.toNat)

/-- Sources of a word that have become armed with their pending bit set request their
vectors (R520). -/
def evtArmedNow (before after : State) (ns : List Nat) : State :=
  ns.foldl (fun s n =>
    if evtPending s n && evtArmed s n && !evtArmed before n then evtRequest s n else s) after

/-- Writes EVT_MASKi (R520, R529). -/
def writeEvtMask (s : State) (i val : Nat) : State :=
  let off := 0x10080 + 8 * i
  match regFam off with
  | none => s
  | some f =>
    evtArmedNow s (setReg s off (regWritten f (regVal s off) val 0))
      (((List.range 64).map (64 * i + ·)).filter evtListed)

/-- EVT_MASK_WRITE. -/
def execEvtMaskWrite (i : Fin 16) (val : BitVec 64) (s : State) : Result :=
  .next (hostAccess (writeEvtMask · i.val val.toNat) s)

/-- VEC_BASE and VEC_COUNT of a share (R399). -/
def vecBase (sh : Bytes) : Nat := le sh 36 2
def vecCount (sh : Bytes) : Nat := le sh 38 2

/-- A vector is granted to a kennel. -/
def vecGranted (s : State) (k v : Nat) : Bool :=
  match kennel? s k with
  | some x => vecBase x.share ≤ v && v < vecBase x.share + vecCount x.share
  | none => false

/-- Writes EVT_ROUTEs: a vector outside K0's grant is not taken (R523). -/
def writeEvtRoute (s : State) (n val : Nat) : State :=
  let off := 0x11000 + 4 * n
  match regFam off with
  | none => s
  | some f =>
    if 256 ≤ n || !evtListed n || !vecGranted s 0 (val % 2048) then s
    else evtArmedNow s (setReg s off (regWritten f (regVal s off) val 0)) [n]

/-- EVT_ROUTE_WRITE. -/
def execEvtRouteWrite (n : Fin 1024) (val : BitVec 32) (s : State) : Result :=
  .next (hostAccess (writeEvtRoute · n.val val.toNat) s)

/-- Writes KN_EVENT of a kennel (R527): bit 0 is source 256 + k, bit 1 source 512 + k. -/
def writeKnEvent (s : State) (k val raised : Nat) : State :=
  let s := evtClear s (256 + k) (bitAt val 0) (bitAt raised 0)
  evtClear s (512 + k) (bitAt val 1) (bitAt raised 1)

/-- KN_EVENT_CLEAR (R527). -/
def execKnEventClear (k : Fin 256) (val : BitVec 64) (raised : BitVec 2) (s : State) : Result :=
  attempt (fun s =>
    if (kennel? s k.val).isNone then none
    else
      some (writeKnEvent s k.val (if barOpen s then val.toNat else 0) raised.toNat)) s

/-! ### Delivery (R387) -/

/-- MSIX_SEND: a requested vector is sent, or held. -/
def execMsixSend (v : Fin 2048) (s : State) : Result :=
  attempt (fun s =>
    if !s.vreq.contains v.val then none
    else
      let s := { s with vreq := s.vreq.filter (· != v.val) }
      some (if vectorOpen s v.val then sendVector s v.val
        else { s with pba := addNew s.pba v.val })) s

/-- Clears the Mask bit of a vector. -/
def unmaskVector (s : State) (v : Nat) : State :=
  sendHeld (setRegField s (0x3F0000C + 16 * v) 0 1 0)

/-- MSIX_UNMASK. -/
def execMsixUnmask (t : UnmaskTarget) (s : State) : Result :=
  match t with
  | .vector v => .next (hostAccess (unmaskVector · v.val) s)
  | .function => .next (sendHeld { s with pins := { s.pins with functionMask := false } })

/-! ### Host power states (R388) -/

/-- The function is in D0 with Bus Master Enable set again: held completions, then
pending vectors, then the commands that write to the host, and fetching. -/
def hostBack (s : State) : State := serveDoors (dgeRun (sendHeld (drainDevice s)))

/-- A CQ with WAKE_EN of a kennel holds a completion that could not be written (R388). -/
def wakeHeld (x : Kennel) : Bool := x.cqs.any (fun e => e.2.wake && cqBacklog x e.1)

/-- The function has gone to D3hot: completions that are held already wake the host. -/
def hostGone (s : State) : State :=
  if s.pins.d3 && s.pins.pmeEn && !s.pins.pmeStatus && s.kennels.any (fun e => wakeHeld e.2) then
    signalPme s
  else s

/-- HOST_D_STATE_CHANGE. The write of the power register that returns the function to
D0 clears PME_Status (DEDUCED, unsafe: log entry 90). -/
def execHostDStateChange (d3 busMaster pmeEn linkUp : Bool) (s : State) : Result :=
  let was := hostUp s
  let s := { s with pins := { s.pins with
    d3, busMaster, pmeEn, linkUp, pmeStatus := s.pins.pmeStatus && d3,
    wakeLow := s.pins.wakeLow && !linkUp } }
  .next (if !was && hostUp s then hostBack s else hostGone s)

/-- PME_REPEAT: PME_Status still stands. -/
def execPmeRepeat (linkUp : Bool) (s : State) : Result :=
  attempt (fun s =>
    if !s.pins.pmeStatus then none
    else some (signalPme { s with pins := { s.pins with linkUp } })) s

end Sys2Proof.Machine
end

