-- ==== Sys2Proof/Machine/Dmp.lean ====
section
/-! DEFINITION. The mailbox protocol (R448 to R451, R495, R505): how a request is
taken, held or refused, the checks of its header, and how it is answered. -/

namespace Sys2Proof.Machine

open Sys2Proof

def eHrdOpcode : Nat := 0x0F01
def eHrdLength : Nat := 0x0F02
def eHrdField : Nat := 0x0F03
def eHrdOrder : Nat := 0x0F04
def eHrdDram : Nat := 0x0F05
def eHrdHostrd : Nat := 0x0F06
def eHrdRecovery : Nat := 0x0F07
def eKnDenied : Nat := 0x0D07
def ePwrState : Nat := 0x1102
def ePwrDeverr : Nat := 0x1103

/-! ### Mailboxes (R448) -/

/-- The number of MB0 among the mailboxes. -/
def mb0 : Nat := 256

/-- The number of a mailbox: that of its kennel, or 256. -/
def mbNum : Mb → Nat
  | .mb0 => mb0
  | .kn k => k.val

/-- The kennel for which a mailbox acts: K0 for MB0 (R398). -/
def mbKennel (n : Nat) : Nat := if n = mb0 then 0 else n

/-- HRD_MB0STATUS or KN_MBSTATUS: RESP is bit 1 and BUSY bit 0. -/
def mbReg (n : Nat) : Nat := if n = mb0 then 0x2001008 else page n + 0x3008

/-- The Herder holds a request of the mailbox. -/
def mbBusy (s : State) (n : Nat) : Bool := bitAt (regVal s (mbReg n)) 0

/-- The mailbox exists (R396). -/
def mbExists (s : State) (n : Nat) : Bool := n == mb0 || (kennel? s n).isSome

/-- The event source of a mailbox (R518). -/
def mbSource (n : Nat) : Nat := if n = mb0 then 9 else 512 + n

/-- HRD_BOOT_STATUS.STAGE = 15: the ROM ignores every doorbell (R447). -/
def halted (s : State) : Bool := regField s 0x110000 8 4 == 15

/-- Nothing is served: after a fatal error, when halted, or in P4. -/
def dmpDead (s : State) : Bool := fatal s || halted s || pState s == 4

/-- Writes the response to the request in a window, and clears BUSY (R449). -/
def dmpReply (s : State) (n status : Nat) (body : Bytes) : State :=
  let w := tget s.windows n []
  let r := toLe 2 (le w 0 2 + 0x8000) ++ toLe 2 body.length ++ slice w 4 4 ++ toLe 2 status ++
    zeros 6 ++ body
  let s := { s with windows := tset s.windows n (r ++ w.drop r.length) }
  let s := setReg s (mbReg n) 2
  raiseEvent (emit s (.response n r)) (mbSource n)

/-! ### The catalogue (R451, R487, R511) -/

/-- Who may carry a message: MB0 alone, any mailbox, or MB0 and for itself a kennel's
own. A kennel's own messages come on its mailbox, and on MB0 for K0. -/
inductive DmpWho where
  | mb0 | any | self
  deriving DecidableEq, Repr

/-- The messages: opcode, who may carry it, and LENGTH; BIND_VERDICT's depends on
NDEST. -/
def dmpCatalogue : List (Nat × DmpWho × Nat) :=
  [(0x0001, .mb0, 8), (0x0002, .any, 0), (0x0003, .any, 8), (0x0004, .mb0, 8), (0x0005, .any, 8),
   (0x0006, .any, 0), (0x0007, .any, 32), (0x0100, .mb0, 72), (0x0101, .mb0, 8), (0x0102, .mb0, 72),
   (0x0103, .self, 8), (0x0104, .self, 8), (0x0200, .any, 32), (0x0201, .any, 8), (0x0202, .any, 32),
   (0x0203, .any, 8), (0x0204, .any, 8), (0x0300, .any, 16), (0x0301, .any, 8), (0x0302, .any, 8),
   (0x0400, .any, 24), (0x0401, .any, 16), (0x0402, .any, 8), (0x0500, .any, 8), (0x0501, .any, 8),
   (0x0502, .any, 8), (0x0503, .mb0, 8), (0x0504, .mb0, 0), (0x0505, .mb0, 0), (0x0600, .mb0, 8),
   (0x0700, .mb0, 8), (0x0701, .mb0, 0), (0x0702, .mb0, 8), (0x0800, .mb0, 0), (0x0801, .mb0, 0),
   (0x0802, .mb0, 8), (0x0803, .mb0, 8), (0x0804, .mb0, 8), (0x0900, .mb0, 24), (0x0901, .mb0, 8),
   (0x0902, .mb0, 8), (0x0903, .mb0, 8)]

/-- The row of an opcode. -/
def dmpRow (opc : Nat) : Option (DmpWho × Nat) := (dmpCatalogue.find? (·.1 == opc)).map (·.2)

/-- The mailbox may carry the message (R405, R451). -/
def dmpCarries (who : DmpWho) (r : HeldMsg) : Bool :=
  match who with
  | .any => true
  | .mb0 => r.mb == mb0
  | .self => r.mb == mb0 || le r.msg.body 0 1 == r.mb

/-- LENGTH that the message requires. -/
def dmpLength (opc len : Nat) (body : Bytes) : Nat :=
  if opc = 0x0401 then len + 48 * le body 0 1 else len

/-- Messages served in P2 and P3, and under the device-error condition (R495). -/
def dmpAsleep (opc : Nat) : Bool := [0x0700, 0x0701, 0x0702, 2, 3, 4].contains opc

/-- HRD_BOOT_STATUS.RECOVERY. -/
def inRecovery (s : State) : Bool := bitAt (regVal s 0x110000) 2

/-- Messages served in recovery mode (R447). -/
def dmpRecovery (opc : Nat) : Bool := [2, 3, 4, 6, 0x900, 0x901, 0x902, 0x903].contains opc

/-- Messages that need device DRAM (R450). -/
def dmpDram (opc : Nat) : Bool := [0x0100, 0x0300, 0x0400, 0x0500, 0x0503].contains opc

/-- The checks that come before a message's own (R447, R450, R495, R505): the status
of the first that fails. (DEDUCED, unsafe: log entry 68.) -/
def dmpFault (s : State) (r : HeldMsg) : Option Nat :=
  if devErr s && !(r.mb == mb0 && dmpAsleep r.opcode) then some ePwrDeverr
  else if 2 ≤ pState s && !dmpAsleep r.opcode then some ePwrState
  else
    match dmpRow r.opcode with
    | none => some eHrdOpcode
    | some (who, len) =>
      if inRecovery s && !dmpRecovery r.opcode then some eHrdRecovery
      else if !dmpCarries who r then some eKnDenied
      else if !s.herder.hello && !(1 ≤ r.opcode && r.opcode ≤ 3) && !inRecovery s then some eHrdOrder
      else if s.herder.hello && r.opcode == 1 then some eHrdOrder
      else if r.msg.length.toNat ≠ dmpLength r.opcode len r.msg.body then some eHrdLength
      else if r.msg.status.toNat ≠ 0 || r.msg.rsv then some eHrdField
      else if dmpDram r.opcode && bitAt (regVal s 0x10F004) 3 then some eHrdDram
      else none

/-! ### Taking a request (R449, R450) -/

/-- A message's own effect; the status and body of its reply, or none where the reply
comes later. -/
abbrev Handler := HeldMsg → State → State × Option (Nat × Bytes)

/-- A refusal that changes nothing. (DEDUCED, safe: log entry 23.) -/
def dmpNo (s : State) (status : Nat) : State × Option (Nat × Bytes) := (s, some (status, []))

/-- Success with a body. -/
def dmpYes (s : State) (body : Bytes) : State × Option (Nat × Bytes) := (s, some (0, body))

/-- The place of a mailbox in the round robin: MB0 first. -/
def mbTurn (n : Nat) : Nat := if n = mb0 then 0 else n + 1

/-- The request must wait (R447, R456, R495); one that writes a shadow, for the function to
leave D3hot (R388). -/
def dmpWaits (s : State) (r : HeldMsg) : Bool :=
  !ready s || s.herder.act.isSome || (2 ≤ pState s && r.mb != mb0) ||
  (s.pins.d3 && (r.opcode == 0x0200 || r.opcode == 0x0202))

/-- The mailboxes whose held requests could be served now. -/
def mbTurns (s : State) : List Nat :=
  sortBy (fun a b => decide (a < b)) ((s.herder.held.filter (fun r => !dmpWaits s r)).map (fun r => mbTurn r.mb))

/-- The Herder serves a request. -/
def dmpRun (h : Handler) (r : HeldMsg) (s : State) : State :=
  let s := cnt s 0x110010 1
  let turns := mbTurns s
  let s := { s with herder := { s.herder with mbArb := s.herder.mbArb.won turns (mbTurn r.mb) } }
  match dmpFault s r with
  | some e => dmpReply s r.mb e []
  | none =>
    match h r s with
    | (s, some (status, body)) => dmpReply s r.mb status body
    | (s, none) => s

/-- The request as it stands in the window. -/
def dmpWindow (r : HeldMsg) : Bytes :=
  toLe 2 r.opcode ++ toLe 2 r.msg.length.toNat ++ toLe 4 r.msg.seq.toNat ++
  toLe 2 r.msg.status.toNat ++ toLe 6 (b2n r.msg.rsv) ++ r.msg.body

/-- A doorbell with a request in the window. (DEDUCED, unsafe: log entry 99.) -/
def dmpTake (h : Handler) (r : HeldMsg) (s : State) : State :=
  if dmpDead s || !mbExists s r.mb then s
  else if mbBusy s r.mb then cnt s 0x110014 1
  else
    let w := dmpWindow r
    let s := { s with windows := tset s.windows r.mb (w ++ (tget s.windows r.mb []).drop w.length) }
    let s := setReg s (mbReg r.mb) 1
    if dmpWaits s r then { s with herder := { s.herder with held := s.herder.held ++ [r] } }
    else dmpRun h r s

/-- A request of a mailbox with nothing beside it. -/
def dmpMsg (mb : Mb) (opcode : Nat) (m : Msg) : HeldMsg :=
  { mb := mbNum mb, opcode, msg := m, host := none, fresh := [], tclkKhz := 0, tagError := false }

/-- The kennel for which a request acts. -/
def HeldMsg.kennel (r : HeldMsg) : Nat := mbKennel r.mb

/-- A little-endian field of the body. -/
def HeldMsg.at (r : HeldMsg) (off n : Nat) : Nat := le r.msg.body off n

/-- Bytes of the body that must be 0. -/
def HeldMsg.zero (r : HeldMsg) (off n : Nat) : Bool := zeroes r.msg.body off n

end Sys2Proof.Machine
end

