-- ==== Sys2Proof/Machine/Jobs.lean ====
section
/-! DEFINITION. Meanings of the commands that move jobs on (R26 to R30, R101, R107 to
R119). -/

namespace Sys2Proof.Machine

open Sys2Proof

/-! ### Slots and engines -/

/-- SLOT_GRANT (R29): a free slot goes to the next kennel that waits. -/
def execSlotGrant (kind : SlotKind) (s : State) : Result :=
  attempt (fun s =>
    let waits := match kind with | .job => s.slots.jobWait | .tile => s.slots.tileWait
    let arb := match kind with | .job => s.slots.jobArb | .tile => s.slots.tileArb
    let ks := (sortBy (· < ·) ((waits.map (·.kennel)).foldl addNew [])).filter (slotFor s kind)
    match arb.pick (arbAge s) ks with
    | none => none
    | some k =>
      (waits.find? (fun r => r.kennel == k)).map (fun r =>
        let left := waits.erase r
        match kind with
        | .job => { s with slots := { s.slots with
            jobWait := left, jobGrant := s.slots.jobGrant ++ [r], jobArb := arb.won ks k } }
        | .tile => { s with slots := { s.slots with
            tileWait := left, tileGrant := s.slots.tileGrant ++ [r], tileArb := arb.won ks k } })) s

/-- ENGINE_SCHEDULE (R101, R402): an engine that serves no vertex takes the next. -/
def execEngineSchedule (e : EngineId) (s : State) : Result :=
  attempt (fun s =>
    if (servingVx s e).isSome || unitGated s (engineUnit e) then none
    else (engineGrant s e).map (fun g => setEngine s e g.1)) s

/-! ### Publishing and ends -/

/-- TILE_PUBLISH (R116, R119). -/
def execTilePublish (v : VertexRef) (port : Fin 8) (s : State) : Result :=
  attempt (fun s =>
    match vx? s v with
    | some x => if vxLive x then publishNext s x port.val else none
    | none => none) s

/-- SPILL_READBACK (R119): port 0 has ended, and a spilled tile comes next. -/
def execSpillReadback (v : VertexRef) (port : Fin 8) (s : State) : Result :=
  attempt (fun s =>
    match liveVx s v with
    | none => none
    | some x =>
      match inHead x port.val, inEdge? x.plan x.vid port.val with
      | some (.spilled b), some (e, d) =>
        if !portEnded x 0 then none
        else
          let s := modEdge s x.j e (fun g => { g with queues := lmod g.queues d (fun q =>
            .tile 0 b :: q.drop 1) })
          some (modVert s x.j x.vid (fun w => { w with spilled := w.spilled - b.length }))
      | _, _ => none) s

/-- END_MARK_SEND (R107, R108): inputs have ended; the vertex's last work is done, and
its end marks go out once nothing is left. -/
def execEndMarkSend (v : VertexRef) (s : State) : Result :=
  attempt (fun s =>
    match vx? s v with
    | none => none
    | some x =>
      if !vxLive x || x.st.endSent || isSink x.vert.kind ||
          !allEnded x ||
          (x.vert.kind == kSrcIngest && !ingestEnded s x) then none
      else some (endVertex s x)) s

/-! ### Ends of jobs -/

/-- The sinks of a job, by VID. -/
def jobSinks (s : State) (j : Nat) : List Vx :=
  match job? s j with
  | none => []
  | some b => ((List.range b.verts.length).filterMap (fun v => vx? s { job := j, vid := v })).filter
      (fun x => isSink x.vert.kind)

/-- JOB_COMPLETE (R108): every sink has its end marks and has finished writing. -/
def execJobComplete (j : Nat) (s : State) : Result :=
  attempt (fun s =>
    match job? s j with
    | none => none
    | some b =>
      if !jobLive b then none
      else
        let s := (jobSinks s j).foldl sinkClose s
        if (jobSinks s j).all (fun x => (sinkOf x.st).closed) then
          (job? s j).map (fun b => retireJob s j b 0 0xFFFF)
        else none) s

/-- JOB_FAIL_RETIRE (R109): every vertex of a failed job has stopped. -/
def execJobFailRetire (j : Nat) (s : State) : Result :=
  attempt (fun s =>
    match job? s j with
    | none => none
    | some b =>
      match b.failed with
      | some (status, vid) =>
        if b.abandoned || b.retired || !allStopped b then none
        else some (retireJob s j b status vid)
      | none => none) s

/-- JOB_TIMEOUT (R110): TIMEOUT_MS have passed since acceptance. (DEDUCED, safe: log entry 19.) -/
def execJobTimeout (j : Nat) (s : State) : Result :=
  attempt (fun s =>
    match job? s j with
    | none => none
    | some b =>
      if jobLive b && jeFlags b.entry == 1 then some (failJob s j eJobTimeout 0xFFFF) else none) s

/-- Raises the abort line of the Hounds that run a job (R237): a WFI of theirs ends (R283). -/
def abortHounds (s : State) (hs : List Nat) : State :=
  hs.foldl (fun s h =>
    endWfi (modHound s h (fun x => { x with ipend := x.ipend ||| 1 })) h) s

/-- UNIT_STOP (R109, R111): a vertex of a failed or abandoned job stops at its
boundary; a Hound vertex once its Hounds have left the job. -/
def execUnitStop (v : VertexRef) (s : State) : Result :=
  attempt (fun s =>
    match vx? s v with
    | none => none
    | some x =>
      if x.st.stopped || x.job.retired || !(x.job.failed.isSome || x.job.abandoned) then none
      else
        let busy := x.vert.units.filter (fun h => x.vert.kind == kHound && (hound s h).job == some x.j)
        some (if busy.isEmpty then stopVertex s x else abortHounds s busy)) s

end Sys2Proof.Machine
end

