-- ==== Sys2Proof/Machine/Dram.lean ====
section
/-! DEFINITION. Meanings of the DRAM commands (R341 to R350). -/

namespace Sys2Proof.Machine

open Sys2Proof

/-- A reader receives a poisoned line (R342, R504). -/
def readerPoisoned (s : State) (who : Requester) : State :=
  match who with
  | .vertex v =>
    match vx? s v with
    | some x => failVx s x eDdrUe
    | none => s
  | .hound h =>
    match (hound s h.val).job, (hound s h.val).serves with
    | some j, some (k, _, vid, _) => abortHounds (failJob (kennelError s k) j eDdrUe vid) [h.val]
    | _, _ => s
  | .herder => deviceError s 5 none
  | .none => s

/-- A read that reaches its subchannel: the queue answers it, or DRAM (R341, R349). -/
def dramRead (s : State) (line : Nat) (who : Requester) (ecc : EccOutcome) (dev : Nat) : State :=
  match wqFind s line with
  | some e =>
    let s := dramCnt s (chanOfLine line) 4
    if e.poison then readerPoisoned s who else s
  | none =>
    if linePoison s line then readerPoisoned s who
    else
      match ecc with
      | .ok => s
      | .corrected => dramCe s line dev
      | .uncorrectable => readerPoisoned (dramUe s line 2 dev) who

/-- The pause of a re-tune holds a request to its channel (R345). -/
def pauseHold (s : State) (r : DramReq) : State :=
  { s with dram := { s.dram with pauseReqs := s.dram.pauseReqs ++ [r] } }

/-- DRAM_READ (R341, R342, R349). -/
def execDramRead (line : Nat) (who : Requester) (ecc : EccOutcome) (dev : BitVec 5) (s : State) :
    Result :=
  attempt (fun s =>
    if !dramUp s line then none
    else if paused s (chanOfLine line) then some (pauseHold s (.read line who ecc dev))
    else some (dramRead s line who ecc dev.toNat)) s

/-- DRAM_WRITE (R19, R348): a direct write, with what ECC finds where the line is read
first. -/
def execDramWrite (line : Nat) (mask : BitVec 64) (w : LineWrite) (s : State) : Result :=
  let w : HeldWrite := { line, mask, data := w.data, ecc := w.ecc, dev := w.dev.toNat }
  attempt (fun s =>
    if !dramUp s line then none
    else if paused s (chanOfLine line) then some (pauseHold s (.write w))
    else some (dramPut s w)) s

/-- DRAM_WQ_ISSUE (R348): a burst from 48 entries down to 16, or one entry. -/
def execDramWqIssue (ch : Fin 16) (sub : Fin 2) (s : State) : Result :=
  attempt (fun s =>
    let q := 2 * ch.val + sub.val
    let n := (tget s.dram.wqs q []).length
    if n = 0 || bitAt (gstatus s) 4 || paused s ch.val then none
    else some (wqRefill 64 q (wqIssue (if 48 ≤ n then n - 16 else 1) q s))) s

/-- DRAM_PATROL_READ (R343): the channel's next line in turn; lines in the write queue and
lost eighths are skipped. (DEDUCED, unsafe: log entry 27.) -/
def execDramPatrolRead (ch : Fin 16) (ecc : EccOutcome) (dev : BitVec 5) (s : State) : Result :=
  attempt (fun s =>
    let c := ch.val
    let n := tget s.dram.patrol c 0 % channelLines s
    let line := channelLine c n
    if !dramUp s line || !bitAt (regVal s 0x10F00C) 31 || paused s c then none
    else
      let s := { s with dram := { s.dram with patrol := tset s.dram.patrol c ((n + 1) % channelLines s) } }
      if (wqFind s line).isSome || lineLost s line || s.dram.poison.contains line then some s
      else
        match ecc with
        | .ok => some s
        | .corrected => some (recordErr (dramCnt s c 2) line 1 dev.toNat)
        | .uncorrectable => some (dramUe s line 3 dev.toNat)) s

/-- ROW_ACTIVATE (R346): an activate of the row of a line, in the line's bank (R340). -/
def execRowActivate (ch : Fin 16) (sub : Fin 2) (bank row : Nat) (s : State) : Result :=
  attempt (fun s =>
    if !rowUp s ch.val sub.val bank row || paused s ch.val then none
    else
      let key := bankKey ch.val sub.val bank
      let (t, n) := rowGuard s 64 (rowNote (tget s.dram.rows key []) row)
      let s := { s with dram := { s.dram with rows := tset s.dram.rows key t } }
      some (cnt s (0x100020 + 0x800 * ch.val + 12) n)) s

/-- REFRESH_WINDOW_END (R347). -/
def execRefreshWindowEnd (ch : Fin 16) (s : State) : Result := .next (clearRows s ch.val)

/-! ### Re-tunes (R345) -/

/-- The pause of a re-tune ends: the channel goes on with the requests that it held, and
DDR_RETUNE is answered. -/
def retuneEnd (s : State) : State :=
  let d := s.dram
  let s := { s with dram := { d with pause := none, pauseReply := none, pauseReqs := [] } }
  let s := d.pauseReqs.foldl (fun s r =>
    match r with
    | .read line who ecc dev => dramRead s line who ecc dev.toNat
    | .write w => dramPut s w) s
  match d.pauseReply with
  | some mb => dmpReply s mb 0 []
  | none => s

/-- A channel is re-tuned: its delays are what the Herder then finds, and it pauses; one
channel at a time does. -/
def retune (s : State) (c : Nat) : State :=
  let s := if s.dram.pause.isSome then retuneEnd s else s
  let (n, s) := takeFree s
  dramCnt { s with dram := { s.dram with
    retuned := tset s.dram.retuned c n, pause := some c, ceSince := tdel s.dram.ceSince c } } c 6

/-- DDR_RETUNE is served: its reply comes at the end of the pause (R345, R450, R451).
(DESIGN CHOICE, unsafe: log entry 134.) -/
def retuneMsg : Handler := fun r s =>
  if 16 ≤ r.at 0 1 || !r.zero 1 7 then dmpNo s eHrdField
  else if !bitAt (gstatus s) 2 then dmpNo s eHrdDram
  else
    let s := retune s (r.at 0 1)
    ({ s with dram := { s.dram with pauseReply := some r.mb } }, none)

/-- DDR_RETUNE. -/
def execDdrRetune (mb : Mb) (m : Msg) (s : State) : Result :=
  .next (dmpTake retuneMsg (dmpMsg mb 0x0600 m) s)

/-- DDR_RETUNE_AUTO (R345): `dTemp` °C since the last tune, or `dCe` corrected errors within
the hour, of those since the last tune. On a channel that pauses, the pause ends.
(DESIGN CHOICE, safe: log entry 128.) -/
def execDdrRetuneAuto (ch : Fin 16) (dTemp dCe : Nat) (s : State) : Result :=
  attempt (fun s =>
    if paused s ch.val then some (retuneEnd s)
    else if bitAt (gstatus s) 2 && !bitAt (gstatus s) 4 &&
        (8 ≤ dTemp || (1024 ≤ dCe && dCe ≤ tget s.dram.ceSince ch.val 0)) then
      some (retune s ch.val)
    else none) s

/-! ### Zeroing (R350) -/

/-- The eighths hold what has been written to them since they were lost, and else 0; of a
line that was written meanwhile, the zeroing may have come later (R350).
(DEDUCED, safe: log entry 96.) -/
def zeroLost (s : State) : State :=
  let (n, s) := takeFree s
  let gone := fun (line : Nat) => lineLost s line && Config.lostPoison n line
  { s with dram := { s.dram with
    mem := s.dram.mem.filter (fun c => !gone (c.1 / 64)),
    poison := s.dram.poison.filter (fun l => !lineLost s l),
    lost := 0 } }

/-- DRAM_ZEROING_DONE (R350). -/
def execDramZeroingDone (s : State) : Result :=
  attempt (fun s =>
    if bitAt (gstatus s) 5 then some (setRegField (zeroLost s) 0x10F004 5 1 0) else none) s

end Sys2Proof.Machine
end

