-- ==== Sys2Proof/Machine/ShcOps.lean ====
section
/-! DEFINITION. The shared cache as its requesters share it (R351 to R358, R360): ports and
masks, the round robin of a slice, victims, and an access that is over within a step. -/

namespace Sys2Proof.Machine

open Sys2Proof

/-! ### Ports (R351, R354) -/

/-- SHC_PORT_CFG of a port, SHC_STATUS, and whether a port drains. -/
def portCfg (s : State) (p : Nat) : Nat := regVal s (0xD1000 + 8 * p)
def shcFlushing (s : State) : Bool := bitAt (regVal s 0xD0004) 0
def portDrains (s : State) (p : Nat) : Bool := bitAt (portCfg s p) 62
def portStream (s : State) (p : Nat) : Bool := bitAt (portCfg s p) 16

/-- Ports of the classes SYSTEM, MOVER and HOUND; the others are of class ENGINE. -/
def portSystem (p : Nat) : Bool := 59 ≤ p
def portMover (p : Nat) : Bool := 38 ≤ p && p < 54
def portHound (p : Nat) : Bool := 22 ≤ p && p < 38

/-- The effective mask of a request (R354); 0 while the cache is disabled. -/
def shcMask (s : State) (p k : Nat) : Nat :=
  let m := portCfg s p % 65536
  let km := regVal s (0xD2000 + 8 * k)
  if !bitAt (regVal s 0xD0000) 0 then 0
  else if portSystem p then m
  else if portMover p then 0
  else if portHound p then m &&& (km / 65536)
  else m &&& (km % 65536)

/-- SHC_HIT, SHC_MISS, and counter `i` of R364. -/
def cntHit (s : State) (p : Nat) : State := cnt s (0xD3000 + 8 * p) 1
def cntMiss (s : State) (p : Nat) : State := cnt s (0xD3004 + 8 * p) 1
def cntShc (s : State) (i : Nat) : State := cnt s (0xD0010 + 4 * i) 1

def modShc (s : State) (f : ShcSt → ShcSt) : State := { s with shc := f s.shc }
def setShcLine (s : State) (key : Nat) (l : ShcLine) : State :=
  modShc s (fun c => { c with lines := tset c.lines key l })

def opReads (op : ShcOp) : Bool := match op with | .read => true | .write _ _ => false
def opFull (op : ShcOp) : Bool :=
  match op with
  | .read => false
  | .write mask _ => mask == BitVec.allOnes 64

/-! ### Slices (R358) -/

/-- The slice of a line, and SHC_ARB.AGE. -/
def shcSlice (line : Nat) : Nat := shcSet line % 16
def shcAge (s : State) : Nat := regField s 0xD0008 0 8

/-- A round of a slice among the ports that ask, in rising order: the winner, past which
the pointer advances. A port that has now lost AGE rounds in a row is promoted. -/
def sliceRound (s : State) (slice : Nat) (ports : List Nat) : Option (Nat × State) :=
  let a := tget s.shc.arbs slice {}
  (rrPick (shcAge s) a.last a.lost ports).map (fun w =>
    let lost := rrLost a.lost ports w
    let up := lost.countP (fun e => decide (tget a.lost e.1 0 < shcAge s) && decide (shcAge s ≤ e.2))
    let s := modShc s (fun c => { c with arbs := tset c.arbs slice { a with last := w, lost } })
    (w, cnt s 0xD0020 up))

/-! ### Victims (R356, R357) -/

/-- Ways of a set that fills in flight have reserved. -/
def reservedWays (s : State) (set : Nat) : List Nat :=
  s.shc.misses.filterMap (fun (_, m) => m.way.bind (fun w => if w / 16 = set then some (w % 16) else none))

/-- Ways that a request may choose among. -/
def openWays (s : State) (set mask : Nat) : List Nat :=
  (List.range 16).filter (fun w => bitAt mask w && !(reservedWays s set).contains w)

/-- A line of a set. -/
def wayLine (s : State) (set w : Nat) : Option ShcLine := tfind? s.shc.lines (16 * set + w)

/-- Ages every line of the ways. -/
def ageWays (s : State) (set : Nat) (ws : List Nat) : State :=
  modShc s (fun c => { c with lines := ws.foldl (fun t w =>
    tmod t (16 * set + w) (fun l => { l with age := l.age + 1 })) c.lines })

/-- The victim among the ways, after ageing. -/
def victimWay (s : State) (set : Nat) (ws : List Nat) : Nat → Option (Nat × State)
  | 0 => none
  | fuel + 1 =>
    match ws.find? (fun w => (wayLine s set w).isNone) with
    | some w => some (w, s)
    | none =>
      match ws.find? (fun w => (wayLine s set w).any (fun l => 3 ≤ l.age)) with
      | some w => some (w, s)
      | none => if ws.isEmpty then none else victimWay (ageWays s set ws) set ws fuel

/-- What ECC finds in a dirty line as it is read out of the arrays (R360). -/
def eccRead (s : State) (e : EccOutcome) (l : ShcLine) : ShcLine × State :=
  match e with
  | .ok => (l, s)
  | .corrected => (l, raiseEvent (cntShc s 5) 2)
  | .uncorrectable => ({ l with poison := true }, raiseEvent (cntShc s 6) 2)

/-- A way for a fill: its victim is dropped, or goes to the eviction buffer. None where
the request must wait. -/
def takeWay (s : State) (line mask : Nat) (victim : EccOutcome) : Option (Nat × State) :=
  let set := shcSet line
  match victimWay s set (openWays s set mask) 5 with
  | none => none
  | some (w, s) =>
    let key := 16 * set + w
    match wayLine s set w with
    | none => some (key, s)
    | some l =>
      let out := modShc s (fun c => { c with lines := tdel c.lines key })
      if !l.dirty then some (key, out)
      else if 128 ≤ s.shc.ebuf.length then none
      else
        let (l, out) := eccRead out victim l
        some (key, cntShc (modShc out (fun c => { c with
          ebuf := c.ebuf ++ [{ line := l.line, data := l.data, poison := l.poison }] })) 0)

/-- The age with which a port's fill installs, and that of a line that it has hit (R353). -/
def fillAge (s : State) (p : Nat) : Nat := if portStream s p then 3 else 0
def hitAge (s : State) (p : Nat) (l : ShcLine) : Nat := if portStream s p then l.age else 0

/-! ### An access that is over within the step -/

/-- A line read past the cache by a requester that has missed; the queue may forward it. -/
def dramFetch (s : State) (line : Nat) : (BitVec 512 × Bool) × State :=
  (dramLine s line, if (wqFind s line).isSome then dramCnt s (chanOfLine line) 4 else s)

/-- The line is put in a way that it takes; where it finds none, it stays where it is. -/
def shcInstall (s : State) (p mask : Nat) (l : ShcLine) : State × Bool :=
  match takeWay s l.line mask .ok with
  | some (key, s) => (setShcLine s key { l with age := fillAge s p }, true)
  | none => (s, false)

/-- A request of a port done together with its fill: the line as it was found, with its
poison, whether it missed, and the state after it (R352 to R357). (DEDUCED,
safe: log entry 103.) -/
def shcAccess (s : State) (p k line : Nat) (op : ShcOp) : (BitVec 512 × Bool) × Bool × State :=
  let mask := shcMask s p k
  let past := fun (s : State) => match op with
    | .read => s
    | .write m data => directWrite s line m data
  match shcFind s line with
  | some (key, l) =>
    ((l.data, l.poison), false, setShcLine (cntHit s p) key (opLine op { l with age := hitAge s p l }))
  | none =>
    match s.shc.ebuf.find? (·.line == line) with
    | some e =>
      let l := opLine op { line, dirty := true, poison := e.poison, age := 0, data := e.data }
      let s := cntShc s 1
      let inPlace := modShc s (fun c => { c with ebuf := c.ebuf.map (fun x =>
        if x.line = line then { x with data := l.data, poison := l.poison } else x) })
      if mask = 0 then ((e.data, e.poison), false, inPlace)
      else
        match shcInstall s p mask l with
        | (s, true) => ((e.data, e.poison), false, modShc s (fun c => { c with
            ebuf := c.ebuf.filter (·.line != line) }))
        | (_, false) => ((e.data, e.poison), false, inPlace)
    | none =>
      let s := cntMiss s p
      if mask = 0 then
        let (d, s) := dramFetch s line
        (d, true, past (cntShc s 2))
      else if s.shc.misses.any (fun e => fillsLine line e.2) then
        let (d, s) := dramFetch s line
        (d, true, past (cntShc s 3))
      else
        let (d, s) := if opFull op then (dramLine s line, s) else dramFetch s line
        match shcInstall s p mask (opLine op { line, dirty := false, poison := d.2, age := 0, data := d.1 }) with
        | (s, true) => (d, true, s)
        | (s, false) => (d, true, past s)

end Sys2Proof.Machine
end

