-- ==== Sys2Proof/Machine/Shc.lean ====
section
/-! DEFINITION. Meanings of the shared cache's commands (R351 to R360). -/

namespace Sys2Proof.Machine

open Sys2Proof

/-! ### Lookups (R352 to R357) -/

/-- A poisoned line is given to a port: the kennel is flagged and the job that waits for
it fails; a line of a shared structure is a device error (R342, R407, R504). -/
def portPoisoned (s : State) (p k : Nat) (who : Requester) : State :=
  if portSystem p then deviceError s 5 none else readerPoisoned (kennelError s k) who

/-- A read of a poisoned line has its consequences. -/
def afterOp (s : State) (p k : Nat) (op : ShcOp) (who : Requester) (poison : Bool) : State :=
  if opReads op && poison then portPoisoned s p k who else s

/-- The request waits at its port. -/
def shcHold (s : State) (p : Nat) (r : ShcReq) : State :=
  modShc s (fun c => { c with waiting := tset c.waiting p (tget c.waiting p [] ++ [r]) })

/-- A request that the arrays hit. What a mover writes goes to DRAM, and its copy here is
invalid afterwards (R19, R354). -/
def shcHit (s : State) (p : Nat) (r : ShcReq) (key : Nat) (l : ShcLine) : State :=
  let s := cntHit s p
  match r.op, portMover p with
  | .write mask data, true => dramPut s { line := r.line, mask, data }
  | op, _ => afterOp (setShcLine s key (opLine op { l with age := hitAge s p l })) p r.kennel op r.who l.poison

/-- A request that matches a line of the eviction buffer. -/
def shcBuffered (s : State) (p : Nat) (r : ShcReq) (e : EbufLine) (victim : EccOutcome) : State :=
  let l := opLine r.op { line := e.line, dirty := true, poison := e.poison, age := fillAge s p, data := e.data }
  let mask := shcMask s p r.kennel
  if mask = 0 then
    let s := modShc (cntShc s 1) (fun c => { c with ebuf := c.ebuf.map (fun x =>
      if x.line = e.line then { x with data := l.data, poison := l.poison } else x) })
    afterOp s p r.kennel r.op r.who e.poison
  else
    match takeWay s e.line mask victim with
    | none => shcHold s p r
    | some (key, s) =>
      let s := modShc (cntShc s 1) (fun c => { c with ebuf := c.ebuf.filter (·.line != e.line) })
      afterOp (setShcLine s key l) p r.kennel r.op r.who e.poison

/-- The count of an engine's own misses, of the read that an engine makes for a vertex:
SHE_BMP_MISS or SHE_JOIN_MISS, SRT_DICT_MISS, AGG_MISS (R145, R173, R187). -/
def noteMiss (s : State) (who : Requester) : State :=
  match who with
  | .vertex v =>
    match vx? s v with
    | none => s
    | some x =>
      let (base, i) :=
        if x.vert.kind = kShepherd then (0x50010, if isBuild x then 12 else 15)
        else if x.vert.kind = kSort then (0x70010, 4)
        else if x.vert.kind = kAgg then (0x80010, 3)
        else (0, 0)
      if base = 0 then s
      else cntVertex (cnt s (base + 0x1000 * x.vert.inst + 4 * i) 1) x.job.kennel x.job.plan x.vid i 1
  | _ => s

/-- A request that finds the line nowhere. -/
def shcMissed (s : State) (p : Nat) (r : ShcReq) (victim : EccOutcome) : State :=
  let mask := shcMask s p r.kennel
  let wait := fun (s : State) (way : Option Nat) (joined : Bool) =>
    let m : ShcMiss := { kennel := r.kennel, line := r.line, op := r.op, way, joined, who := r.who }
    modShc s (fun c => { c with misses := tset c.misses p m })
  if mask = 0 then
    let s := cntShc (cntMiss (noteMiss s r.who) p) 2
    match r.op with
    | .read => wait s none false
    | .write m data => dramPut s { line := r.line, mask := m, data }
  else if s.shc.misses.any (fun e => e.1 != p && e.2.line == r.line && e.2.way.isSome) then
    wait (cntShc (cntMiss (noteMiss s r.who) p) 3) none true
  else
    match takeWay s r.line mask victim with
    | none => shcHold s p r
    | some (key, s) =>
      let s := cntMiss (noteMiss s r.who) p
      if opFull r.op then
        setShcLine s key (opLine r.op { line := r.line, dirty := true, poison := false, age := fillAge s p, data := 0 })
      else wait s (some key) false

/-- A request that its port holds: during the write-back, while the port drains, while the
cache or DRAM sleeps, and behind the port's own miss of the line (R23, R352, R355, R359). -/
def shcBlocked (s : State) (p line : Nat) : Bool :=
  shcFlushing s || portDrains s p || unitGated s .shc || bitAt (gstatus s) 4 ||
  (tfind? s.shc.misses p).any (·.line == line)

/-- A request that has won its slice; a port with an outstanding miss takes no other. -/
def shcServe (s : State) (p : Nat) (r : ShcReq) (victim : EccOutcome) : State :=
  match shcFind s r.line with
  | some (key, l) => shcHit s p r key l
  | none =>
    match s.shc.ebuf.find? (·.line == r.line) with
    | some e => shcBuffered s p r e victim
    | none => if (tfind? s.shc.misses p).isSome then shcHold s p r else shcMissed s p r victim

/-- What ECC finds in the arrays (R360); none where the error is fatal. -/
def shcEccStep (s : State) (line : Nat) (ecc : ShcEcc) : Option State :=
  match ecc with
  | .ok => some s
  | .tag => none
  | .corrected => some (raiseEvent (cntShc s 5) 2)
  | .data =>
    match shcFind s line with
    | none => some s
    | some (key, l) =>
      let s := raiseEvent (cntShc s 6) 2
      some (if l.dirty then setShcLine s key { l with poison := true }
        else modShc s (fun c => { c with lines := tdel c.lines key }))

/-- The ports that a bit set names. -/
def portsOf (b : BitVec 64) : List Nat := (List.range 64).filter (fun p => b.getLsbD p)

/-- SHC_LOOKUP: the request wins its slice against the ports of `rivals`, which ask in the
same FCLK; where the slice serves another one first, nothing is looked up for it yet
(R358). (DEDUCED, unsafe: log entry 29.) -/
def execShcLookup (port : Fin 64) (k : Fin 256) (line : Nat) (rq : LookupBy) (ecc : LookupEcc)
    (s : State) : Result :=
  let p := port.val
  let r : ShcReq := { kennel := k.val, line, op := rq.op, who := rq.who }
  attempt (fun s =>
    if !dramThere s line then none
    else if shcBlocked s p line then some (shcHold s p r)
    else
      match sliceRound s (shcSlice line) (portsOf (rq.rivals ||| BitVec.ofNat 64 (2 ^ p))) with
      | none => none
      | some (w, s) =>
        if w ≠ p then none
        else
          match shcEccStep s line ecc.line with
          | none => some (fatalError s 1 (some 2))
          | some s => some (shcServe s p r ecc.victim)) s

/-! ### Fills, evictions and drains -/

/-- The requests that a slice's ports hold are tried, one in each of its rounds; those that
must go on waiting are held again. -/
def retrySlice (slice : Nat) : Nat → List (Nat × ShcReq) → State → State
  | 0, rs, s => rs.foldl (fun s e => shcHold s e.1 e.2) s
  | fuel + 1, rs, s =>
    let open' := rs.filter (fun e => !shcBlocked s e.1 e.2.line)
    match sliceRound s slice ((List.range 64).filter (fun p => open'.any (·.1 == p))) with
    | none => rs.foldl (fun s e => shcHold s e.1 e.2) s
    | some (w, s) =>
      match open'.find? (·.1 == w) with
      | none => s
      | some e => retrySlice slice fuel (rs.erase e) (shcServe s w e.2 .ok)

/-- The requests that the ports hold are tried again. -/
def shcRetry (s : State) : State :=
  let held := s.shc.waiting.flatMap (fun e => e.2.map (fun r => (e.1, r)))
  let s := modShc s (fun c => { c with waiting := [] })
  (List.range 16).foldl (fun s i =>
    let rs := held.filter (fun e => shcSlice e.2.line == i)
    retrySlice i rs.length rs s) s

/-- Ports whose effective mask a new kennel mask alters (R354, R355). -/
def maskPorts (s : State) (k v : Nat) : List Nat :=
  let d := regVal s (0xD2000 + 8 * k) ^^^ v
  (List.range 59).filter (fun p => !portMover p &&
    ((portHound p && d / 65536 % 65536 != 0) || (!portHound p && d % 65536 != 0)))

/-- The drains end of those ports that no waiting mask alters. -/
def endDrains (s : State) (ps : List Nat) : State :=
  let others := s.shc.kmasks.flatMap (fun e => maskPorts s e.1 e.2.1)
  (ps.filter (fun p => !others.contains p)).foldl (fun s p => setRegField s (0xD1000 + 8 * p) 62 2 0) s

/-- A kennel's mask waits no more; the mailboxes whose replies have waited for it. -/
def maskDropped (s : State) (k : Nat) : State × List Nat :=
  match tfind? s.shc.kmasks k with
  | none => (s, [])
  | some (v, mbs) =>
    (endDrains (modShc s (fun c => { c with kmasks := tdel c.kmasks k })) (maskPorts s k v), mbs)

/-- The Herder has written a kennel mask, and answers the mailboxes (R355, R401). -/
def maskWritten (s : State) (k v : Nat) (mbs : List Nat) : State :=
  mbs.foldl (fun s n => dmpReply s n 0 []) (setReg s (0xD2000 + 8 * k) v)

/-- The Herder writes each kennel mask whose ports have drained, and ends their drains. -/
def settleMasks (s : State) : State :=
  s.shc.kmasks.foldl (fun s (k, v, _) =>
    if (maskPorts s k v).all (fun p => bitAt (portCfg s p) 63) then
      let (s, mbs) := maskDropped s k
      maskWritten s k v mbs
    else s) s

/-- DRAINED is set once the miss of a draining port has completed (R355). -/
def noteDrained (s : State) (p : Nat) : State :=
  if portDrains s p && (tfind? s.shc.misses p).isNone then
    settleMasks (setRegField s (0xD1000 + 8 * p) 63 1 1)
  else s

/-- A kennel mask is to change: at once where no port that it alters has a miss in flight,
else after the drain of those ports (R355, KL-02). (DEDUCED, safe: log entry 104.) -/
def changeKmask (s : State) (k v : Nat) : State :=
  let (s, mbs) := maskDropped s k
  let ps := maskPorts s k v
  if ps.all (fun p => (tfind? s.shc.misses p).isNone) then maskWritten s k v mbs
  else
    let s := modShc s (fun c => { c with kmasks := tset c.kmasks k (v, mbs) })
    ps.foldl (fun s p => noteDrained (setRegField s (0xD1000 + 8 * p) 62 1 1) p) s

/-- The reply to a message that changes a share or ends one: once the Herder has written the
kennel's mask (R401, R406). -/
def shareReply (s : State) (k mb : Nat) : State × Option (Nat × Bytes) :=
  match tfind? s.shc.kmasks k with
  | some (v, mbs) => (modShc s (fun c => { c with kmasks := tset c.kmasks k (v, mbs ++ [mb]) }), none)
  | none => (s, some (0, []))

/-- The misses that joined a fill complete with it (R352). -/
def joinedMisses (s : State) (line : Nat) : List (Nat × ShcMiss) :=
  s.shc.misses.filter (fun e => e.2.joined && e.2.line == line)

/-- A fill is complete. -/
def shcFilled (s : State) (p : Nat) (m : ShcMiss) : State :=
  let (data, found) := dramLine s m.line
  let poison := m.came.getD found
  let s := if m.came.isNone && (wqFind s m.line).isSome then dramCnt s (chanOfLine m.line) 4 else s
  match m.way with
  | none =>
    let s := modShc s (fun c => { c with misses := tdel c.misses p })
    noteDrained (afterOp s p m.kennel m.op m.who poison) p
  | some key =>
    let js := joinedMisses s m.line
    let all := (p, m) :: js
    let l : ShcLine := { line := m.line, dirty := false, poison, age := fillAge s p, data }
    let l := all.foldl (fun l e => opLine e.2.op l) l
    let s := modShc s (fun c => { c with
      lines := tset c.lines key l,
      misses := c.misses.filter (fun e => !all.any (·.1 == e.1)) })
    all.foldl (fun s e => noteDrained (afterOp s e.1 e.2.kennel e.2.op e.2.who poison) e.1) s

/-- Held requests go on where nothing holds the whole cache. -/
def shcGoOn (s : State) : State := if shcFlushing s then s else shcRetry s

/-- SHC_FILL (R352, R356). -/
def execShcFill (port : Fin 64) (s : State) : Result :=
  attempt (fun s =>
    match tfind? s.shc.misses port.val with
    | none => none
    | some m =>
      if m.joined || !dramUp s m.line || paused s (chanOfLine m.line) then none
      else some (shcGoOn (shcFilled s port.val m))) s

/-- SHC_EVICT_WRITE (R357): the oldest line enters its write queue. -/
def execShcEvictWrite (s : State) : Result :=
  attempt (fun s =>
    match s.shc.ebuf with
    | [] => none
    | e :: r =>
      if paused s (chanOfLine e.line) then none
      else
        (wqPut s e.line (BitVec.allOnes 64) e.data e.poison).map (fun s =>
          shcGoOn (modShc s (fun c => { c with ebuf := r })))) s

/-- SHC_PORT_DRAIN (R355): the drain starts; on a port that is drained it ends, after
the mask has been written (DEDUCED, safe: log entry 97). -/
def execShcPortDrain (port : Fin 64) (s : State) : Result :=
  let p := port.val
  let r := 0xD1000 + 8 * p
  .next (
    if !portDrains s p then noteDrained (setRegField s r 62 1 1) p
    else if bitAt (portCfg s p) 63 && !s.shc.kmasks.any (fun e => (maskPorts s e.1 e.2.1).contains p) then
      shcRetry (setRegField s r 62 2 0)
    else s)

/-! ### Disable and write-back (R359) -/

/-- Every dirty line is written back, and every line is invalid; ECC finds a correctable
error `ces` times, and an uncorrectable one in the lines `ues` (R360). -/
def shcWriteBack (s : State) (ces : Nat) (ues : List Nat) : State :=
  let s := s.shc.ebuf.foldl (fun s e => landLine s e.line e.data e.poison) s
  let s := if ces = 0 then s else raiseEvent (cnt s 0xD0024 ces) 2
  let s := s.shc.lines.foldl (fun s (_, l) =>
    if !l.dirty then s
    else
      let (l, s) := eccRead s (if ues.contains l.line then .uncorrectable else .ok) l
      landLine s l.line l.data l.poison) s
  modShc s (fun c => { c with lines := [], ebuf := [] })

/-- SHC_CTRL.EN = 0 is written. -/
def shcOff (s : State) : State :=
  let s := setRegField (setRegField s 0xD0000 0 1 0) 0xD0004 0 1 1
  modShc s (fun c => { c with enableLater := false })

/-- SHC_CTRL.EN = 1 is written. -/
def shcOn (s : State) : State :=
  if shcFlushing s then modShc s (fun c => { c with enableLater := true })
  else setRegField s 0xD0000 0 1 1

/-- SHC_DISABLE: a write of SHC_CTRL with EN = 0. -/
def execShcDisable (val : BitVec 32) (s : State) : Result :=
  attempt (fun s => if val.getLsbD 0 then none else some (hostAccess shcOff s)) s

/-- SHC_ENABLE: a write of SHC_CTRL with EN = 1. -/
def execShcEnable (val : BitVec 32) (s : State) : Result :=
  attempt (fun s => if val.getLsbD 0 then some (hostAccess shcOn s) else none) s

/-- The write-back ends: FLUSHED is set, and the held requests go on. -/
def shcFlushEnd (s : State) (ces : Nat) (ues : List Nat) : State :=
  let s := setRegField (setRegField (shcWriteBack s ces ues) 0xD0004 0 1 0) 0xD0004 1 1 1
  let s := if s.shc.enableLater then setRegField s 0xD0000 0 1 1 else s
  shcRetry (modShc s (fun c => { c with enableLater := false }))

/-- SHC_FLUSH_DONE: fills in flight have installed; a tag error is fatal (R360). -/
def execShcFlushDone (e : FlushEcc) (s : State) : Result :=
  attempt (fun s =>
    if !shcFlushing s || !s.shc.misses.isEmpty then none
    else some (if e.tagError then fatalError s 1 (some 2) else shcFlushEnd s e.ces e.ues)) s

end Sys2Proof.Machine
end

