-- ==== Sys2Proof/Machine/ResetOps.lean ====
section
/-! DEFINITION. The queue reset (R389 to R392): its reset point, what it does with
each entry, and its completion. -/

namespace Sys2Proof.Machine

open Sys2Proof

/-- What a queue reset does with an entry in flight (R390). -/
inductive Treat where
  | discard | finish | abandon
  deriving DecidableEq, Repr

/-- The treatment of an entry; one that has completed and waits for CQ space
finishes. -/
def treatOf (s : State) (f : Inflight) : Treat :=
  match f.work with
  | .job j =>
    match job? s j with
    | some b => if b.retired then .finish else .abandon
    | none => .finish
  | .ts o =>
    match tsCmd? s o with
    | some c => if c.issued then .finish else .discard
    | none => .finish
  | .dge o =>
    match s.dge.cmds.find? (·.order == o) with
    | some c => if c.started then .abandon else .discard
    | none => .finish
  | .scn _ | .now => .finish

/-- A DGE_UPDATE that has been taken stops: its context returns to EMPTY (R390). -/
def abandonUpdate (s : State) (o : Nat) : State :=
  match s.dge.cmds.find? (·.order == o) with
  | none => s
  | some c =>
    let s := modDge s (fun d => { d with cmds := d.cmds.filter (·.order != o) })
    match msgCtx s c.kennel (le c.body 0 2) with
    | some (i, x) => setCtx s i (ctxEmpty x)
    | none => s

/-- The work of an entry is discarded or abandoned. -/
def treatEntry (s : State) (f : Inflight) : State :=
  match treatOf s f, f.work with
  | .abandon, .job j => modJob s j (fun b => { b with abandoned := true })
  | .abandon, .dge o => abandonUpdate s o
  | .discard, .ts o => tsRemove s o
  | .discard, .dge o => modDge s (fun d => { d with cmds := d.cmds.filter (·.order != o) })
  | _, _ => s

/-- Entries of a ring that have not been accepted. Their headers have not been read,
so that their number is a free value between what the units allow.
(DEDUCED, safe: log entry 70.) -/
def ringEntries (s : State) (q : Wq) : Nat × State :=
  let units := wqLeft q
  let least := ceilDiv units 256
  if units = least then (units, s)
  else
    let (n, s) := takeFree s
    (least + n % (units - least + 1), s)

/-- The entry stays in flight after the reset point: it finishes, or it is a job that has
yet to reach its boundary. -/
def staysInFlight (s : State) (f : Inflight) : Bool :=
  decide (treatOf s f = .finish) || (decide (treatOf s f = .abandon) &&
    (match f.work with | .job _ => true | _ => false))

/-- A WQ meets the reset point (R389, R390). -/
def resetWq (s : State) (k w : Nat) : State :=
  match wq? s k w with
  | none => s
  | some q =>
    if q.reset.isSome then s
    else
      let count := fun (t : Treat) => q.inflight.countP (fun f => decide (treatOf s f = t))
      let stay := q.inflight.filter (staysInFlight s)
      let (ring, s') := ringEntries s q
      let r : QReset := { discarded := ring + count .discard, abandoned := count .abandon,
                          finished := count .finish, waitFor := stay.map (·.seq) }
      let s' := modWq (q.inflight.foldl treatEntry s') k w (fun q => { q with
        inflight := stay, reset := some r, push := none, waits := 0, reading := false,
        again := false, recorded := false, ciDirty := false })
      let s' := { s' with slots := { s'.slots with
        jobWait := s'.slots.jobWait.filter (fun g => !(g.kennel == k && g.a == w)),
        jobGrant := s'.slots.jobGrant.filter (fun g => !(g.kennel == k && g.a == w)) } }
      q.inflight.foldl (fun s f => match f.work with | .job j => dropAbandoned s j | _ => s) s'

/-- A CQ all of whose WQs are reset is reset with them (R392; log entry 91). -/
def noteCqResets (s : State) (k : Nat) : State :=
  modKennel s k (fun x => { x with cqs := x.cqs.map (fun (c, q) =>
    let bound := x.wqs.filter (fun e => e.2.cq == c)
    (c, if !bound.isEmpty && bound.all (fun e => e.2.reset.isSome) then { q with resetting := true }
        else q)) })

/-- The reset point of a set of WQs of a kennel. -/
def resetWqs (s : State) (k : Nat) (ws : List Nat) : State :=
  let s := ws.foldl (fun s w => resetWq s k w) s
  dgeRun (tsFlushes (noteCqResets s k))

/-- Every WQ of a kennel. -/
def resetKennelWqs (s : State) (k : Nat) : State :=
  match kennel? s k with
  | some x => resetWqs s k (x.wqs.map (·.1))
  | none => s

/-- LAST_SEQ of R391. -/
def lastSeqOf (q : Wq) : Nat := q.lastSeq.getD 0xFFFFFFFF

/-- The reset completion of a WQ (R391). -/
def resetCompl (q : Wq) (w : Nat) (r : QReset) : Compl :=
  deviceCompl q w (cqeBytes 0xFFFF 0 0xFF w 0xFFFF (lastSeqOf q + r.discarded * 2 ^ 32)
    (r.abandoned + r.finished * 2 ^ 32) q.seq)

/-- The body of a QUEUE_RESET reply (R451). -/
def queueResetBody (recs : Tbl (Nat × Nat × Nat × Nat)) : Bytes :=
  (List.range 16).flatMap (fun w =>
    let (a, b, c, d) := tget recs w (0, 0, 0, 0)
    toLe 4 a ++ toLe 4 b ++ toLe 4 c ++ toLe 4 d)

/-- What a reset completion adds to a QUEUE_RESET that waits for the WQ. -/
def QReply.noted (y : QReply) (w : Nat) (rec : Nat × Nat × Nat × Nat) : QReply :=
  if y.left.contains w then
    { y with left := y.left.filter (· != w), records := tset y.records w rec }
  else y

/-- A WQ's reset completion has been written: each DMP reply goes out after the last of its
WQs (R391, R451). -/
def noteQReply (s : State) (k w : Nat) (rec : Nat × Nat × Nat × Nat) : State :=
  let ys := (((kennel? s k).map (·.qreplies)).getD []).map (fun y => y.noted w rec)
  let s := modKennel s k (fun x => { x with qreplies := ys.filter (fun y => !y.left.isEmpty) })
  (ys.filter (fun y => y.left.isEmpty)).foldl (fun s y =>
    dmpReply s y.mailbox 0 (queueResetBody y.records)) s

/-- The reset completion of the WQ has to wait for its CQ (R391): as every completion it
needs space, and the host within reach. -/
def resetWaits (s : State) (x : Kennel) (q : Wq) : Bool :=
  match tfind? x.cqs q.cq with
  | some c => !devErr s && (retireStalled x || mustBuffer s x c q.cq)
  | none => false

/-- The reset of a WQ completes (R391): none while an entry has still to retire, the
completion cannot be written, or the kennel itself is still resetting (R410). -/
def finishReset (s : State) (k w : Nat) : Option State :=
  match kennel? s k, wq? s k w with
  | some x, some q =>
    match q.reset with
    | none => none
    | some r =>
      if !r.waitFor.isEmpty || resetWaits s x q || x.state = 3 then none
      else
        let s := complete s k (resetCompl q w r)
        let s := modWq s k w (fun q => { q with
          pi := 0, ci := 0, seq := 0, stopped := false, reset := none, lastSeq := none,
          inflight := [], ciDirty := !hostUp s })
        let s := if hostUp s then hostWrite s k (q.shadow + 8) (toLe 4 0) else s
        some (noteQReply s k w (lastSeqOf q, r.discarded, r.abandoned, r.finished))
  | _, _ => none

end Sys2Proof.Machine
end

