-- ==== Sys2Proof/Machine/StoreOps.lean ====
section
/-! DEFINITION. The table-space directory (R417 to R422): granules, creation, deletion
and what a table space is referred to by. -/

namespace Sys2Proof.Machine

open Sys2Proof

def eTsLimit : Nat := 0x0E10
def eTsNospace : Nat := 0x0E11
def eTsBusy : Nat := 0x0E12

/-! ### Granules (R340, R418) -/

/-- Granules of device DRAM. -/
def granuleCount (s : State) : Nat := if log2Cap s < 21 then 0 else 2 ^ (log2Cap s - 21)

/-- The eighth in which a granule lies. -/
def granuleEighth (s : State) (g : Nat) : Nat := 8 * g / granuleCount s

/-- Granules that table spaces, creates in progress and plans hold. -/
def granulesUsed (s : State) : List Nat :=
  s.store.spaces.flatMap (fun e => e.2.granules) ++
  s.store.creating.flatMap (fun e => e.2.body.granules) ++
  s.kennels.flatMap (fun e => e.2.plans.flatMap (fun p => p.2.granules))

/-- Free granules in the eighths of a mask, or anywhere for a mask of 0 (R419). -/
def granulesFree (s : State) (mask : Nat) : List Nat :=
  let used := granulesUsed s
  (List.range (granuleCount s)).filter (fun g =>
    !used.contains g && (mask == 0 || bitAt mask (granuleEighth s g)))

/-- Granules that a kennel holds (R418). -/
def kennelGranules (s : State) (k : Nat) : Nat :=
  sumOf s.store.spaces (fun (_, t) => if t.owner = some k then t.granules.length else 0) +
  sumOf s.store.creating (fun (j, c) => if mbKennel j = k then c.body.granules.length else 0) +
  (match kennel? s k with
   | some x => sumOf x.plans (fun p => p.2.granules.length)
   | none => 0)

/-- DRAM_GRANULES of a share. -/
def granuleLimit (sh : Bytes) : Nat := le sh 40 4

/-- `n` of the free granules: which the Herder chooses is open (R418). -/
def chooseGranules : Nat → List Nat → State → List Nat × State
  | 0, _, s => ([], s)
  | n + 1, free, s =>
    match pick s free with
    | none => ([], s)
    | some (g, s) =>
      let (gs, s) := chooseGranules n (free.filter (· != g)) s
      (g :: gs, s)

/-- A line of a granule. -/
def inGranules (gs : List Nat) (line : Nat) : Bool := gs.contains (line / 32768)

/-- The granules read as zero, with valid ECC, for every agent (R419). -/
def zeroGranules (s : State) (gs : List Nat) : State :=
  { s with
    dram := { s.dram with
      mem := gs.foldl (fun m g => m.clear (g * granuleBytes) ((g + 1) * granuleBytes)) s.dram.mem,
      poison := s.dram.poison.filter (fun l => !inGranules gs l),
      wqs := s.dram.wqs.map (fun (i, q) => (i, q.filter (fun e => !inGranules gs e.line))),
      held := s.dram.held.map (fun (i, q) => (i, q.filter (fun e => !inGranules gs e.line))) },
    shc := { s.shc with
      lines := s.shc.lines.filter (fun e => !inGranules gs e.2.line),
      ebuf := s.shc.ebuf.filter (fun e => !inGranules gs e.line) } }

/-! ### Spaces -/

/-- Table spaces that a kennel holds, with creates in progress. -/
def spacesOf (s : State) (k : Nat) : Nat :=
  s.store.spaces.countP (fun e => e.2.owner == some k) + s.store.creating.countP (fun e => mbKennel e.1 == k)

/-- The number is that of a table space, or of one being created. -/
def spaceTaken (s : State) (n : Nat) : Bool :=
  (space? s n).isSome || s.store.creating.any (fun e => e.2.space == n)

/-- The orphaned spaces of a kennel number (R421, R501). -/
def orphans (s : State) (k : Nat) : Tbl TSpace :=
  s.store.spaces.filter (fun e => e.2.owner.isNone && e.2.former == k)

/-- A table space is deleted: its granules are free (R420). -/
def dropSpace (s : State) (n : Nat) : State :=
  { s with store := { s.store with spaces := tdel s.store.spaces n } }

/-- A job in flight refers to a table space (R420). -/
def jobNames (s : State) (b : Job) (n : Nat) : Bool :=
  !b.retired &&
  (match jobPlan s b with
   | none => false
   | some p =>
     b.dictSpaces.contains n ||
     (p.mode == 0 && (List.range (jeNRange b.entry)).any (fun i => le (jeRange b.entry i) 2 2 == n)) ||
     p.verts.any (fun v => (v.kind == kSinkTs && le v.cfg 2 2 == n) ||
       (v.kind == kCze && (czeSave v.cfg || czeRestore v.cfg) && czeTs v.cfg == n)))

/-- The space is referred to (R420). -/
def spaceBusy (s : State) (k n : Nat) : Bool :=
  (match kennel? s k with
   | some x => x.wqs.any (fun e => e.2.inflight.any (fun f => f.space == some n)) ||
       x.quar.any (fun q => q.tspace == n)
   | none => false) ||
  s.jobs.any (fun e => e.2.kennel == k && jobNames s e.2 n)

end Sys2Proof.Machine
end

