-- ==== Sys2Proof/Machine/ShareOps.lean ====
section
/-! DEFINITION. Kennel shares (R399 to R404, R524): their checks, and what the Herder
writes when one takes effect. -/

namespace Sys2Proof.Machine

open Sys2Proof

def eKnField : Nat := 0x0D01
def eKnExists : Nat := 0x0D02
def eKnPasid : Nat := 0x0D03
def eKnOvercommit : Nat := 0x0D04
def eKnInuse : Nat := 0x0D05
def eKnBusy : Nat := 0x0D06
def eKnReset : Nat := 0x0D08

/-! ### Fields (R399) -/

def shHounds (sh : Bytes) (p : Nat) : Nat := le sh (2 + p) 1
def shBanks (sh : Bytes) : Nat := le sh 10 1
def shEngineWays (sh : Bytes) : Nat := le sh 16 2
def shHoundWays (sh : Bytes) : Nat := le sh 18 2
def shGroups (sh : Bytes) : Nat := le sh 27 1 % 16
def shJobs (sh : Bytes) : Nat := le sh 12 2
def shTiles (sh : Bytes) : Nat := le sh 14 2

/-- The mask of an engine kind. -/
def shMask (sh : Bytes) (kind : Nat) : Nat :=
  if kind = kFacet then le sh 20 4 else if kind = kShepherd then le sh 24 1
  else if kind = kAgg then le sh 25 1 else if kind = kSort then le sh 26 1 % 16
  else le sh 26 1 / 16

/-- The engine kinds that a share governs. -/
def shareKinds : List Nat := [kFacet, kShepherd, kSort, kAgg, kCze]

/-- Check 1 of R400. -/
def shareFieldsOk (sh : Bytes) : Bool :=
  le sh 0 1 == 1 && le sh 1 1 < 2 && (List.range 8).all (fun p => shHounds sh p ≤ 16) &&
  le sh 11 1 ≤ 64 && shJobs sh ≤ 1024 && shTiles sh ≤ 16384 && le sh 27 1 < 16 &&
  zeroes sh 33 1 && zeroes sh 35 1 && vecCount sh ≤ 2048 && vecBase sh + vecCount sh ≤ 2048 &&
  zeroes sh 44 20 &&
  (shareZero sh ||
    (1 ≤ le sh 34 1 && shareKinds.all (fun kind => shMask sh kind == 0 || 1 ≤ engineWeight sh kind)))

/-- Check 2 of R400: `others` are the shares of the other kennels. -/
def shareFits (others : List Bytes) (sh : Bytes) : Bool :=
  let all := sh :: others
  (List.range 8).all (fun p => sumOf all (fun x => shHounds x p) ≤ 16) &&
  sumOf all shJobs ≤ 1024 && sumOf all shTiles ≤ 16384 && sumOf all (fun x => le x 11 1) ≤ 64 &&
  others.all (fun o => shBanks o &&& shBanks sh == 0 &&
    (vecCount o == 0 || vecCount sh == 0 ||
     vecBase o + vecCount o ≤ vecBase sh || vecBase sh + vecCount sh ≤ vecBase o))

/-- The shares of every kennel but one. -/
def otherShares (s : State) (k : Nat) : List Bytes :=
  (s.kennels.filter (fun e => e.1 != k)).map (fun e => e.2.share)

/-! ### What a kennel holds (check 3 of R400) -/

/-- Hounds of a pack that a kennel's plans hold (R100). -/
def packHounds (x : Kennel) (p : Nat) : Nat :=
  sumOf x.plans (fun (_, pl) => sumOf pl.verts (fun v =>
    if v.kind = kHound then v.units.countP (fun h => h / 16 == p) else 0))

/-- The placement of a vertex stays inside a share. -/
def vertexInside (sh : Bytes) (v : Vertex) : Bool :=
  if v.kind = kScent then v.units.all (fun b => bitAt (shBanks sh) b)
  else if shareKinds.contains v.kind then bitAt (shMask sh v.kind) v.inst
  else true

/-- Ways of a mask. -/
def waysOf (mask : Nat) : Nat := popCount 16 mask

/-- Nothing that the kennel holds is withdrawn (check 3 of R400, R524). -/
def shareCovers (s : State) (k : Nat) (x : Kennel) (sh : Bytes) : Bool :=
  (List.range 8).all (fun p => packHounds x p ≤ shHounds sh p) &&
  x.plans.all (fun (_, pl) => pl.verts.all (vertexInside sh) &&
    pl.shcWays ≤ waysOf (shEngineWays sh) && pl.shcWays ≤ waysOf (shHoundWays sh)) &&
  sumOf x.plans (fun p => p.2.maxJobs) ≤ shJobs sh &&
  sumOf x.plans (fun p => p.2.maxJobs * p.2.tileSlots) ≤ shTiles sh &&
  dgeReserved x + dgeInUse s k ≤ le sh 11 1 && dgeSlotsOf s k ≤ le sh 11 1 &&
  x.cqs.all (fun (_, q) => vecBase sh ≤ q.vector && q.vector < vecBase sh + vecCount sh) &&
  kennelGranules s k ≤ granuleLimit sh &&
  (k != 0 || ((List.range 256).filter (evtArmed s)).all (fun n =>
    let v := field (evtRoute s n) 0 11
    vecBase sh ≤ v && v < vecBase sh + vecCount sh))

/-! ### Taking effect -/

/-- The routes of a kennel's two sources (R523). -/
def routeKennel (s : State) (k : Nat) (sh : Bytes) : State :=
  let v := if vecCount sh = 0 then 0 else 2 ^ 31 + vecBase sh
  setReg (setReg s (0x11000 + 4 * (256 + k)) v) (0x11000 + 4 * (512 + k)) v

/-- ING_KPERMIT of every group. -/
def permitKennel (s : State) (k groups : Nat) : State :=
  (List.range 4).foldl (fun s g =>
    setRegField s (0x20040 + 0x1000 * g + 8 * (k / 64)) (k % 64) 1 (b2n (bitAt groups g))) s

/-- The Herder writes the values of a share to the units (R399, R401, R523). -/
def writeShare (s : State) (k : Nat) (sh : Bytes) : State :=
  let s := changeKmask s k (shHoundWays sh * 2 ^ 16 + shEngineWays sh)
  routeKennel (permitKennel s k (shGroups sh)) k sh

/-- K0's share after a reset (R404). -/
def k0Share (s : State) : Bytes :=
  toLe 1 1 ++ zeros 10 ++ toLe 1 4 ++ toLe 2 64 ++ toLe 2 1024 ++ toLe 2 0xFFFF ++ toLe 2 0xFFFF ++
  toLe 4 0xFFFFFFFF ++ toLe 1 0xFF ++ toLe 1 0xFF ++ toLe 1 0xFF ++ zeros 1 ++
  [1, 1, 1, 1, 1, 0, 1, 0] ++ toLe 2 0 ++ toLe 2 64 ++ toLe 4 (granuleCount s) ++ zeros 20

/-- K0 comes into being at the end of a boot (R396, R404). -/
def bringK0 (s : State) : State :=
  let sh := k0Share s
  writeShare { s with kennels := tset s.kennels 0 { pasid := 0, share := sh } } 0 sh

end Sys2Proof.Machine
end

