-- ==== Sys2Proof/Machine/PlanLoad.lean ====
section
/-! DEFINITION. Admission of plans and their unloading, and PLAN_STATUS (R98 to R102,
R126, R195, R451, R452, R461). -/

namespace Sys2Proof.Machine

open Sys2Proof

def ePlanBusy : Nat := 0x040A
def eAdmitPlans : Nat := 0x0410
def eAdmitIngest : Nat := 0x0411
def eAdmitHounds : Nat := 0x0412
def eAdmitEngines : Nat := 0x0413
def eAdmitSram : Nat := 0x0414
def eAdmitShc : Nat := 0x0415
def eAdmitScent : Nat := 0x0416
def eAdmitDge : Nat := 0x0417
def eAdmitJobs : Nat := 0x0418
def eAdmitTiles : Nat := 0x0419
def eAdmitDram : Nat := 0x041A

/-! ### Placement (R101, R126; DEDUCED, unsafe: log entry 94) -/

/-- Instances of an engine kind, and SRAM of each in KiB (R14). -/
def kindInstances (kind : Nat) : Nat :=
  if kind = kFacet then 32 else if kind = kShepherd || kind = kAgg then 8 else 4
def kindSram (kind : Nat) : Nat :=
  if kind = kFacet then 1024 else if kind = kShepherd || kind = kAgg then 4096
  else if kind = kSort then 3072 else 2048

/-- Every placed vertex of the device. -/
def placedVerts (s : State) : List Vertex :=
  s.kennels.flatMap (fun e => e.2.plans.flatMap (fun p => p.2.verts))

/-- MAX_OPEN of an event-build vertex; 0 for any other. -/
def openNeed (v : Vertex) : Nat :=
  if v.kind = kShepherd && sheMode v.cfg = 1 then shbMaxOpen v.cfg else 0

/-- What a placement has settled: VID and pack or instance. -/
abbrev Places := List (Nat × Nat)

/-- What vertices of a plan that stand at instance `n` of a kind need, by `f`. -/
def needAt (vs : List Vertex) (done : Places) (kind n : Nat) (f : Vertex → Nat) : Nat :=
  sumOf done (fun (v, i) =>
    match vs[v]? with
    | some x => if x.kind = kind ∧ i = n then f x else 0
    | none => 0)

/-- The pack die of a pack or an instance; a CZE stands on the hub (R14, R15). -/
def dieOf (kind n : Nat) : Option Nat :=
  if kind = kCze then none
  else if kind = kHound then some (n / 2)
  else some (n / (kindInstances kind / 4))

/-- The vertex may stand there beside what already does: free Hounds of the share, or
SRAM and open-event slots (checks 12 and 14 of R99). -/
def mayStand (s : State) (x : Kennel) (vs : List Vertex) (done : Places) (v : Vertex) (n : Nat) :
    Bool :=
  if v.kind = kHound then
    packHounds x n + needAt vs done kHound n (·.nhounds) + v.nhounds ≤ shHounds x.share n
  else
    let here := (placedVerts s).filter (fun y => y.kind == v.kind && y.inst == n)
    bitAt (shMask x.share v.kind) n &&
    sumOf here (·.sramKib) + needAt vs done v.kind n (·.sramKib) + v.sramKib ≤ kindSram v.kind &&
    sumOf here openNeed + needAt vs done v.kind n openNeed + openNeed v ≤ 131072

/-- Where a vertex could stand, from a free place on. -/
def standsAt (s : State) (x : Kennel) (vs : List Vertex) (turn : Nat) (done : Places) (v : Vertex) :
    List Nat :=
  let all := List.range (if v.kind = kHound then 8 else kindInstances v.kind)
  let turned := all.drop (turn % all.length) ++ all.take (turn % all.length)
  (if vPinned v then [v.place] else turned).filter (mayStand s x vs done v)

/-- Two vertices share an edge. -/
def sharesEdge (es : List Edge) (u v : Nat) : Bool :=
  es.any (fun e => (e.src == u && e.dsts.any (fun d => d.1 == v)) ||
    (e.src == v && e.dsts.any (fun d => d.1 == u)))

/-- Of the vertices placed so far that share an edge with one at `n`, how many stand on
another pack die. -/
def splitsAt (vs : List Vertex) (es : List Edge) (done : Places) (vid : Nat) (v : Vertex) (n : Nat) :
    Nat :=
  done.countP (fun (u, i) => sharesEdge es u vid &&
    (match (vs[u]?).bind (fun y => dieOf y.kind i), dieOf v.kind n with
     | some a, some b => a != b
     | _, _ => false))

/-- A placement of every vertex of the list with at most `b` edges between dies, if there
is one. -/
def placeAll (stands : Places → Vertex → List Nat) (splits : Places → Nat → Vertex → Nat → Nat) :
    Nat → List (Nat × Vertex) → Places → Option Places
  | _, [], done => some done
  | b, (vid, v) :: r, done =>
    (stands done v).findSome? (fun n =>
      let c := splits done vid v n
      if c ≤ b then placeAll stands splits (b - c) r (done ++ [(vid, n)]) else none)

/-- The placement that the Herder takes: vertices that share an edge stand on one pack die
where the share allows it, so that the fewest possible stand apart (R101). -/
def bestPlaces (stands : Places → Vertex → List Nat) (splits : Places → Nat → Vertex → Nat → Nat)
    (l : List (Nat × Vertex)) : Option Places :=
  (List.range (l.length * l.length + 1)).findSome? (fun b => placeAll stands splits b l [])

/-- The first vertex up to which there is no placement. -/
def firstUnplaced (stands : Places → Vertex → List Nat) (l : List (Nat × Vertex)) : Option Nat :=
  (List.range l.length).findSome? (fun n =>
    if (placeAll stands (fun _ _ _ _ => 0) 0 (l.take (n + 1)) []).isNone then (l[n]?).map (·.1) else none)

/-- The vertices of a plan, with their VIDs, for which `p` holds. -/
def vertsOf (vs : List Vertex) (p : Vertex → Bool) : List (Nat × Vertex) :=
  ((List.range vs.length).zip vs).filter (fun e => p e.2)

/-- A vertex that an engine of the share serves. -/
def onEngine (v : Vertex) : Bool := shareKinds.contains v.kind

/-! ### Checks 11 to 19 of R99 -/

/-- The first binding that meets one of another plan of the kennel. -/
def ingestClash (x : Kennel) (p : Plan) : Option Nat :=
  (List.range p.binds.length).find? (fun i =>
    ((p.binds[i]?).map (fun b => x.plans.any (fun (_, q) => q.binds.any (fun c =>
      b.groups &&& c.groups != 0 && b.first ≤ c.last && c.first ≤ b.last)))).getD false)

/-- Free Scent banks of the share (R193). -/
def banksFree (s : State) (x : Kennel) : List Nat :=
  (List.range 8).filter (fun b => bitAt (shBanks x.share) b && (scentBank s b).owner.isNone)

/-- Granules that the plan takes (check 19). -/
def planGranules (p : Plan) : Nat := ceilDiv (p.maxJobs * p.dramBytes + p.image.length) granuleBytes

/-- Checks 11 to 19: the first that fails. (DEDUCED, unsafe: log entry 22.) -/
def admitFault (s : State) (k : Nat) (x : Kennel) (p : Plan)
    (stands : Places → Vertex → List Nat) : Option PFault :=
  let sh := x.share
  let at' := fun (status : Nat) (i : Option Nat) => i.map (fun n => (status, n))
  let whole := fun (bad : Bool) (status : Nat) => if bad then some (status, noIndex) else none
  (at' eAdmitIngest (ingestClash x p)).or <|
  (at' eAdmitHounds (firstUnplaced stands (vertsOf p.verts (fun v => v.kind == kHound)))).or <|
  (whole (shareKinds.any (fun kind =>
    popCount 32 (shMask sh kind) < p.verts.countP (fun v => v.kind == kind))) eAdmitEngines).or <|
  (at' eAdmitEngines ((vertsOf p.verts (fun v =>
    onEngine v && vPinned v && !bitAt (shMask sh v.kind) v.place)).head?.map (·.1))).or <|
  (at' eAdmitSram (firstUnplaced stands (vertsOf p.verts onEngine))).or <|
  (whole (waysOf (shEngineWays sh) < p.shcWays || waysOf (shHoundWays sh) < p.shcWays) eAdmitShc).or <|
  (whole ((banksFree s x).length < p.scentBanks) eAdmitScent).or <|
  (whole (dgeQuota x < dgeReserved x + dgeInUse s k + p.dgeContexts) eAdmitDge).or <|
  (whole (shJobs sh < sumOf x.plans (fun q => q.2.maxJobs) + p.maxJobs) eAdmitJobs).or <|
  (whole (shTiles sh < sumOf x.plans (fun q => q.2.maxJobs * q.2.tileSlots) + p.maxJobs * p.tileSlots)
    eAdmitTiles).or <|
  whole ((granulesFree s 0).length < planGranules p ||
    granuleLimit sh < kennelGranules s k + planGranules p) eAdmitDram

/-- FW_MAJOR of the running firmware (R445). -/
def fwMajor (s : State) : Nat := le s.herder.header 8 1

/-- The checks of R99 on an image. -/
def planFault (s : State) (k : Nat) (x : Kennel) (b : Bytes)
    (stands : Places → Vertex → List Nat) : Option PFault :=
  if 64 ≤ x.plans.length then some (eAdmitPlans, noIndex)
  else
    let slotOk := fun (n alg : Nat) =>
      (tfind? s.dge.slots n).any (fun t => t.kennel == k && t.alg == alg)
    let channelFree := fun (c : Nat) => !x.plans.any (fun (_, q) => q.verts.any (fun v =>
      v.kind == kExch && exChannel v.cfg == c))
    (imageFault b (fwMajor s) slotOk channelFree).or (admitFault s k x (planOf b k) stands)

/-! ### The measurement log (R461) -/

/-- Records an item; a full log sets TRUNC. -/
def measure (s : State) (ty kennel handle : Nat) (item : Bytes) : State :=
  if 4096 ≤ s.herder.mlog.length then { s with herder := { s.herder with trunc := true } }
  else
    let e := toLe 1 ty ++ toLe 1 kennel ++ toLe 2 handle ++ toLe 4 s.herder.mlog.length ++ zeros 8 ++
      hashAll 6 64 item ++ zeros 16
    { s with herder := { s.herder with mlog := s.herder.mlog ++ [e] } }

/-! ### Taking effect (R100) -/

/-- A context of a DGE vertex (R333). -/
def planCtx (k h vid n : Nat) (c : Bytes) : DgeCtx :=
  { kennel := k, user := .vertex h vid n, alg := dvAlg c, slot := dvSlot c, outlen := dvOutlen c }

/-- A vertex is placed: on its instance, its Hounds or its banks. -/
def settleVertex (k h : Nat) (places : Places) (a : State × List Vertex) (e : Nat × Vertex) :
    State × List Vertex :=
  let (s, done) := a
  let (vid, v) := e
  let at' := ((places.find? (fun p => p.1 == vid)).map (·.2)).getD 0
  if v.kind = kHound then
    let free := (List.range 16).filterMap (fun i =>
      if (hound s (16 * at' + i)).serves.isNone then some (16 * at' + i) else none)
    let (us, s) := chooseGranules v.nhounds free s
    let us := sortBy (· < ·) us
    let s := (us.zip (List.range us.length)).foldl (fun s (u, i) =>
      setHound s u { hound s u with serves := some (k, h, vid, i) }) s
    (s, done ++ [{ v with inst := at', units := us }])
  else if v.kind = kScent then
    let free := (List.range 8).filter (fun b =>
      ((kennel? s k).map (fun x => bitAt (shBanks x.share) b)).getD false &&
      (scentBank s b).owner.isNone)
    let (us, s) := chooseGranules (scentNBank v.cfg) free s
    let us := sortBy (· < ·) us
    let s := (us.zip (List.range us.length)).foldl (fun s (u, i) =>
      { s with scent := tset s.scent u { scentScrub (scentBank s u) with owner := some (k, h, vid, i) } }) s
    (s, done ++ [{ v with units := us }])
  else if v.kind = kDge then
    let s := (List.range (dvNctx v.cfg)).foldl (fun s n =>
      match freeCtx s with
      | none => s
      | some c => setCtx s c (planCtx k h vid n v.cfg)) s
    (s, done ++ [v])
  else (s, done ++ [{ v with inst := at' }])

/-- The plan is admitted under a handle. -/
def admitPlan (s : State) (k h : Nat) (p : Plan) (places : Places) : State :=
  let (s, vs) := ((List.range p.verts.length).zip p.verts).foldl (settleVertex k h places) (s, [])
  let (gs, s) := chooseGranules (planGranules p) (granulesFree s 0) s
  let p := { p with handle := h, verts := vs, granules := gs }
  measure (modKennel s k (fun x => { x with plans := tset x.plans h p })) 0x10 k h p.image

/-- The body of PLAN_LOAD's reply: HANDLE, FAULT and PLAN_ID. -/
def loadBody (h fault id : Nat) : Bytes := toLe 2 h ++ toLe 2 fault ++ toLe 8 id

/-- PLAN_LOAD is served (R98, R99). (DEDUCED, unsafe: log entry 21.) -/
def loadPlan : Handler := fun r s =>
  let k := r.kennel
  let len := r.at 8 4
  if !r.zero 12 4 || len % 64 ≠ 0 || len < 512 || 268435456 < len then
    (s, some (eHrdField, loadBody 0 noIndex 0))
  else
    match kennel? s k, r.host with
    | some x, some b =>
      if b.length < len then (kennelError s k, some (eHrdHostrd, loadBody 0 noIndex 0))
      else
        let img := b.take len
        let (turn, s) := takeFree s
        let p := planOf img k
        let stands := standsAt s x p.verts turn
        match planFault s k x img stands with
        | some (e, i) => (s, some (e, loadBody 0 i (le img 8 8)))
        | none =>
          match bestPlaces stands (splitsAt p.verts p.edges)
              (vertsOf p.verts (fun v => v.kind == kHound || onEngine v)),
              pick s (((List.range 65535).map (· + 1)).filter (fun h => (tfind? x.plans h).isNone)) with
          | some places, some (h, s) =>
            dmpYes (admitPlan s k h p places) (loadBody h noIndex p.planId)
          | _, _ => (s, some (eAdmitPlans, loadBody 0 noIndex 0))
    | _, _ => (kennelError s k, some (eHrdHostrd, loadBody 0 noIndex 0))

/-- PLAN_LOAD. -/
def execPlanLoad (mb : Mb) (m : Msg) (img : HostRead) (s : State) : Result :=
  .next (dmpTake loadPlan { dmpMsg mb 0x0300 m with host := img } s)

/-! ### Unloading (R102, R195) -/

/-- The plan's Hounds, banks, contexts and the rest of what it held are free. -/
def dropPlan (s : State) (k h : Nat) : State :=
  let mine := fun (o : Option (Nat × Nat × Nat × Nat)) => o.any (fun e => e.1 == k && e.2.1 == h)
  let s := { s with
    hounds := s.hounds.map (fun (n, y) =>
      (n, if mine y.serves then { y with serves := none, job := none, past := [] } else y)),
    scent := s.scent.map (fun (b, y) =>
      (b, if mine y.owner then { scentScrub y with owner := none } else y)),
    scentNext := s.scentNext.filter (fun e => !(e.1 == k && e.2.1 == h)) }
  let s := modDge s (fun d => { d with ctxs := d.ctxs.filter (fun (_, c) =>
    !(c.kennel == k && (match c.user with | .vertex p _ _ => p == h | .msg _ => false))) })
  modKennel s k (fun x => { x with plans := tdel x.plans h })

/-- PLAN_UNLOAD is served. -/
def unloadPlan : Handler := fun r s =>
  let k := r.kennel
  let h := r.at 0 2
  if !r.zero 2 6 then dmpNo s eHrdField
  else
    match plan? s k h with
    | none => dmpNo s eJobPlan
    | some _ => if 0 < jobsOfPlan s k h then dmpNo s ePlanBusy else dmpYes (dropPlan s k h) []

/-- PLAN_UNLOAD. -/
def execPlanUnload (mb : Mb) (m : Msg) (s : State) : Result :=
  .next (dmpTake unloadPlan (dmpMsg mb 0x0301 m) s)

/-! ### PLAN_STATUS (R452) -/

/-- Counters of a kind, in the order of its table (R148, R168, R192, R209, R239, R269,
R293, R320, R337). -/
def kindCounts (kind : Nat) : Nat :=
  if kind = kShepherd then 16 else if kind = kSort then 5 else if kind = kDge then 7
  else if kind = kHound || kind = kFacet || kind = kAgg || kind = kScent || kind = kCze then 8 else 0

/-- The response of R452 for a plan, or for one of its vertices. -/
def planStatusBody (s : State) (k : Nat) (p : Plan) (vid : Nat) : Bytes :=
  let c := fun (i : Nat) => if vid = noIndex then 0 else tget p.counts (64 * vid + i) 0
  toLe 4 (jobsOfPlan s k p.handle) ++ zeros 4 ++ toLe 8 p.nojob ++ toLe 2 p.lastStatus ++
  toLe 2 p.lastVid ++ toLe 2 p.lastTag ++ zeros 2 ++
  (List.range 4).flatMap (fun i => toLe 8 ((p.details[i]?).getD 0)) ++ toLe 4 (c 62) ++ toLe 4 (c 63) ++
  (match p.verts[vid]? with
   | some v => (List.range (kindCounts v.kind)).flatMap (fun i =>
       toLe 8 (c i))
   | none => [])

/-- PLAN_STATUS is served. -/
def showPlan : Handler := fun r s =>
  let k := r.kennel
  let vid := r.at 2 2
  if !r.zero 4 4 then dmpNo s eHrdField
  else
    match plan? s k (r.at 0 2) with
    | none => dmpNo s eJobPlan
    | some p =>
      if vid ≠ noIndex && p.verts.length ≤ vid then dmpNo s eHrdField
      else dmpYes s (planStatusBody s k p vid)

/-- PLAN_STATUS. -/
def execPlanStatus (mb : Mb) (m : Msg) (s : State) : Result :=
  .next (dmpTake showPlan (dmpMsg mb 0x0302 m) s)

end Sys2Proof.Machine
end

