-- ==== Sys2Proof/Machine/FirmwareOps.lean ====
section
/-! DEFINITION. Firmware images and the environment report (R445, R446, R458, R459). -/

namespace Sys2Proof.Machine

open Sys2Proof

def eFwSlot : Nat := 0x0F10
def eFwImage : Nat := 0x0F11
def eFwSvn : Nat := 0x0F12
def eActBusy : Nat := 0x0F13
def eFwActivateFail : Nat := 0x0F14

/-! ### Images (R445, R446) -/

/-- Bytes of a slot, and SPI NOR's limit on an image. -/
def slotBytes : Nat := 25165824

/-- Header fields. -/
def fwKind (h : Bytes) : Nat := le h 6 1
def fwLen (h : Bytes) : Nat := le h 12 4
def fwSvn (h : Bytes) : Nat := le h 16 4

/-- Bytes as numbers, and the ASCII bytes of a context string. -/
def nums (b : Bytes) : List Nat := b.map (·.toNat)
def ascii (t : String) : List Nat := t.toList.map (·.toNat)

/-- The signature of an image verifies: Ed448ph over the SHAKE256 prehash (R445). -/
def fwSigned (img : Bytes) : Bool :=
  let hash := hashAll 6 64 (img.take 128 ++ (img.drop 256).take (fwLen img - 256))
  Config.ed448Verify (nums (slice img 20 57)) (nums (slice img 128 114))
    (ascii "EPN-7740 FW" ++ nums hash)

/-- The first check of R446 that an image fails, as HRD_BOOT_STATUS.ERR; `store` is
what its store holds of it. (DESIGN CHOICE, unsafe: log entry 133.) -/
def fwFault (s : State) (kind : Nat) (store : Bytes) : Option Nat :=
  let key := le store 5 1
  if !(le store 0 4 == 0x46575248 && le store 4 1 == 1 && fwKind store == kind && key < 4 &&
      zeroes store 7 1 && zeroes store 77 51 && zeroes store 242 14) then some 1
  else if fwLen store < 4096 || slotBytes < fwLen store || store.length < fwLen store then some 2
  else if leNat (hashAll 6 32 (slice store 20 57)) ≠ Config.keyHash key then some 3
  else if Config.keyRevoked key then some 4
  else if kind = 0 && fwSvn store < s.herder.minSvn then some 5
  else if !fwSigned (store.take (fwLen store)) then some 6
  else none

/-- What a slot holds. -/
def slotMem (s : State) (n : Nat) : Memory := if n = 0 then s.herder.slotA else s.herder.slotB
def slotHeader (s : State) (n : Nat) : Bytes := (slotMem s n).read 0 256
def slotStore (s : State) (n : Nat) : Bytes :=
  (slotMem s n).read 0 (max 256 (min slotBytes (fwLen (slotHeader s n))))

/-- VERIFIED of a slot. -/
def slotVerified (s : State) (n : Nat) : Bool := s.herder.verified.getLsbD n
def setVerified (s : State) (n : Nat) (v : Bool) : State :=
  let keep := s.herder.verified &&& ~~~(BitVec.ofNat 2 (2 ^ n))
  { s with herder := { s.herder with
    verified := if v then keep ||| BitVec.ofNat 2 (2 ^ n) else keep } }

/-- An image starts to run: from slot 0 or 1, or as the recovery image, 2 (R461). -/
def startImage (s : State) (slot : Nat) (img runtime : Bytes) : State :=
  let s := { s with herder := { s.herder with slot, header := img.take 256, runtime } }
  let s := setRegField (setRegField s 0x110000 2 1 (b2n (slot == 2))) 0x110000 1 1 (slot % 2)
  measure s (if slot = 2 then 2 else 1) 0xFF 0 img

/-- Slot firmware reaches READY: the minimum SVN rises, and it records its MRAM
configuration, of which the digest is open (R447, R461). -/
def firmwareReady (s : State) : State :=
  let s := setRegField (setRegField s 0x110000 8 4 4) 0x110000 0 1 1
  if s.herder.slot = 2 then s
  else
    let s := { s with herder := { s.herder with minSvn := max s.herder.minSvn (fwSvn s.herder.header) } }
    let (n, s) := takeFree s
    measure s 3 0xFF 0 (toLe 64 (Config.freeBytes n 64))

/-- The body of GET_VERSION and FW_VERIFY. -/
def versionBody (rev : Nat) (h : Bytes) (slot : Nat) : Bytes :=
  slice h 8 2 ++ slice h 10 2 ++ toLe 1 rev ++ toLe 1 slot ++ toLe 2 Config.romVersion ++
  toLe 4 (fwSvn h) ++ zeros 4

/-! ### The environment (R458, R459) -/

/-- A report as it is kept: 1,600 bytes, VER 1, with POP_ERR of the device. -/
def envForm (s : State) (b : Bytes) : Bytes :=
  let r := slice b 0 1600
  toLe 1 1 ++ toLe 1 (le r 1 1 / 2 % 2 * 2 + b2n (bitAt (gstatus s) 3)) ++ r.drop 2

/-- A rail entry shows an alarm (R458, R504). (PRESUMED, unsafe: log entry 49.) -/
def envAlarm (b : Bytes) : Bool :=
  (List.range 8).any (fun i => le b (64 + 16 * i) 1 != 0xFF && !zeroes b (64 + 16 * i + 10) 1)

/-- A report is kept; a rail alarm is a device error, once. -/
def noteEnv (s : State) (b : Bytes) : State :=
  let s := { s with herder := { s.herder with env := b } }
  if envAlarm b && !devErr s then deviceError s 8 none else s

/-- SPD identity of the DIMMs stays as it was. -/
def keepSpd (old new : Bytes) : Bytes :=
  (List.range 32).foldl (fun b i => putAt b (192 + 32 * i) (slice old (192 + 32 * i) 12)) new

/-- Rails and temperatures of a new measurement, with its time. -/
def envRails (old new : Bytes) : Bytes :=
  let b := putAt (putAt old 8 (slice new 8 18)) 64 (slice new 64 128)
  (List.range 32).foldl (fun b i => putAt b (192 + 32 * i + 12) (slice new (192 + 32 * i + 12) 2)) b

end Sys2Proof.Machine
end

