-- ==== Sys2Proof/Machine/HerderMsgs.lean ====
section
/-! DEFINITION. Meanings of the Herder's own messages, of the bindings, and of a bad
opcode and a write to a busy mailbox (R53, R449 to R462, R506). -/

namespace Sys2Proof.Machine

open Sys2Proof

/-! ### Identity and reports (R451, R458 to R462) -/

/-- HELLO is served (R397). -/
def helloMsg : Handler := fun r s =>
  let p := r.at 0 4
  if 2 ^ 20 ≤ p || !r.zero 4 4 then dmpNo s eHrdField
  else
    let s := modKennel s 0 (fun x => { x with pasid := p })
    dmpYes (setReg { s with herder := { s.herder with hello := true } } 0xF0000 (2 ^ 63 + p)) []

/-- HELLO. -/
def execHello (mb : Mb) (m : Msg) (s : State) : Result :=
  .next (dmpTake helloMsg (dmpMsg mb 0x0001 m) s)

/-- GET_VERSION is served. -/
def versionMsg : Handler := fun _ s => dmpYes s (versionBody (stepping s) s.herder.header s.herder.slot)

/-- GET_VERSION. -/
def execGetVersion (mb : Mb) (m : Msg) (s : State) : Result :=
  .next (dmpTake versionMsg (dmpMsg mb 0x0002 m) s)

/-- GET_ENVIRONMENT is served: with FRESH = 1 every item but SPD identity is measured,
and the reply says so. -/
def environmentMsg : Handler := fun r s =>
  if 2 ≤ r.at 0 1 || !r.zero 1 7 then dmpNo s eHrdField
  else if r.at 0 1 = 0 then dmpYes s (slice s.herder.env 0 1600)
  else
    let b := keepSpd s.herder.env (envForm s r.fresh)
    (noteEnv s b, some (0, putAt b 1 (toLe 1 (le b 1 1 + 4))))

/-- GET_ENVIRONMENT. -/
def execGetEnvironment (mb : Mb) (m : Msg) (fresh : Bytes) (s : State) : Result :=
  .next (dmpTake environmentMsg { dmpMsg mb 0x0003 m with fresh } s)

/-- NEXT, COUNT and at most `most` records of a log whose first index is `base`. -/
def logBody (base : Nat) (log : List Bytes) (first most : Nat) : Bytes :=
  let from' := max first base
  let recs := (log.drop (from' - base)).take most
  toLe 4 (from' + recs.length) ++ toLe 4 recs.length ++ recs.flatten

/-- GET_LOG is served (R444). -/
def logMsg : Handler := fun r s =>
  if !r.zero 4 4 then dmpNo s eHrdField
  else dmpYes s (logBody s.herder.logBase s.herder.log (r.at 0 4) 127)

/-- GET_LOG. -/
def execGetLog (mb : Mb) (m : Msg) (s : State) : Result :=
  .next (dmpTake logMsg (dmpMsg mb 0x0004 m) s)

/-- GET_MLOG is served (R461). -/
def mlogMsg : Handler := fun r s =>
  if !r.zero 4 4 then dmpNo s eHrdField else dmpYes s (logBody 0 s.herder.mlog (r.at 0 4) 42)

/-- GET_MLOG. -/
def execGetMlog (mb : Mb) (m : Msg) (s : State) : Result :=
  .next (dmpTake mlogMsg (dmpMsg mb 0x0005 m) s)

/-- The identity public key. -/
def identityBytes : Bytes := (List.range 57).map (fun i => BitVec.ofNat 8 (Config.identityKey i))

/-- GET_IDENTITY is served (R460). -/
def identityMsg : Handler := fun _ s =>
  let n := min 2048 Config.certLength
  dmpYes s (identityBytes ++ zeros 7 ++ toLe 2 n ++
    (List.range n).map (fun i => BitVec.ofNat 8 (Config.certificate i)))

/-- GET_IDENTITY. -/
def execGetIdentity (mb : Mb) (m : Msg) (s : State) : Result :=
  .next (dmpTake identityMsg (dmpMsg mb 0x0006 m) s)

/-- Entries of the measurement log that a mailbox's report covers (R462). -/
def attestCover (s : State) (mb : Nat) : List Bytes :=
  s.herder.mlog.filter (fun e => mb == mb0 || le e 1 1 == 0xFF || le e 1 1 == mb)

/-- Bytes 0 to 205 of the attestation report; its TICK is open (DESIGN CHOICE, safe: log entry 98). -/
def attestBody (s : State) (mb tick : Nat) (nonce : Bytes) : Bytes :=
  let es := attestCover s mb
  let h := s.herder.header
  toLe 4 0x54544152 ++ toLe 1 1 ++ toLe 1 (mbKennel mb) ++
  toLe 1 (b2n s.herder.trunc + 2 * b2n (s.herder.slot == 2)) ++ zeros 1 ++ slice nonce 0 32 ++
  toLe 8 s.herder.coldBoots ++ toLe 8 tick ++ toLe 1 (stepping s) ++ slice h 8 2 ++ toLe 1 s.herder.slot ++
  slice h 10 2 ++ zeros 2 ++ toLe 4 (fwSvn h) ++ toLe 4 es.length ++ hashAll 6 64 es.flatten ++
  identityBytes ++ zeros 13

/-- ATTEST is served. -/
def attestMsg : Handler := fun r s =>
  let (tick, s) := takeFree s
  let b := attestBody s r.mb tick r.msg.body
  let sig := Config.ed448Sign (ascii "EPN-7740 ATT" ++ nums b)
  dmpYes s (b ++ (List.range 114).map (fun i => BitVec.ofNat 8 (sig i)))

/-- ATTEST. -/
def execAttest (mb : Mb) (m : Msg) (s : State) : Result :=
  .next (dmpTake attestMsg (dmpMsg mb 0x0007 m) s)

/-! ### Bindings (R453, R454) -/

/-- USED and ENTRIES. -/
def quarBody (q : Option QuarSt) : Bytes :=
  toLe 8 ((q.map (·.used)).getD 0) ++ toLe 4 ((q.map (·.entries)).getD 0)

/-- BIND_QUARANTINE is served. -/
def quarantineMsg : Handler := fun r s =>
  let k := r.kennel
  let q := (kennel? s k).bind (·.quar)
  let n := r.at 0 2
  let off := r.at 8 8
  let len := r.at 16 8
  if 4 ≤ r.at 2 1 || !r.zero 3 5 then dmpNo s eHrdField
  else if bitAt (r.at 2 1) 0 then dmpYes (modKennel s k (fun x => { x with quar := none })) (quarBody q)
  else if bitAt (r.at 2 1) 1 then dmpYes s (quarBody q)
  else if 4096 ≤ n || off % 32 ≠ 0 || len < 16416 then dmpNo s eHrdField
  else if (ownSpace s k n).isNone then dmpNo s 0x0E01
  else if !inSpace s k n off len then dmpNo s 0x0E03
  else
    dmpYes (modKennel s k (fun x => { x with quar := some { tspace := n, offset := off, length := len } }))
      (quarBody none)

/-- BIND_QUARANTINE. -/
def execBindQuarantine (mb : Mb) (m : Msg) (s : State) : Result :=
  .next (dmpTake quarantineMsg (dmpMsg mb 0x0400 m) s)

/-- A destination record keeps R453. -/
def destOk (s : State) (k : Nat) (d : Bytes) : Bool :=
  let g := le d 0 1 / 64
  let p := le d 0 1 / 16 % 4
  let kind := le d 1 1
  let sh := ((kennel? s k).map (·.share)).getD []
  le d 0 1 % 16 == 0 && kind ≤ 2 && zeroes d 44 4 && bitAt (shGroups sh) g &&
  (if kind = 2 then isRaw s g && zeroes d 2 6 else isEth s g p) &&
  (kind != 0 || (zeroes d 12 12 && zeroes d 28 12))

/-- BIND_VERDICT is served. -/
def verdictMsg : Handler := fun r s =>
  let k := r.kennel
  let n := r.at 0 1
  let ds := (List.range n).map (fun i => slice r.msg.body (16 + 48 * i) 48)
  if 8 < n || !r.zero 1 15 || !ds.all (destOk s k) then dmpNo s eHrdField
  else dmpYes (modKennel s k (fun x => { x with vdests := ds })) []

/-- BIND_VERDICT. -/
def execBindVerdict (mb : Mb) (m : Msg) (s : State) : Result :=
  .next (dmpTake verdictMsg (dmpMsg mb 0x0401 m) s)

def eEpLatency : Nat := 0x0210
def eEpTclk : Nat := 0x0211

/-- SET_DETERMINISTIC is served (R53, R451); `tclkKhz` is the measured TCLK.
(DESIGN CHOICE, unsafe: log entry 119.) -/
def deterministicMsg : Handler := fun r s =>
  let k := r.kennel
  let lat := r.at 4 4
  let reg := 0x31000 + 8 * k
  if 2 ≤ r.at 0 1 || 64 ≤ r.at 1 1 || 2 ≤ r.at 2 1 || !r.zero 3 1 || 262143 < lat then dmpNo s eHrdField
  else if r.at 0 1 = 0 then dmpYes (prunePins (setReg (defaultAll s (· == k)) reg 0)) []
  else if !epRunning s then dmpNo s eEpTclk
  else if 1000 * lat < 2 * r.tclkKhz || r.tclkKhz < lat then dmpNo s eEpLatency
  else dmpYes (setReg s reg (2 ^ 31 + r.at 2 1 * 2 ^ 30 + r.at 1 1 * 2 ^ 24 + lat * 2 ^ 32)) []

/-- SET_DETERMINISTIC. -/
def execSetDeterministic (mb : Mb) (m : Msg) (tclkKhz : Nat) (s : State) : Result :=
  .next (dmpTake deterministicMsg { dmpMsg mb 0x0402 m with tclkKhz } s)

/-! ### Firmware slots (R455) -/

/-- FW_WRITE is served. -/
def fwWriteMsg : Handler := fun r s =>
  let n := r.at 0 1
  let off := r.at 4 4
  let len := r.at 16 4
  if 2 ≤ n || !r.zero 1 3 || !r.zero 20 4 || 1048576 < len || slotBytes < off + len then dmpNo s eHrdField
  else if n = s.herder.slot then dmpNo s eFwSlot
  else
    match r.host with
    | none => (kennelError s 0, some (eHrdHostrd, []))
    | some b =>
      if b.length < len then (kennelError s 0, some (eHrdHostrd, []))
      else
        let mem := (slotMem s n).write off (b.take len)
        let h := if n = 0 then { s.herder with slotA := mem } else { s.herder with slotB := mem }
        dmpYes (setVerified { s with herder := h } n false) []

/-- FW_WRITE. (DEDUCED, unsafe: log entry 66.) -/
def execFwWrite (mb : Mb) (m : Msg) (host : HostRead) (s : State) : Result :=
  .next (dmpTake fwWriteMsg { dmpMsg mb 0x0900 m with host } s)

/-- FW_VERIFY is served. -/
def fwVerifyMsg : Handler := fun r s =>
  let n := r.at 0 1
  if 2 ≤ n || !r.zero 1 7 then dmpNo s eHrdField
  else
    match fwFault s 0 (slotStore s n) with
    | some e => dmpNo s (if e = 5 then eFwSvn else eFwImage)
    | none => dmpYes (setVerified s n true) (versionBody (stepping s) (slotHeader s n) n)

/-- FW_VERIFY. -/
def execFwVerify (mb : Mb) (m : Msg) (s : State) : Result :=
  .next (dmpTake fwVerifyMsg (dmpMsg mb 0x0901 m) s)

/-- A slot that FW_SET_BOOT and FW_ACTIVATE take. -/
def slotUsable (s : State) (n : Nat) : Bool := n != s.herder.slot && slotVerified s n

/-- FW_SET_BOOT is served. -/
def fwSetBootMsg : Handler := fun r s =>
  let n := r.at 0 1
  if 2 ≤ n || !r.zero 1 7 then dmpNo s eHrdField
  else if !slotUsable s n then dmpNo s eFwSlot
  else dmpYes { s with herder := { s.herder with bootSlot := n } } []

/-- FW_SET_BOOT. -/
def execFwSetBoot (mb : Mb) (m : Msg) (s : State) : Result :=
  .next (dmpTake fwSetBootMsg (dmpMsg mb 0x0903 m) s)

/-- FW_ACTIVATE is served: fetching stops, and with FORCE = 1 every WQ is reset (R456). -/
def fwActivateMsg : Handler := fun r s =>
  let n := r.at 0 1
  let force := r.at 1 1 == 1
  if 2 ≤ n || 2 ≤ r.at 1 1 || !r.zero 2 2 then dmpNo s eHrdField
  else if !slotUsable s n then dmpNo s eFwSlot
  else
    let h := s.herder
    let s := { s with
      power := { s.power with fetchStopped := true },
      herder := { h with act := some { slot := n, force, previous := h.slot, header := h.header,
                                       runtime := h.runtime, boot := h.bootSlot } } }
    (if force then s.kennels.foldl (fun s e => resetKennelWqs s e.1) s else s, none)

/-- FW_ACTIVATE. -/
def execFwActivate (mb : Mb) (m : Msg) (s : State) : Result :=
  .next (dmpTake fwActivateMsg (dmpMsg mb 0x0902 m) s)

/-! ### Other happenings -/

/-- ENVIRONMENT_MEASURE (R459). -/
def execEnvironmentMeasure (report : Bytes) (s : State) : Result :=
  attempt (fun s => if ready s then some (noteEnv s (envRails s.herder.env (envForm s report))) else none) s

/-- HERDER_WATCHDOG_EXPIRE (R504, R506). -/
def execHerderWatchdogExpire (s : State) : Result := .next (fatalError s 6 none)

/-- HERDER_CORE_LOCKUP (R506): LOCKUP_N is low while a core is locked up. -/
def execHerderCoreLockup (core : Fin 4) (s : State) : Result :=
  .next { s with herder := { s.herder with lockups := addNew s.herder.lockups core.val } }

/-- MAILBOX_BAD_OPCODE (R450): the opcode is not in the catalogue. -/
def execMailboxBadOpcode (mb : Mb) (opcode : BitVec 16) (m : Msg) (s : State) : Result :=
  attempt (fun s =>
    if (dmpRow opcode.toNat).isSome then none
    else some (dmpTake (fun _ s => dmpNo s eHrdOpcode) (dmpMsg mb opcode.toNat m) s)) s

/-- MAILBOX_BUSY_WRITE (R449). -/
def execMailboxBusyWrite (mb : Mb) (s : State) : Result :=
  attempt (fun s => if mbBusy s (mbNum mb) then some (cnt s 0x110014 1) else none) s

end Sys2Proof.Machine
end

