-- ==== Sys2Proof/Machine/ChainOps.lean ====
section
/-! DEFINITION. What the Leash does with links, walks and breaks (R466 to R477). -/

namespace Sys2Proof.Machine

open Sys2Proof

def eLshTopology : Nat := 0x1002
def eLshStrap : Nat := 0x1010
def eLshWalk : Nat := 0x1011
def eLshNothead : Nat := 0x1012

/-! ### LINK frames and counters (R469, R489) -/

/-- Counter `i` of a port. -/
def lshCnt (s : State) (p i : Nat) : State := cnt s (0x120120 + 0x40 * p + 4 * i) 1

/-- ACK and NACK name an FSEQ. -/
def sendAck (s : State) (p : Nat) : State :=
  let n := ((lport s p).rxSeq + 65535) % 65536
  modLport (sendLink s p (toLe 1 1 ++ zeros 1 ++ toLe 2 n ++ zeros 4)) p (fun q => { q with unacked := 0 })
def sendNack (s : State) (p : Nat) : State :=
  sendLink s p (toLe 1 2 ++ zeros 1 ++ toLe 2 (lport s p).rxSeq ++ zeros 4)

/-- The capability record of this node (R476). -/
def capRecord (s : State) : Nat :=
  let flags := b2n s.pins.chainHead + 2 * b2n s.leash.elected + 4 * b2n (!tclkLost s) + 8 * b2n (epEn s)
  1 + stepping s * 2 ^ 8 + le s.herder.header 8 1 * 2 ^ 16 + flags * 2 ^ 24 + regField s 0x30004 0 25 * 2 ^ 32

/-- LSH_TOF of a port from a measured delay and LSH_TOF_ADJ (R475). -/
def tofReg (p : Nat) : Nat := 0x120108 + 0x40 * p
def tofValue (s : State) (p raw : Nat) : Nat :=
  pattern 16 ((raw : Int) + signed 16 (regVal s (0x12010C + 0x40 * p)))

/-- A delay is held, and shown in the environment report. -/
def setTof (s : State) (p raw : Nat) : State :=
  let v := tofValue s p raw
  envPut (setReg s (tofReg p) v) (1216 + 32 * p + 4) (toLe 4 v)

/-- LSH_STATUS bits that raise the Leash source when set (R518). -/
def lshFlag (s : State) (bit : Nat) : State := raiseEvent (setRegField s 0x120004 bit 1 1) 4

/-! ### Exchange jobs -/

/-- Exchange vertices of jobs in flight. -/
def exchLive (s : State) : List Vx :=
  (buildVertices s).filterMap (fun v => (vx? s v).filter (fun x => x.vert.kind == kExch && vxLive x))

/-- Jobs fail of which a participant has no path (R477, R486). -/
def failUnreached (s : State) : State :=
  if !nodeValid s then s
  else (exchLive s).foldl (fun s x =>
    if (exNodes x.vert.cfg).any (fun n => n != nodeId s && (routeSide s n).isNone) then
      failVx s x eLshUnreach
    else s) s

/-- The node's ID has changed: exchange jobs fail, and what it kept for the old one is
gone (R474). -/
def topologyChanged (s : State) : State :=
  let s := (exchLive s).foldl (fun s x => failVx s x eLshTopology) s
  { s with leash := { s.leash with remote := [], early := [] } }

/-- Exchange frames that waited for the end of the walk go (R472). (DEDUCED, safe: log entry 61.) -/
def sendOutbox (s : State) : State :=
  let held := s.leash.outbox
  held.foldl (fun s f => exchSend s f.kennel f.channel f.type f.dst f.payload)
    { s with leash := { s.leash with outbox := [] } }

/-! ### CHAIN frames (R468, R472, R473, R477) -/

/-- Broadcasts a CHAIN frame of this node. -/
def sendChain (s : State) (kind gen count : Nat) (ring : Bool) (brk : Nat) : State :=
  sendBroadcast s none 0 (leashFrame 3 true 0 0 (ownSrc s) 0 0
    (toLe 1 kind ++ zeros 1 ++ toLe 2 gen ++ toLe 4 count ++ toLe 1 (b2n ring) ++ zeros 1 ++ toLe 2 brk))

/-- LSH_NODE set. -/
def setNode (s : State) (valid ring : Bool) (count brk id : Nat) : State :=
  setReg s 0x120008 (b2n valid * 2 ^ 63 + b2n ring * 2 ^ 62 + count % 2 ^ 17 * 2 ^ 32 +
    brk % 65536 * 65536 + id % 65536)

/-- VALID is clear; the ID that the node held is kept for R474. -/
def dropNode (s : State) : State :=
  let s := if nodeValid s then { s with leash := { s.leash with prevId := some (nodeId s) } } else s
  setRegField s 0x120008 63 1 0

/-- The node takes an ID in a walk (R472, R474). -/
def takeId (s : State) (id gen : Nat) : State :=
  let s := dropNode s
  let s := if s.leash.prevId.any (· != id) then topologyChanged s else s
  setRegField { s with leash := { s.leash with tempId := some id, gen } } 0x120008 0 16 id

/-- CLOSING of the ports (R466): the head's side A, and side B of the last node. -/
def markClosing (s : State) (ring : Bool) (id count : Nat) : State :=
  (List.range 4).foldl (fun s p =>
    let c := ring && ((sideOf p == 0 && id == 0) || (sideOf p == 1 && id + 1 == count))
    setRegField s (lshPort p) 4 1 (b2n c)) s

/-- A walk has ended well at this node (R472). -/
def walkDone (s : State) (count : Nat) (ring : Bool) : State :=
  match s.leash.tempId with
  | none => s
  | some id =>
    let s := markClosing (setNode s true ring count 0xFFFF id) ring id count
    let s := { s with leash := { s.leash with tempId := none, prevId := some id } }
    let gen := (regField s 0x120004 8 8 + 1) % 256
    let s := setRegField (setRegField s 0x120004 8 8 gen) 0x120004 2 1 0
    sendOutbox (raiseEvent (cnt s 0x120020 1) 4)

/-- A walk has failed at this node (R473). -/
def walkFailed (s : State) (code : Nat) : State :=
  let s := dropNode { s with leash := { s.leash with tempId := none } }
  let s := setRegField (setRegField s 0x120004 2 1 0) 0x120004 3 3 code
  raiseEvent s 4

/-- CHAIN_WALK's reply, where one waits (R487). -/
def walkReply (s : State) (status : Nat) (body : Bytes) : State :=
  if s.leash.reply then dmpReply { s with leash := { s.leash with reply := false } } mb0 status body
  else s

/-- The head ends its walk. -/
def headDone (s : State) (count : Nat) (ring : Bool) : State :=
  let s := walkDone s count ring
  walkReply (sendChain s 1 s.leash.gen count ring 0xFFFF) 0 (toLe 4 count ++ toLe 1 (b2n ring))

/-- The head aborts its walk (R473). -/
def headAbort (s : State) (code : Nat) : State :=
  let s := walkFailed s code
  walkReply (sendChain s 2 s.leash.gen 0 false 0xFFFF) eLshWalk []

/-- LSH_STATUS.WALKING. -/
def walking (s : State) : Bool := bitAt (regVal s 0x120004) 2

/-- A WALK frame. -/
def sendWalk (s : State) (side next gen : Nat) (ring ended err : Bool) (code count : Nat) : State :=
  sendSide s side 0 (leashFrame 2 false 0 0 (ownSrc s) 0 0
    (toLe 4 next ++ toLe 2 gen ++ toLe 1 (b2n ring + 2 * b2n ended + 4 * b2n err) ++ toLe 1 code ++
     toLe 4 count))

/-- The head starts a walk; one that runs is replaced (R472, R474). -/
def startWalk (s : State) : State :=
  let gen := (s.leash.gen + 1) % 65536
  let s := takeId s 0 gen
  let s := setRegField (setRegField s 0x120004 2 1 1) 0x120004 3 3 0
  if sideUp s 1 then sendWalk s 1 1 gen false false false 0 0
  else if sideUp s 0 then s
  else headDone s 1 false

/-- The head walks of its own accord where AUTO_WALK says so (R474). -/
def autoWalk (s : State) : State :=
  if isHead s && bitAt (regVal s 0x120000) 5 then startWalk s else s

/-! ### Links (R467, R477) -/

/-- The lower ID of the nodes that a side's link joins. -/
def linkLow (s : State) (side : Nat) : Nat :=
  let n := nodeId s
  let other := if side = 0 then (n + nodeCount s - 1) % max 1 (nodeCount s)
    else (n + 1) % max 1 (nodeCount s)
  min n other

/-- A port goes down; a side of a ring without a link is a break (R477).
(DEDUCED, unsafe: log entry 59.) (DEDUCED, safe: log entry 60.) -/
def linkDown (s : State) (p : Nat) : State :=
  if !(lport s p).up then s
  else
    let side := sideOf p
    let was := sideUp s side
    let s := lshCnt (modLport s p (fun _ => {})) p 4
    let s := setReg s (lshPort p) 0
    let s := envPut s (1216 + 32 * p) (zeros 2)
    let s :=
      if was && !sideUp s side && nodeValid s && nodeRing s then
        let low := linkLow s side
        sendChain (setRegField s 0x120008 16 16 low) 3 s.leash.gen 0 true low
      else s
    failUnreached s

/-- A port comes up, with its lanes and its measured delay (R467, R474 to R477). -/
def linkUp (s : State) (p tof lanes : Nat) : State :=
  let side := sideOf p
  let was := sideUp s side
  let s := modLport s p (fun _ => { up := true })
  let closing := nodeValid s && nodeRing s &&
    ((side == 0 && nodeId s == 0) || (side == 1 && nodeId s + 1 == nodeCount s))
  let s := setReg s (lshPort p) (1 + lanes * 32 + 16 * b2n closing)
  let s := envPut s (1216 + 32 * p) (toLe 1 1 ++ toLe 1 lanes)
  let s := setTof s p tof
  let s := sendLink s p (toLe 1 5 ++ zeros 7 ++ toLe 8 (capRecord s))
  let s :=
    if !was && nodeValid s && nodeRing s && nodeBreak s == linkLow s side then
      sendChain (setRegField s 0x120008 16 16 0xFFFF) 4 s.leash.gen 0 true 0xFFFF
    else s
  autoWalk s

end Sys2Proof.Machine
end

