-- ==== Sys2Proof/Machine/TimingOps.lean ====
section
/-! DEFINITION. The epoch counter (R46 to R52): starts of epochs, hard resyncs, and
writes of EP_CTRL and EP_LEN. -/

namespace Sys2Proof.Machine

open Sys2Proof

/-- EP_LEN.LEN, which the next count 0 takes. -/
def epLen (s : State) : Nat := regField s 0x30004 0 25

/-- Sets a bit of EP_STATUS; CFG_ERR, WRAP, RESYNC_DONE and TCLK_LOST_SEEN raise the
source EPOCH (R518). -/
def epFlag (s : State) (bit v : Nat) : State :=
  let s := setRegField s 0x30008 bit 1 v
  if v = 1 && [2, 3, 4, 6].contains bit then raiseEvent s 3 else s

/-- A hard resync is armed (R49). -/
def armResync (s : State) : State := epFlag s 5 1

/-- The number after the current one; a wrap sets WRAP (R46). -/
def nextNumber (s : State) : Nat × State :=
  let n := (s.timing.epoch + 1) % 2 ^ 48
  (n, if n = 0 then epFlag s 3 1 else s)

/-- The count becomes 0 in this tick with an epoch number: B is kept, a waiting
EP_LEN taken (R46, R54). -/
def startEpoch (s : State) (num : Nat) (used : Bool) : State :=
  { s with timing := { s.timing with
    epoch := num, count := 0, len := epLen s, startUsed := used, startClosed := used,
    bTable := ((num, s.timing.tick) :: s.timing.bTable.filter (·.1 != num)).take 256 } }

/-- What a new epoch number drives, whatever set it: the verdicts, the Shepherds and the
waiting fragments (R54, R107, R131). -/
def numberChanged (s : State) : State := sweepNojob (closeEpochs (settleEvents s))

/-- What a boundary drives: the verdicts, the Shepherds, the waiting fragments, the pins and
the Leash (R47, R54, R57, R107, R131, R479). -/
def boundaryEffects (s : State) (pins : Bool) : State :=
  let s := numberChanged s
  epochMarks (if pins then epochPins s else s)

/-- The hard resync of R49, performed in this tick. -/
def hardResync (s : State) : State :=
  let load := regVal s 0x30020
  let (n, s) := if bitAt load 63 then (field load 0 48, setRegField s 0x30020 63 1 0) else nextNumber s
  let s := cnt (setRegField s 0x30008 0 2 0) 0x30038 1
  startEpoch (epFlag (epFlag s 4 1) 5 0) n true

/-- An ESYNC edge at this tick, judged by R48; the last value says whether a FUNC
EPOCH pulse goes with it, and the middle one whether the count became 0.
(DESIGN CHOICE, unsafe: log entry 117.) -/
def esyncJudge (s : State) : State × Bool × Bool :=
  let c := s.timing.count
  let w := epWindow s
  if resyncArmed s then (hardResync s, true, true)
  else if c = 0 && !s.timing.startUsed then
    let s := { s with timing := { s.timing with startUsed := true, startClosed := true } }
    (setRegField s 0x30008 0 2 0, false, false)
  else if s.timing.len - w ≤ c then
    let (n, s) := nextNumber (setRegField s 0x30008 0 2 0)
    (startEpoch s n true, true, true)
  else if 1 ≤ c && c ≤ w && !s.timing.startUsed then
    (startEpoch (setRegField s 0x30008 0 2 0) s.timing.epoch true, true, false)
  else
    let run := min 3 (regField s 0x30008 0 2 + 1)
    let s := cnt (setRegField s 0x30008 0 2 run) 0x30030 1
    (if run = 3 then armResync s else s, false, false)

/-- A write of EP_CTRL (R49, R52, R61). -/
def writeEpCtrl (s : State) (val : Nat) : State :=
  let old := regVal s 0x30000
  let new := val &&& 0xE03
  let s' := setReg s 0x30000 new
  let s' :=
    if !bitAt old 0 && bitAt new 0 then armResync s'
    else if bitAt old 0 && !bitAt new 0 then defaultAll (dropPins s') (inDet s')
    else s'
  if bitAt val 8 then armResync s' else s'

/-- A write of EP_LEN (R46): taken at the next count 0, at once while EP_TICK is 0,
or not taken, with CFG_ERR. -/
def writeEpLen (s : State) (val : Nat) : State :=
  let len := field val 0 25
  if 256 ≤ len ∧ len ≤ 16777216 then
    let s := setReg s 0x30004 len
    if s.timing.tick = 0 then { s with timing := { s.timing with len } } else s
  else epFlag s 2 1

end Sys2Proof.Machine
end

