-- ==== Sys2Proof/Machine/LeashChain.lean ====
section
/-! DEFINITION. Meanings of walks, chain frames, epoch marks, fanned-out verdicts and the
chain messages (R471 to R474, R477 to R481, R487). -/

namespace Sys2Proof.Machine

open Sys2Proof

/-- A frame of the chain reaches a port that carries it. -/
def onChain (s : State) (p : Nat) (f : State → State) : Option State :=
  if portUsable s p then some (f s) else none

/-! ### The walk (R472, R473) -/

/-- A WALK frame at the head. (DEDUCED, safe: log entry 63.) -/
def walkAtHead (s : State) (side : Nat) (w : WalkBody) : State :=
  let mine := walking s && w.gen.toNat == s.leash.gen
  if !mine then
    if w.ended || w.err then s
    else
      let s := sendWalk s side w.next.toNat w.gen.toNat false false true 2 0
      if walking s then headAbort s 2 else s
  else if w.err then headAbort s (w.errCode.toNat % 8)
  else if w.ended then
    if sideUp s 0 && sideUp s 1 then headAbort s 3 else headDone s w.count.toNat false
  else if side = 0 then headDone s w.next.toNat true
  else headAbort s 2

/-- A WALK frame at any other node. -/
def walkAtNode (s : State) (side : Nat) (w : WalkBody) : State :=
  let other := 1 - side
  let gen := w.gen.toNat
  let id := w.next.toNat
  if w.ended || w.err then
    sendWalk s other id gen w.ring w.ended w.err w.errCode.toNat w.count.toNat
  else if 65536 ≤ id then sendWalk s side id gen false false true 1 0
  else
    let s := setRegField (takeId s id gen) 0x120004 2 1 1
    if sideUp s other then sendWalk s other (id + 1) gen false false false 0 0
    else sendWalk s side id gen false true false 0 (id + 1)

/-- WALK. -/
def execWalk (p : Fin 4) (w : WalkBody) (s : State) : Result :=
  attempt (fun s => onChain s p.val (fun s =>
    if isHead s then walkAtHead s (sideOf p.val) w else walkAtNode s (sideOf p.val) w)) s

/-- WALK_TIMEOUT (R473). -/
def execWalkTimeout (s : State) : Result :=
  attempt (fun s => if isHead s && walking s then some (headAbort s 4) else none) s

/-- CHAIN_DONE: the node that took an ID in this walk has it for good. -/
def execChainDone (p : Fin 4) (gen : BitVec 16) (count : BitVec 32) (ring : Bool) (s : State) : Result :=
  attempt (fun s => onChain s p.val (fun s =>
    if isHead s || gen.toNat ≠ s.leash.gen then s else walkDone s count.toNat ring)) s

/-- CHAIN_ABORT. -/
def execChainAbort (p : Fin 4) (gen : BitVec 16) (s : State) : Result :=
  attempt (fun s => onChain s p.val (fun s =>
    let s := { s with leash := { s.leash with gen := gen.toNat } }
    let s := walkFailed s (regField s 0x120004 3 3)
    walkReply s eLshWalk [])) s

/-- CHAIN_BREAK (R477). -/
def execChainBreak (p : Fin 4) (id : BitVec 16) (s : State) : Result :=
  attempt (fun s => onChain s p.val (fun s =>
    failUnreached (lshFlag (setRegField s 0x120008 16 16 id.toNat) 1))) s

/-- CHAIN_MEND (R477): a link of the chain has come up, for which the head walks (R474). -/
def execChainMend (p : Fin 4) (s : State) : Result :=
  attempt (fun s => onChain s p.val (fun s => autoWalk (setRegField s 0x120008 16 16 0xFFFF))) s

/-! ### Epoch marks (R478, R479) -/

/-- The count and epoch number of position `h`; a new number is a boundary. -/
def loadPosition (s : State) (h : Nat) : State :=
  let len := max 1 s.timing.len
  let num := h / len % 2 ^ 48
  let at' := fun (s : State) => { s with timing := { s.timing with count := h % len } }
  if num = s.timing.epoch then at' s
  else if 0 < signedDiff 48 num s.timing.epoch then
    at' (boundaryEffects (startEpoch s num true) true)
  else numberChanged (at' { s with timing := { s.timing with epoch := num } })

/-- A mark in PHASE mode. -/
def markPhase (s : State) (h : Nat) (d : Int) : State :=
  let w := ((epWindow s : Nat) : Int)
  if d = 0 then s
  else if -w ≤ d && d ≤ w then loadPosition (cnt s 0x120010 1) h
  else
    let s := cnt (setRegField s 0x30008 0 2 0) 0x30038 1
    let s := epFlag (epFlag s 4 1) 5 0
    loadPosition (cnt s 0x120014 1) h

/-- A mark takes effect at a node (R479). -/
def markTaken (s : State) (num delay period : Nat) : State :=
  let len := max 1 s.timing.len
  let k := (2 * delay + period) / (2 * max 1 period)
  let h := num * len + k
  let mode := regField s 0x120000 6 2
  if mode = 1 then
    let d := signedDiff 48 num s.timing.epoch * (len : Int) + ((k : Int) - (s.timing.count : Int))
    markPhase s (h % (2 ^ 48 * len)) d
  else if mode = 2 && h / len % 2 ^ 48 ≠ s.timing.epoch then
    let n := h / len % 2 ^ 48
    let t := s.timing
    numberChanged { s with timing := { t with
      epoch := n, bTable := ((n, t.tick - t.count) :: t.bTable.filter (·.1 != n)).take 256 } }
  else s

/-- EPOCH_MARK: forwarded with the delay up to its departure, and taken after `dt`
TCLK; `period` and `hold` are in 0.1 ns. -/
def execEpochMark (p : Fin 4) (num : BitVec 48) (delay epLen : BitVec 32) (dt hold period : Nat)
    (s : State) : Result :=
  attempt (fun s =>
    if !portUsable s p.val || isHead s || !ticksFit s dt then none
    else
      let at' := delay.toNat + regVal s (tofReg p.val)
      let s := passTicks s dt
      let s := sendSide s (1 - sideOf p.val) 0 (leashFrame 4 false 0 0 (ownSrc s) 0 0
        (toLe 6 num.toNat ++ zeros 2 ++ toLe 4 (at' + hold) ++ toLe 4 epLen.toNat))
      let mode := regField s 0x120000 6 2
      if mode = 0 || mode = 3 then some s
      else if epLen.toNat ≠ s.timing.len || tclkLost s then some (lshFlag s 6)
      else if !epRunning s then some s
      else some (markTaken s num.toNat at' period)) s

/-! ### Verdict fan-out (R481) -/

/-- LEASH_VERDICT: a fanned-out verdict after `dt` TCLK. -/
def execLeashVerdict (p : Fin 4) (dt : Nat) (msg : Bytes) (lat : BitVec 32) (s : State) : Result :=
  attempt (fun s =>
    if !portUsable s p.val || !ticksFit s dt then none
    else
      let k := be msg 2 1
      let s := passTicks s dt
      if !nodeValid s || !inDet s k || !kennelBit s 0x120060 k then some s
      else
        let r : RemoteVerdict := {
          kennel := k, lines := be msg 32 8, flags := be msg 42 1, epoch := be msg 6 6,
          toffset := be msg 20 4 % 2 ^ 24, lat := lat.toNat }
        let keep := { s with leash := { s.leash with remote := s.leash.remote ++ [r] } }
        if 0 < signedDiff 48 r.epoch s.timing.epoch then some keep
        else
          match remoteDue s r with
          | none => some (cnt s 0x12001C 1)
          | some d =>
            if d < s.timing.tick then some (cnt s 0x12001C 1)
            else if d = s.timing.tick then some (driveRemote s d r)
            else some keep) s

/-! ### Messages (R487) -/

/-- CHAIN_STATUS is served. -/
def chainStatusMsg : Handler := fun _ s =>
  dmpYes s (toLe 8 (regVal s 0x120008) ++ toLe 4 (regVal s 0x120004) ++ zeros 4)

/-- CHAIN_STATUS. -/
def execChainStatus (mb : Mb) (m : Msg) (s : State) : Result :=
  .next (dmpTake chainStatusMsg (dmpMsg mb 0x0800 m) s)

/-- CHAIN_WALK is served; the reply comes with the walk's end. -/
def chainWalkMsg : Handler := fun _ s =>
  if !isHead s then dmpNo s eLshNothead
  else (startWalk { s with leash := { s.leash with reply := true } }, none)

/-- CHAIN_WALK. -/
def execChainWalk (mb : Mb) (m : Msg) (s : State) : Result :=
  .next (dmpTake chainWalkMsg (dmpMsg mb 0x0801 m) s)

/-- CHAIN_SET_HEAD is served (R471). -/
def setHeadMsg : Handler := fun r s =>
  let head := r.at 0 1 == 1
  if 2 ≤ r.at 0 1 || !r.zero 1 7 then dmpNo s eHrdField
  else if !head && s.pins.chainHead then dmpNo s eLshStrap
  else
    let s := { s with leash := { s.leash with elected := head } }
    dmpYes (setRegField s 0x120000 0 1 (b2n (head || s.pins.chainHead))) []

/-- CHAIN_SET_HEAD. -/
def execChainSetHead (mb : Mb) (m : Msg) (s : State) : Result :=
  .next (dmpTake setHeadMsg (dmpMsg mb 0x0802 m) s)

/-- LINK_RESET is served. -/
def linkResetMsg : Handler := fun r s =>
  if 4 ≤ r.at 0 1 || !r.zero 1 7 then dmpNo s eHrdField else dmpYes (linkDown s (r.at 0 1)) []

/-- LINK_RESET. -/
def execLinkReset (mb : Mb) (m : Msg) (s : State) : Result :=
  .next (dmpTake linkResetMsg (dmpMsg mb 0x0803 m) s)

/-- SET_VFAN is served; a kennel that does not exist has no fan-out (R396). -/
def vfanMsg : Handler := fun r s =>
  let k := r.at 0 1
  let v := r.at 1 1
  if 4 ≤ v || !r.zero 2 6 then dmpNo s eHrdField
  else if (kennel? s k).isNone then dmpYes s []
  else
    let s := setRegField s (0x120040 + 8 * (k / 64)) (k % 64) 1 (v % 2)
    dmpYes (setRegField s (0x120060 + 8 * (k / 64)) (k % 64) 1 (v / 2)) []

/-- SET_VFAN. (DEDUCED, unsafe: log entry 64.) -/
def execSetVfan (mb : Mb) (m : Msg) (s : State) : Result :=
  .next (dmpTake vfanMsg (dmpMsg mb 0x0804 m) s)

end Sys2Proof.Machine
end

