-- ==== Sys2Proof/Machine/Ingest.lean ====
section
/-! DEFINITION. Meanings of the ingest commands (R31 to R43). -/

namespace Sys2Proof.Machine

open Sys2Proof

/-! ### Links and modes (R32, R42, R458) -/

/-- The environment report's entry of an Ethernet port (R458). -/
def ethEnv (s : State) (g p : Nat) (up : Bool) : State :=
  let mode := ingMode s g
  envPut s (1344 + 16 * (4 * g + p))
    (toLe 1 mode ++ toLe 1 (b2n up) ++ toLe 2 (100 * modeLanes mode) ++ toLe 1 (b2n up))

/-- A link goes down; its FIFO stays. -/
def portDown (q : PortSt) : PortSt :=
  { q with up := false, asserted := [], held := [], prevFseq := none, skipping := false }

/-- A write of ING_GCFG: every link of the group drops, and the group retrains (R32).
(DESIGN CHOICE, unsafe: log entry 114.) -/
def writeGcfg (s : State) (g val : Nat) : State :=
  let off := 0x20000 + 0x1000 * g
  let s := match regFam off with
    | some f => setReg s off (regWritten f (regVal s off) val 0)
    | none => s
  let ups := (List.range 4).filter (fun p => (ingPort s g p).up)
  let s := modGroup s g (fun x => { ports := x.ports.map portDown, retrain := true })
  ups.foldl (fun s p => ethEnv s g p false) s

/-- GROUP_MODE_WRITE (R32). -/
def execGroupModeWrite (g : Fin 4) (val : BitVec 32) (s : State) : Result :=
  .next (hostAccess (writeGcfg · g.val val.toNat) s)

/-- INGEST_LINK_UP (R32, R42): a group that retrains first delivers what its FIFOs hold. -/
def execIngestLinkUp (g port : Fin 4) (s : State) : Result :=
  attempt (fun s =>
    let grp := (s.groups[g.val]?).getD {}
    let full := grp.retrain && grp.ports.any (fun p => !p.fifo.isEmpty)
    if modePorts (ingMode s g.val) ≤ port.val || (ingPort s g.val port.val).up || full ||
        2 ≤ pState s then none
    else
      let s := modGroup s g.val (fun x => { x with retrain := false })
      let s := modPort s g.val port.val (fun q => { q with up := true, prevFseq := none, skipping := false })
      some (ethEnv s g.val port.val true)) s

/-- INGEST_LINK_DOWN (R458). -/
def execIngestLinkDown (g port : Fin 4) (s : State) : Result :=
  attempt (fun s =>
    if !(ingPort s g.val port.val).up then none
    else some (ethEnv (modPort s g.val port.val portDown) g.val port.val false)) s

/-! ### Ethernet (R33, R34) -/

/-- ETH_FRAME_RECEIVE (R34). -/
def execEthFrameReceive (g port : Fin 4) (frame : Bytes) (fecBad : Bool) (s : State) : Result :=
  attempt (fun s =>
    if isEth s g.val port.val && (ingPort s g.val port.val).up then
      some (ethReceive s g.val port.val frame fecBad)
    else none) s

/-- What a pause frame makes of the classes that the partner holds. -/
def heldAfter (held : List (Nat × Nat)) (classes : List Nat) (quanta : Nat) : List (Nat × Nat) :=
  held.filter (fun h => !classes.contains h.1) ++
    (if quanta = 0 then [] else classes.map (fun c => (c, quanta)))

/-- PAUSE_FRAME_RECEIVE (R33): 802.3x holds the whole port, priority flow control the
classes named. -/
def execPauseFrameReceive (g port : Fin 4) (classes : BitVec 8) (quanta : Nat) (s : State) : Result :=
  attempt (fun s =>
    if !isEth s g.val port.val || !(ingPort s g.val port.val).up then none
    else
      let cs := if ingPause s g.val = 1 then some [0]
        else if ingPause s g.val = 2 then some ((List.range 8).filter (fun i => classes.getLsbD i))
        else none
      cs.map (fun cs => modPort s g.val port.val (fun q => { q with held := heldAfter q.held cs quanta }))) s

/-! ### RawLink (R40 to R42) -/

/-- What a control block that reaches the device is (R40). -/
inductive RlControl where
  | sof (fseq : Nat)
  | eof (valid crc : Nat)
  | abort
  | idle
  | other

/-- Reads a control block: byte 0 gives its type (R40). -/
def rlControl (b : Bytes) : RlControl :=
  match le b 0 1 with
  | 0x33 => .idle
  | 0x5A => .sof (be b 2 2)
  | 0xA5 => .eof (le b 1 1) (be b 4 4)
  | 0xC3 => .abort
  | _ => .other

/-- The lane skips to its next control block, or does not (R42). -/
def setSkipping (s : State) (g l : Nat) (skip : Bool) : State :=
  modPort s g l (fun q => { q with skipping := skip })

/-- A frame is discarded and counted once; the lane then skips (R42). -/
def rawDiscard (s : State) (g l i : Nat) : State := ingCnt (setSkipping s g l true) g i

/-- A SOF: its FSEQ is tested, and a frame begins (R42). -/
def rawStart (s : State) (g l fseq : Nat) : State :=
  let gap := match (ingPort s g l).prevFseq with
    | some p => (p + 1) % 65536 != fseq
    | none => false
  let s := if gap then ingCnt s g 15 else s
  modPort s g l (fun q => { q with prevFseq := some fseq, skipping := false })

/-- An EOF ends a frame of `n` data blocks (R41, R42). -/
def rawEnd (s : State) (g l n : Nat) (acc : Bytes) (valid crc : Nat) : State :=
  let bytes := acc.take (8 * (n - 1) + valid)
  if n = 0 ∨ valid < 1 ∨ 8 < valid then rawDiscard s g l 11
  else if crc32 bytes ≠ crc then rawDiscard s g l 14
  else if bytes.length < 32 then rawDiscard s g l 8
  else rfxReceive s g l 0 1 bytes

/-- A block that a lane receives, with the data blocks and bytes of the frame that is open
before it and after it (R41, R42). -/
def rawBlock (g l : Nat) (a : State × Option (Nat × Bytes)) (b : RlBlock) :
    State × Option (Nat × Bytes) :=
  let (s, frame) := a
  match frame, b with
  | some (n, acc), .data d =>
    if n = 2048 then (rawDiscard s g l 12, none) else (s, some (n + 1, acc ++ toLe 8 d.toNat))
  | some _, .bad => (rawDiscard s g l 11, none)
  | some (n, acc), .control c =>
    (match rlControl (toLe 8 c.toNat) with
     | .eof valid crc => (rawEnd s g l n acc valid crc, none)
     | .abort => (rawDiscard s g l 13, none)
     | .sof fseq => (rawStart (ingCnt s g 11) g l fseq, some (0, []))
     | .idle | .other => (rawDiscard s g l 11, none))
  | none, .data _ => (if (ingPort s g l).skipping then s else ingCnt s g 11, none)
  | none, .bad => (s, none)
  | none, .control c =>
    (match rlControl (toLe 8 c.toNat) with
     | .sof fseq => (rawStart s g l fseq, some (0, []))
     | _ => (setSkipping s g l false, none))

/-- RAWLINK_FRAME_RECEIVE (R40 to R42): a lane receives a SOF and the blocks behind it. A
frame that is still open behind the last one is discarded under case 1, as whatever but its
EOF or ABORT would have it. (DEDUCED, safe: log entry 106.) -/
def execRawlinkFrameReceive (g lane : Fin 4) (sof : BitVec 64) (blocks : List RlBlock) (s : State) :
    Result :=
  attempt (fun s =>
    if !isRaw s g.val || !(ingPort s g.val lane.val).up then none
    else
      match rlControl (toLe 8 sof.toNat) with
      | .sof _ =>
        let (s, frame) := (.control sof :: blocks).foldl (rawBlock g.val lane.val) (s, none)
        some (if frame.isSome then rawDiscard s g.val lane.val 11 else s)
      | _ => none) s

/-- RAWLINK_STRAY_BLOCK (R42). -/
def execRawlinkStrayBlock (g lane : Fin 4) (s : State) : Result :=
  attempt (fun s =>
    let q := ingPort s g.val lane.val
    if isRaw s g.val && q.up && !q.skipping then some (ingCnt s g.val 11) else none) s

/-- RAWLINK_IDLE_BLOCK (R42). -/
def execRawlinkIdleBlock (g lane : Fin 4) (s : State) : Result :=
  attempt (fun s =>
    if isRaw s g.val && (ingPort s g.val lane.val).up then
      some (modPort s g.val lane.val (fun q => { q with skipping := false }))
    else none) s

/-! ### The FIFO (R36, R43) -/

/-- The first fragment of a class that no older one of its kennel precedes, and the
FIFO without it. (DESIGN CHOICE, safe: log entry 116.) -/
def fifoTake (cls : Nat) : List (Nat × Frag) → List Nat → Option (Frag × List (Nat × Frag))
  | [], _ => none
  | (c, f) :: r, seen =>
    if c = cls then if seen.contains (rfxKennel f.bytes) then none else some (f, r)
    else (fifoTake cls r (rfxKennel f.bytes :: seen)).map (fun q => (q.1, (c, f) :: q.2))

/-- FRAGMENT_FORWARD (R43, R107, R123), at FCLK tick `now`. -/
def execFragmentForward (g port : Fin 4) (c : ClassAt) (s : State) : Result :=
  attempt (fun s =>
    let cls := c.cls
    let s := tickTo s c.now
    if !moverUp s then none else
    (fifoTake cls.val (ingPort s g.val port.val).fifo []).map (fun (f, rest) =>
      let (s, taken) := forwardFrag s g.val f
      if taken then
        updateFlow (modPort s g.val port.val (fun q => { q with fifo := rest })) g.val port.val cls.val
      else s)) s

/-- FLOW_CONTROL_REPEAT (R43). -/
def execFlowControlRepeat (g port : Fin 4) (cls : Fin 8) (s : State) : Result :=
  attempt (fun s =>
    let q := ingPort s g.val port.val
    if q.up && q.asserted.contains cls.val then some (sendFlow s g.val port.val cls.val true)
    else none) s

end Sys2Proof.Machine
end

