-- ==== Sys2Proof/Machine/LeashLink.lean ====
section
/-! DEFINITION. Meanings of the Leash link's commands: the reliable stream, LINK frames
and delays (R467 to R470, R475 to R477). -/

namespace Sys2Proof.Machine

open Sys2Proof

/-- Links are trained in P0 and P1 (R490). -/
def linksRun (s : State) : Bool := pState s < 2 && !fatal s

/-- LEASH_LINK_UP. -/
def execLeashLinkUp (p : Fin 4) (tof : Nat) (lanes : Fin 5) (s : State) : Result :=
  attempt (fun s =>
    if (lport s p.val).up || !linksRun s || lanes.val = 0 then none
    else some (linkUp s p.val tof lanes.val)) s

/-- LEASH_LINK_DOWN. -/
def execLeashLinkDown (p : Fin 4) (s : State) : Result :=
  attempt (fun s => if (lport s p.val).up then some (linkDown s p.val) else none) s

/-- LEASH_LINK_RETRAIN: a port that is down trains again, from a fresh stream. -/
def execLeashLinkRetrain (p : Fin 4) (s : State) : Result :=
  attempt (fun s =>
    if (lport s p.val).up || !linksRun s then none
    else some (setReg (modLport s p.val (fun _ => {})) (lshPort p.val) 0)) s

/-! ### The reliable stream (R467, R468) -/

def lfType (f : Bytes) : Nat := le f 0 1
def lfBcast (f : Bytes) : Bool := bitAt (le f 1 1) 7
def lfVc (f : Bytes) : Nat := field (le f 1 1) 5 2
def lfDst (f : Bytes) : Nat := le f 2 2

/-- VC and least payload of a type; none where it is reserved. -/
def lfForm (type : Nat) : Option (Nat × Nat) :=
  match type with
  | 1 => some (0, 8)
  | 2 => some (0, 12)
  | 3 => some (0, 12)
  | 4 => some (0, 16)
  | 5 => some (1, 52)
  | 6 => some (2, 24)
  | 7 => some (2, 12)
  | 8 => some (2, 8)
  | 9 => some (2, 10)
  | _ => none

/-- The frame keeps the tables of R468. -/
def lfOk (f : Bytes) : Bool :=
  let t := lfType f
  match lfForm t with
  | none => false
  | some (vc, least) =>
    let len := le f 12 2
    16 ≤ f.length && lfVc f == vc && le f 1 1 % 32 == 0 && zeroes f 6 2 && zeroes f 9 1 && zeroes f 14 2 &&
    f.length == 16 + len && len ≤ 16368 && (if t = 6 then least ≤ len else len == least || t == 1) &&
    (5 ≤ t || zeroes f 8 1) && (6 ≤ t || zeroes f 10 2) &&
    (t != 3 || (1 ≤ le f 16 1 && le f 16 1 ≤ 4))

/-- A frame that goes on: a broadcast on the other side, a unicast frame on its path.
WALK and EPOCH frames are sent on by what consumes them. -/
def forwardFrame (s : State) (p : Nat) (f : Bytes) : State :=
  let t := lfType f
  if t = 2 || t = 4 then s
  else if 5 ≤ t && !nodeValid s then s
  else if lfBcast f then sendBroadcast s (some (sideOf p)) (lfVc f) f
  else if lfDst f = nodeId s then s
  else sendUnicast s (lfDst f) (lfVc f) f

/-- LENGTH of a LINK frame of a SUBTYPE; none where it is reserved (R469). -/
def linkLength (subtype : Nat) : Option Nat :=
  match subtype with
  | 1 | 2 => some 8
  | 3 | 5 => some 16
  | 4 => some 32
  | _ => none

/-- A LINK frame that breaks the table of R469. -/
def badLink (f : Bytes) : Bool :=
  linkLength (le f 16 1) != some (le f 12 2) || lfBcast f || lfDst f != 0

/-- LEASH_FRAME_RECEIVE: taken in order and sent on, or answered with a NACK. What a
frame does at this node is the command of its type. -/
def execLeashFrameReceive (p : Fin 4) (fseq : BitVec 16) (crcOk : Bool) (f : Bytes) (s : State) : Result :=
  attempt (fun s =>
    let q := lport s p.val
    if !q.up then none
    else if lfType f = 1 then
      some (if !crcOk || !lfOk f || badLink f then lshCnt s p.val 2 else s)
    else if !crcOk then some (sendNack (lshCnt s p.val 2) p.val)
    else if fseq.toNat ≠ q.rxSeq then some (sendNack s p.val)
    else
      let s := modLport s p.val (fun q => { q with
        rxSeq := (q.rxSeq + 1) % 65536, unacked := q.unacked + 1 })
      let s := lshCnt s p.val 1
      let s := if q.unacked + 1 = 32 then sendAck s p.val else s
      some (if !lfOk f || capMismatch s p.val then lshCnt s p.val 2 else forwardFrame s p.val f)) s

/-- LEASH_ACK_TIMER. -/
def execLeashAckTimer (p : Fin 4) (s : State) : Result :=
  attempt (fun s =>
    if (lport s p.val).up && 0 < (lport s p.val).unacked then some (sendAck s p.val) else none) s

/-! ### LINK frames (R469) -/

/-- A LINK frame reaches a port that is up. -/
def onLink (s : State) (p : Nat) (f : State → State) : Option State :=
  if (lport s p).up then some (f (lshCnt s p 1)) else none

/-- ACK: frames up to its FSEQ leave the replay buffer, and waiting ones have credit. -/
def execAck (p : Fin 4) (fseq : BitVec 16) (s : State) : Result :=
  attempt (fun s => onLink s p.val (fun s =>
    let q := lport s p.val
    if q.replay.any (fun e => e.1 == fseq.toNat) then
      let left := q.replay.filter (fun e => 0 < signedDiff 16 e.1 fseq.toNat)
      drainLeash (modLport s p.val (fun q => { q with replay := left, tries := 0, nacked := 65536 })) p.val
    else s)) s

/-- NACK: every frame from its FSEQ is sent again; after 16 replays of one frame the
link goes down. -/
def execNack (p : Fin 4) (fseq : BitVec 16) (s : State) : Result :=
  attempt (fun s => onLink s p.val (fun s =>
    let q := lport s p.val
    let n := fseq.toNat
    if q.replay.any (fun e => e.1 == n) then
      let tries := if q.nacked = n then q.tries + 1 else 1
      let again := q.replay.filter (fun e => 0 ≤ signedDiff 16 e.1 n)
      let s := modLport s p.val (fun q => { q with tries, nacked := n })
      if 16 ≤ tries then linkDown (lshCnt s p.val 3) p.val
      else again.foldl (fun s e => lshCnt (emit s (.leashTx p.val e.1 e.2.2)) p.val 0) (lshCnt s p.val 3)
    else s)) s

/-- PROBE: answered with an ECHO. -/
def execProbe (p : Fin 4) (num : Nat) (t1 t2 t3 : BitVec 64) (s : State) : Result :=
  attempt (fun s =>
    if 256 ≤ num then none
    else onLink s p.val (fun s =>
      sendLink s p.val (toLe 1 4 ++ zeros 1 ++ toLe 2 num ++ zeros 4 ++ toLe 8 t1.toNat ++
        toLe 8 t2.toNat ++ toLe 8 t3.toNat))) s

/-- The delay that one probe measured, in 0.1 ns (R475). -/
def probeDelay (t1 t2 t3 t4 : Nat) : Nat :=
  ((signedDiff 64 t4 t1 - signedDiff 64 t3 t2) / 2).toNat

/-- ECHO: the 256th gives the average (R475). -/
def execEcho (p : Fin 4) (num : Nat) (t1 t2 t3 t4 : BitVec 64) (s : State) : Result :=
  attempt (fun s =>
    if 256 ≤ num then none
    else onLink s p.val (fun s =>
      let d := probeDelay t1.toNat t2.toNat t3.toNat t4.toNat
      let all := (lport s p.val).samples ++ [d]
      if all.length < 256 then modLport s p.val (fun q => { q with samples := all })
      else setTof (modLport s p.val (fun q => { q with samples := [] })) p.val (sumOf all id / 256))) s

/-- CAP: the partner's record; another FW_MAJOR lets the link carry LINK frames only. -/
def execCap (p : Fin 4) (record : BitVec 64) (s : State) : Result :=
  attempt (fun s => onLink s p.val (fun s =>
    let v := record.toNat
    let other := field v 16 8 != le s.herder.header 8 1
    let s := setReg s (0x120110 + 0x40 * p.val) v
    let s := envPut s (1216 + 32 * p.val + 8) (toLe 8 v)
    failUnreached (setRegField s (lshPort p.val) 3 1 (b2n other)))) s

/-- TOF_MEASURE: a change of more than 1 ns is flagged (R475). -/
def execTofMeasure (p : Fin 4) (raw : Nat) (s : State) : Result :=
  attempt (fun s =>
    if !(lport s p.val).up then none
    else
      let old := regVal s (tofReg p.val)
      let new := tofValue s p.val raw
      let s := setTof s p.val raw
      some (if old + 10 < new || new + 10 < old then lshFlag s 0 else s)) s

end Sys2Proof.Machine
end

