-- ==== Sys2Proof/Machine/Compress.lean ====
section
/-! DEFINITION. Meanings of the compression engines' commands (R302 to R316). -/

namespace Sys2Proof.Machine

open Sys2Proof

/-- Adds to the counters of a compression engine, and of the vertex (R320, R452):
UBYTES, CBYTES, BLOCKS, STORED, VERIFY_FAIL, DEC_ERR, STATE_SAVE, STATE_LOAD. -/
def cntCze (s : State) (x : Vx) (ns : List Nat) : State :=
  let base := 0xB0010 + 0x1000 * x.vert.inst
  (ns.zip (List.range ns.length)).foldl (fun s (n, i) =>
    let s := if i < 2 then cntW 64 s (base + 8 * i) n else cnt s (base + 8 + 4 * i) n
    cntVertex s x.job.kennel x.job.plan x.vid i n) s

/-- Changes the stream state of a vertex. -/
def setCze (s : State) (x : Vx) (st : CzeSt) : State := setEng s x (.cze st)

/-- TILE_BYTES of the edge of the output port. -/
def czeOutBytes (x : Vx) : Nat := ((outEdge? x.plan x.vid 0).map (·.2.tileBytes)).getD 0

/-- A decoder error fails the job (R303). -/
def czeDecErr (s : State) (x : Vx) (e : CzeErr) : State :=
  let s := setReg s (0xB0008 + 0x1000 * x.vert.inst)
    (e.1 * 2 ^ 48 + x.job.kennel * 2 ^ 40 + e.2 % 2 ^ 40)
  failJobWith (cntCze s x [0, 0, 0, 0, 0, 1]) x.j e.1 x.vid [e.2, 0, 0, 0]

/-- A CZE vertex that an engine serves, of the direction given, past its restore. -/
def servedCze (s : State) (cze : Fin 4) (dir : Nat) : Option Vx :=
  match servedIdle s (.cze cze) with
  | some x =>
    if x.vert.kind = kCze ∧ czeDir x.vert.cfg = dir ∧
        (!czeRestore x.vert.cfg || (czeOf x.st).restored) then some x else none
  | none => none

/-- A CZE vertex with no engine named, of a job that goes on. -/
def liveCze (s : State) (v : VertexRef) : Option Vx :=
  match liveVx s v with
  | some x => if x.vert.kind = kCze then some x else none
  | none => none

/-! ### Compression -/

/-- The tile of stream bytes that has been held (R309). -/
def czeTile (x : Vx) (h : Bytes × Nat × Nat) : OItem :=
  .tile (byteTile 16 x.job.kennel h.2.1 (h.2.2 / 8) (czeCol x.vert.cfg) 8 h.1)

/-- The bytes that a compressor takes of a tile (R310). -/
def czeInput (cfg : Bytes) (t : PTile) (raw : Bytes) : Except Nat Bytes :=
  if czeRaw cfg then byteStrip (czeCol cfg) 2 t else .ok (raw.take (tileTotal raw))

/-- What a held output lets out when it goes, its own tile first (R115, R311). -/
def czeHeldOuts (x : Vx) (h : Bytes × Nat × Nat) : List (Nat × OItem) :=
  (0, czeTile x h) :: (czeOf x.st).skips.flatMap (skipOuts x)

/-- A skip mark of a compressor: it waits behind a held output (R115). -/
def czeSkip (s : State) (x : Vx) (cze : Fin 4) (st : CzeSt) (seq : Nat) : State :=
  if st.held.isSome then engineFree (setCze s x { st with skips := st.skips ++ [seq] }) (.cze cze)
  else finishOuts (setCze s x st) x (.cze cze) (skipOuts x seq)

/-- The compressor has made `r` of an input tile with SEQ `seq`: the tile held so far
goes out with the skip marks behind it, and the new one is held (R311). -/
def compressed (s : State) (x : Vx) (cze : Fin 4) (seq ulen : Nat) (r : EncRun) : State :=
  let st := czeOf x.st
  let s := cntCze s x [ulen, r.out.length, r.blocks, r.stored]
  if r.out.isEmpty then czeSkip s x cze { r.st with held := st.held, skips := st.skips } seq
  else
    let s := setCze s x { r.st with
      held := some (r.out, seq, r.st.coff - r.out.length), skips := [] }
    engineFree (putOut s x (st.held.toList.flatMap (czeHeldOuts x))) (.cze cze)

/-- CZE_COMPRESS_TILE (R304 to R311). `verifyOk` is what the engine's own decoder finds
on the blocks of an archive stream (R307). -/
def execCzeCompressTile (cze : Fin 4) (verifyOk : Bool) (s : State) : Result :=
  attempt (fun s =>
    match servedCze s cze 0 with
    | none => none
    | some x =>
      let cfg := x.vert.cfg
      match headSkip x 0, headTile x 0 with
      | some q, _ => some (czeSkip (popIn s x 0) x cze (czeOf x.st) q)
      | none, some b =>
        let s' := popIn s x 0
        match readTile s x b with
        | .error e => some (finishFail s' x (.cze cze) e)
        | .ok t =>
          match czeInput cfg t b with
          | .error e => some (finishFail s' x (.cze cze) e)
          | .ok data =>
            let s' := noteDicts s' x t
            if czeClass cfg = 0 && !verifyOk then
              let s' := raiseEvent (cntCze s' x [0, 0, 0, 0, 1]) (56 + cze.val)
              some (finishFail s' x (.cze cze) eCzeVerify)
            else some (compressed s' x cze t.seq data.length (encodeTile cfg (czeOf x.st) data))
      | none, none => none) s

/-! ### Decompression -/

/-- Every strip of a tile reads without a fault (second stage of R85). -/
def stripsFault (t : PTile) : Option Nat :=
  t.strips.findSome? (fun p =>
    match stripValues p t.rows with
    | .error e => some e
    | .ok _ => none)

/-- The output tile of decoded bytes (R310, R311): none for no bytes. -/
def czeOutput (s : State) (x : Vx) (seq first : Nat) (out : Bytes) : Except Nat (Option Bytes) :=
  let cfg := x.vert.cfg
  if out.isEmpty then .ok none
  else if czeRaw cfg then
    let cap := outCap x.plan x.vid 0
    let b := byteTile cap x.job.kennel seq first (czeCol cfg) 2 out
    if 65536 < out.length || 2 ^ cap < out.length || czeOutBytes x < b.length then
      .error eCzeOverrun
    else .ok (some b)
  else if czeOutBytes x < out.length then .error eCzeOverrun
  else
    let b := setTileSeq (putAt out 22 (toLe 1 x.job.kennel)) seq
    match readTile s x b with
    | .error e => .error e
    | .ok t =>
      if tileTotal b ≠ b.length then .error eTileFormat
      else
        match stripsFault t with
        | some e => .error e
        | none => .ok (some b)

/-- CZE_DECOMPRESS_TILE (R298, R302, R303, R310, R311). -/
def execCzeDecompressTile (cze : Fin 4) (s : State) : Result :=
  attempt (fun s =>
    match servedCze s cze 1 with
    | none => none
    | some x =>
      let cfg := x.vert.cfg
      match headSkip x 0, headTile x 0 with
      | some q, _ => some (finishOuts (popIn s x 0) x (.cze cze) (skipOuts x q))
      | none, some b =>
        let s' := popIn s x 0
        match readTile s x b with
        | .error e => some (finishFail s' x (.cze cze) e)
        | .ok t =>
          match byteStrip (czeCol cfg) 8 t with
          | .error e => some (finishFail s' x (.cze cze) e)
          | .ok data =>
            match decodeStream cfg (data.length + 1) { st := czeOf x.st } data with
            | .error e => some (engineFree (czeDecErr s' x e) (.cze cze))
            | .ok r =>
              let s' := setCze s' x r.st
              match czeOutput s' x t.seq (r.first.getD 0) r.out.reverse with
              | .error e => some (finishFail s' x (.cze cze) e)
              | .ok o =>
                let s' := cntCze s' x [r.out.length, data.length, r.blocks, r.stored]
                let outs := match o with
                  | some b => [(0, OItem.tile b)]
                  | none => skipOuts x t.seq
                some (finishOuts s' x (.cze cze) outs)
      | none, none => none) s

/-! ### Ends and carried-over state -/

/-- CZE_END_MARK (R302, R311): the input has ended. -/
def execCzeEndMark (v : VertexRef) (s : State) : Result :=
  attempt (fun s =>
    match liveCze s v with
    | none => none
    | some x =>
      let cfg := x.vert.cfg
      let st := czeOf x.st
      if x.st.finished || !x.st.outq.isEmpty || !portEnded x 0 ||
          (czeRestore cfg && !st.restored) then none
      else
        let done := fun (s : State) => modVert s x.j x.vid (fun v => { v with finished := true })
        if czeDir cfg = 1 then
          if st.isOpen && !czeSave cfg then some (czeDecErr s x (eCzeTruncated, st.coff))
          else some (done s)
        else
          match st.held with
          | none => some (done s)
          | some (b, seq, off) =>
            if czeSave cfg then
              some (done (putOut (setCze s x { st with held := none, skips := [] }) x
                (czeHeldOuts x (b, seq, off))))
            else
              let e := endBlock st
              let s := cntCze s x [0, e.length]
              let s := setCze s x { st with
                held := none, skips := [], isOpen := false, coff := st.coff + e.length }
              some (done (putOut s x (czeHeldOuts x (b ++ e, seq, off))))) s

/-- CZE_STATE_RESTORE (R315): before the first input tile. -/
def execCzeStateRestore (v : VertexRef) (s : State) : Result :=
  attempt (fun s =>
    match liveCze s v with
    | none => none
    | some x =>
      let cfg := x.vert.cfg
      if !czeRestore cfg || (czeOf x.st).restored then none
      else
        match ownSpace s x.job.kennel (czeTs cfg) with
        | none => some (failVx s x eCzeState)
        | some t =>
          if spaceSize t < czeOff cfg + czeAreaLen cfg then some (failVx s x eCzeState)
          else
            let (head, bad) := tsRead s t (czeOff cfg) 256
            let hlen := if le head 12 4 ≤ 2 ^ czeWlog cfg then le head 12 4 else 0
            let (hist, bad') := tsRead s t (czeOff cfg + 256) hlen
            if bad || bad' then some (failVx s x eDdrUe)
            else
              match czeRestored cfg (head ++ hist) with
              | none => some (failVx s x eCzeState)
              | some st =>
                some (cntCze (setCze s x { st with restored := true }) x [0, 0, 0, 0, 0, 0, 0, 1])) s

/-- The area of a state save, of a vertex whose save is due (R316). -/
def saveArea (s : State) (x : Vx) : Option TSpace :=
  let cfg := x.vert.cfg
  if czeSave cfg && !(czeOf x.st).saved && x.st.finished && x.st.outq.isEmpty &&
      inSpace s x.job.kennel (czeTs cfg) (czeOff cfg) (czeAreaLen cfg)
  then ownSpace s x.job.kennel (czeTs cfg) else none

/-- A state save that is under way at the reset point is stopped: how much of the new record
the area then holds is open (R318). -/
def stopSave (s : State) (x : Vx) : State :=
  match saveArea s x with
  | none => s
  | some t =>
    let b := czeArea x.vert.cfg (czeOf x.st)
    let (n, s) := takeFree s
    tsWrite s t (czeOff x.vert.cfg) (b.take (n % (b.length + 1)))

/-- Every save of a kennel. -/
def stopSaves (s : State) (k : Nat) : State :=
  s.jobs.foldl (fun s (j, b) =>
    if b.kennel ≠ k then s
    else (List.range b.verts.length).foldl (fun s vid =>
      match liveVx s { job := j, vid } with
      | some x => if x.vert.kind = kCze then stopSave s x else s
      | none => s) s) s

/-- CZE_STATE_SAVE (R316): after the last output has been published. -/
def execCzeStateSave (v : VertexRef) (s : State) : Result :=
  attempt (fun s =>
    match liveCze s v with
    | none => none
    | some x =>
      let cfg := x.vert.cfg
      let st := czeOf x.st
      if !czeSave cfg || st.saved || !x.st.finished || !x.st.outq.isEmpty then none
      else if !inSpace s x.job.kennel (czeTs cfg) (czeOff cfg) (czeAreaLen cfg) then
        some (failVx s x eCzeState)
      else
        match ownSpace s x.job.kennel (czeTs cfg) with
        | none => none
        | some t =>
          let s := tsWrite s t (czeOff cfg) (czeArea cfg st)
          some (cntCze (setCze s x { st with saved := true }) x [0, 0, 0, 0, 0, 0, 1])) s

end Sys2Proof.Machine
end

