-- ==== Sys2Proof/Machine/Kennels.lean ====
section
/-! DEFINITION. Meanings of the messages that manage kennels, and of the ends of a
kennel reset (R396 to R412, R501, R503). -/

namespace Sys2Proof.Machine

open Sys2Proof

/-! ### Creation and destruction -/

/-- The status with which a KENNEL_CREATE is refused (R397, R400, R414, R501; the order
between R400's checks and the others is DEDUCED, unsafe: log entry 92). -/
def createFault (s : State) (b : Bytes) : Option Nat :=
  let k := le b 0 1
  let sh := slice b 8 64
  let pasid := le b 4 4
  if k = 0 || 2 ≤ le b 1 1 || !zeroes b 2 2 || 2 ^ 20 ≤ pasid || !shareFieldsOk sh then some eKnField
  else if (kennel? s k).isSome then some eKnExists
  else if s.kennels.any (fun e => pasidSet s e.1 && e.2.pasid == pasid) then some eKnPasid
  else if le b 1 1 = 1 && (orphans s k).any (fun e => e.2.pasid != pasid) then some eKnPasid
  else if !shareFits (s.kennels.map (fun e => e.2.share)) sh then some eKnOvercommit
  else if le b 1 1 = 1 &&
      granuleLimit sh < sumOf (orphans s k) (fun e => e.2.granules.length) then some eKnInuse
  else none

/-- The orphaned spaces of a number are adopted, or deleted (R501). -/
def settleOrphans (s : State) (k : Nat) (adopt : Bool) : State :=
  if adopt then
    { s with store := { s.store with spaces := s.store.spaces.map (fun (n, t) =>
        (n, if t.owner.isNone && t.former == k then { t with owner := some k } else t)) } }
  else (orphans s k).foldl (fun s e => dropSpace s e.1) s

/-- KENNEL_CREATE is served. -/
def createKennel : Handler := fun r s =>
  let b := r.msg.body
  match createFault s b with
  | some e => dmpNo s e
  | none =>
    let k := le b 0 1
    let sh := slice b 8 64
    let s := settleOrphans s k (le b 1 1 == 1)
    let s := { s with kennels := tset s.kennels k { pasid := le b 4 4, share := sh } }
    shareReply (writeShare (setReg s (0xF0000 + 8 * k) (2 ^ 63 + le b 4 4)) k sh) k r.mb

/-- KENNEL_CREATE. -/
def execKennelCreate (mb : Mb) (m : Msg) (s : State) : Result :=
  .next (dmpTake createKennel (dmpMsg mb 0x0100 m) s)

/-- The kennel holds what keeps it from being destroyed (R406). -/
def kennelHolds (s : State) (k : Nat) (x : Kennel) : Bool :=
  !x.plans.isEmpty || !x.wqs.isEmpty || !x.cqs.isEmpty || 0 < spacesOf s k || 0 < dgeSlotsOf s k ||
  x.quar.isSome || x.state == 3

/-- The registers of a kennel's page, as in a kennel that does not exist (R396). -/
def clearPage (s : State) (k : Nat) : State :=
  [0x3008, 0x3100].foldl (fun s o => setReg s (page k + o) 0) s

/-- A kennel is gone (R406, R523). (DESIGN CHOICE, unsafe: log entry 130.) -/
def removeKennel (s : State) (k : Nat) : State :=
  let s := { s with
    kennels := tdel s.kennels k,
    windows := tdel s.windows k,
    dge := { s.dge with ctxs := s.dge.ctxs.filter (fun c => c.2.kennel != k) },
    herder := { s.herder with held := s.herder.held.filter (fun h => h.mb != k) } }
  let s := changeKmask (setReg s (0xF0000 + 8 * k) 0) k 0
  let s := permitKennel (routeKennel s k (zeros 64)) k 0
  let s := setRegField s (0x10000 + 8 * ((256 + k) / 64)) (k % 64) 1 0
  clearPage (setRegField s (0x10000 + 8 * ((512 + k) / 64)) (k % 64) 1 0) k

/-- KENNEL_DESTROY is served (R406). (DEDUCED, unsafe: log entry 25.) -/
def destroyKennel : Handler := fun r s =>
  let k := r.at 0 1
  if k = 0 || !r.zero 1 7 then dmpNo s eKnField
  else
    match kennel? s k with
    | none => dmpNo s eKnExists
    | some x => if kennelHolds s k x then dmpNo s eKnBusy else shareReply (removeKennel s k) k r.mb

/-- KENNEL_DESTROY. -/
def execKennelDestroy (mb : Mb) (m : Msg) (s : State) : Result :=
  .next (dmpTake destroyKennel (dmpMsg mb 0x0101 m) s)

/-! ### Shares -/

/-- SET_SHARE is served (R400, R401). -/
def changeShare : Handler := fun r s =>
  let b := r.msg.body
  let k := le b 0 1
  let sh := slice b 8 64
  if !zeroes b 1 7 || !shareFieldsOk sh then dmpNo s eKnField
  else
    match kennel? s k with
    | none => dmpNo s eKnExists
    | some x =>
      if !shareFits (otherShares s k) sh then dmpNo s eKnOvercommit
      else if !shareCovers s k x sh then dmpNo s eKnInuse
      else shareReply (dgeRun (writeShare (modKennel s k (fun x => { x with share := sh })) k sh)) k r.mb

/-- SET_SHARE. -/
def execSetShare (mb : Mb) (m : Msg) (s : State) : Result :=
  .next (dmpTake changeShare (dmpMsg mb 0x0102 m) s)

/-- GET_SHARE is served (R451). -/
def showShare : Handler := fun r s =>
  if !r.zero 1 7 then dmpNo s eKnField
  else
    match kennel? s (r.at 0 1) with
    | none => dmpNo s eKnExists
    | some x => dmpYes s x.share

/-- GET_SHARE. -/
def execGetShare (mb : Mb) (m : Msg) (s : State) : Result :=
  .next (dmpTake showShare (dmpMsg mb 0x0104 m) s)

/-! ### Kennel reset (R408 to R412) -/

/-- The digest engine at the reset point (R335). -/
def resetDge (s : State) (k : Nat) (x : Kennel) : State :=
  modDge s (fun d => { d with
    cmds := d.cmds.filter (fun c => c.kennel != k),
    ctxs := d.ctxs.filterMap (fun (i, c) =>
      if c.kennel ≠ k then some (i, c)
      else
        match c.user with
        | .msg _ => none
        | .vertex _ _ _ => some (i, ctxEmpty c)),
    slots := d.slots.filterMap (fun (n, t) =>
      if t.kennel ≠ k then some (n, t)
      else if (slotNamed x n).isEmpty then none
      else some (n, { kennel := k, alg := 0, inner := [], outer := [] })) })

/-- The request that the kennel's own mailbox holds is answered (R408). -/
def abandonRequest (s : State) (k : Nat) : State :=
  if !mbBusy s k then s
  else
    let s := { s with
      herder := { s.herder with held := s.herder.held.filter (fun h => h.mb != k) },
      store := { s.store with creating := tdel s.store.creating k } }
    let s := modKennel s k (fun x => { x with
      qreplies := x.qreplies.filter (fun q => q.mailbox != k) })
    dmpReply s k eKnReset []

/-- The reset point scrubs each of the kennel's Scent banks (R207): it empties them before
the kennel can load them again. -/
def scrubKennel (s : State) (k : Nat) : State :=
  { s with scent := s.scent.map (fun (b, y) =>
      (b, if y.owner.any (fun o => o.1 == k) then scentScrub y else y)) }

/-- The reset point of a kennel (R408). (DESIGN CHOICE, unsafe: log entry 120.) -/
def resetPoint (s : State) (k : Nat) (x : Kennel) (mb : Nat) : State :=
  let s := stopSaves (if mb = k then s else abandonRequest s k) k
  let s := modKennel s k (fun x => { x with state := 3, resetReply := some mb })
  let s := setRegField s (0xF1000 + 8 * (k / 64)) (k % 64) 1 1
  let s := scrubKennel (dropPools (resetKennelWqs s k) k) k
  let s := { s with timing := { s.timing with events := s.timing.events.map (fun e =>
    if e.kennel = k then { e with dead := true, result := none } else e) } }
  resetDge s k x

/-- KENNEL_RESET is served. -/
def startReset : Handler := fun r s =>
  let k := r.at 0 1
  if !r.zero 1 7 then dmpNo s eKnField
  else
    match kennel? s k with
    | none => dmpNo s eKnExists
    | some x => if x.state = 3 then dmpNo s eKnBusy else (resetPoint s k x r.mb, none)

/-- KENNEL_RESET. -/
def execKennelReset (mb : Mb) (m : Msg) (s : State) : Result :=
  .next (dmpTake startReset (dmpMsg mb 0x0103 m) s)

/-- A kennel's abandoned jobs of which vertices have not stopped, and its SHC misses in
flight: what DRAIN counts (R410). (DEDUCED, safe: log entry 132.) -/
def drainCount (s : State) (k : Nat) : Nat :=
  sumOf s.jobs (fun (_, b) =>
    if b.kennel = k && b.abandoned then b.verts.countP (fun v => !v.stopped) else 0) +
  s.shc.misses.countP (fun e => e.2.kennel == k)

/-- KENNEL_RESET_DONE (R207, R410, R518): DRAIN is 0, so the Scent scrubs that
the reset point began have ended. -/
def execKennelResetDone (k : Fin 256) (s : State) : Result :=
  attempt (fun s =>
    let n := k.val
    match kennel? s n with
    | none => none
    | some x =>
      if x.state ≠ 3 || drainCount s n ≠ 0 then none
      else
        let s := { s with
          jobs := s.jobs.filter (fun e => !(e.2.kennel == n && e.2.abandoned)) }
        let s := modKennel s n (fun x => { x with state := 1, resetReply := none })
        let s := setRegField s (0xF1000 + 8 * (n / 64)) (n % 64) 1 0
        let s := raiseEvent (setRegField s (page n + 0x3100) 5 1 1) (256 + n)
        some (match x.resetReply with
          | some mb => dmpReply s mb 0 []
          | none => s)) s

end Sys2Proof.Machine
end

