-- ==== Sys2Proof/Machine/Power.lean ====
section
/-! DEFINITION. Meanings of what the power controller and the always-on domain do by
themselves: gating (R21 to R25), clock limits (R492), rails and alarms (R534, R536),
the thermal trip (R546), the TAP (R542), and two device errors (R503, R504). -/

namespace Sys2Proof.Machine

open Sys2Proof

/-! ### Gating (R21 to R25, R491) -/

/-- PWR_GATE.IDLE and PLL_STOP. -/
def gateIdle (s : State) : Nat := regField s 0x130008 0 16
def gatePll (s : State) : Nat := regField s 0x130008 16 16

/-- KIND and number of a unit that carries vertices. -/
def unitVertex : UnitId → Option (Nat × Nat)
  | .hound _ => none
  | .fe n => some (kFacet, n.val)
  | .she n => some (kShepherd, n.val)
  | .srt n => some (kSort, n.val)
  | .agg n => some (kAgg, n.val)
  | .cze n => some (kCze, n.val)
  | .dge | .mv _ | .shc => none

/-- A vertex lies on a unit; for a Hound, on its Pack (R25). -/
def vertexOn (v : Vertex) (u : UnitId) : Bool :=
  match u with
  | .hound h => v.kind == kHound && v.units.any (fun x => x / 16 == h.val / 16)
  | .dge => v.kind == kDge
  | u => unitVertex u == some (v.kind, v.inst)

/-- KEEP_WARM of a kennel's share. -/
def keepWarm (x : Kennel) : Bool := bitAt (le x.share 1 1) 0

/-- A kennel with KEEP_WARM exempts the unit (R25). -/
def exempt (s : State) (u : UnitId) : Bool :=
  s.kennels.any (fun (_, x) => keepWarm x &&
    x.plans.any (fun (_, p) => p.verts.any (fun v => vertexOn v u)))

/-- The unit has nothing to do. -/
def unitIdle (s : State) (u : UnitId) : Bool :=
  match u with
  | .hound h => (hound s h.val).job.isNone
  | .fe n => (servedVx s (.fe n)).isNone
  | .she n => (servedVx s (.she n)).isNone
  | .srt n => (servedVx s (.srt n)).isNone
  | .agg n => (servedVx s (.agg n)).isNone
  | .cze n => (servedVx s (.cze n)).isNone
  | .dge => s.dge.cmds.isEmpty
  | .mv _ => s.store.cmds.all (fun c => !c.issued)
  | .shc => s.shc.misses.isEmpty && s.shc.waiting.isEmpty && s.shc.ebuf.isEmpty && !shcFlushing s

/-- A unit's clock stops. -/
def gateUnit (s : State) (u : UnitId) : State :=
  cnt { s with power := { s.power with gated := s.power.gated ++ [u] } } 0x130050 1

/-- The unit may be gated now: in P0 as PWR_GATE and R25 allow, in P1 whenever idle. -/
def mayGate (s : State) (u : UnitId) : Bool :=
  !unitGated s u && unitIdle s u &&
  ((pState s == 0 && gateIdle s != 0 && !exempt s u) || pState s == 1)

/-- UNIT_CLOCK_GATE (R21): a request in the same ACLK tick wins (R24). -/
def execUnitClockGate (u : UnitId) (reqSameTick : Bool) (s : State) : Result :=
  attempt (fun s => if reqSameTick || !mayGate s u then none else some (gateUnit s u)) s

/-- The Hounds of a Pack, as units. -/
def packUnits (p : Nat) : List UnitId :=
  (List.range 16).map (fun i => .hound (Fin.ofNat 128 (16 * p + i)))

/-- PWR_HCLKp.PLL_ON. -/
def setPll (s : State) (p v : Nat) : State := setRegField s (0x130010 + 4 * p) 12 1 v

/-- PACK_PLL_STOP (R21). -/
def execPackPllStop (p : Fin 8) (s : State) : Result :=
  attempt (fun s =>
    if pState s ≠ 0 || gatePll s = 0 || s.power.pllOff.contains p.val ||
        !(packUnits p.val).all (fun u => unitGated s u && !exempt s u) then none
    else some (setPll { s with power := { s.power with pllOff := s.power.pllOff ++ [p.val] } } p.val 0)) s

/-- A unit runs again, and with a Hound its Pack's PLL. -/
def wakeUnit (s : State) (u : UnitId) : State :=
  let s := cnt { s with power := { s.power with
    gated := s.power.gated.filter (fun g => !decide (g = u)) } } 0x130054 1
  match u with
  | .hound h =>
    let p := h.val / 16
    if s.power.pllOff.contains p then
      setPll { s with power := { s.power with pllOff := s.power.pllOff.filter (· != p) } } p 1
    else s
  | .dge => dgeRun s
  | .shc => shcGoOn s
  | _ => s

/-- UNIT_WAKE (R23). -/
def execUnitWake (u : UnitId) (s : State) : Result :=
  attempt (fun s => if unitGated s u && pState s < 2 then some (wakeUnit s u) else none) s

/-! ### Clock limits (R492, R547) -/

/-- Tj,max of the grade, in °C (R3). -/
def tjMax : Int := if Config.gradeFe then 105 else 95

/-- PWR_CTRL.BOOST and HMAX, and PWR_HCLK0.MHZ, which is that of every Pack. -/
def boost (s : State) : Bool := bitAt (regVal s 0x130000) 0
def hclkMax (s : State) : Nat :=
  let m := regField s 0x130000 16 12
  if boost s then m else min m 2000
def hclk (s : State) : Nat := regField s 0x130010 0 12

/-- A step of HCLK, on every Pack at once. -/
def setHclk (s : State) (mhz : Nat) : State :=
  (List.range 8).foldl (fun s p => setRegField s (0x130010 + 4 * p) 0 12 mhz) s

/-- HCLK is lowered by a step. -/
def lowerHclk (s : State) : State :=
  setRegField (cnt (setHclk s (hclk s - 100)) 0x130058 1) 0x130004 4 1 1

/-- A value exceeds its limit, and every value is below 95 % of its limit. -/
def overLimit (mA mW : Nat) (temp16 : Int) : Bool :=
  300000 < mA || 380000 < mW || 16 * (tjMax - 5) < temp16
def wellBelow (mA mW : Nat) (temp16 : Int) : Bool :=
  100 * mA < 95 * 300000 && 100 * mW < 95 * 380000 && 100 * temp16 < 95 * 16 * (tjMax - 5)

/-- A check that finds a limit exceeded. -/
def limitOver (s : State) : State :=
  let n := s.power.overTicks + 1
  let down : State := { s with power := { s.power with overTicks := n, calmTicks := 0 },
                               pins := { s.pins with alertLow := true } }
  if 2 ≤ pState s then down
  else if 2000 < hclk s then
    lowerHclk { down with power := { down.power with overTicks := 0 } }
  else if n < 100 && hclk s = 2000 then down
  else
    let t := if n = 100 && hclk s = 2000 then raiseEvent (setRegField down 0x130004 3 1 1) 1 else down
    if 1600 < hclk s then lowerHclk t else t

/-- A check that finds no limit exceeded. -/
def limitCalm (s : State) (calm : Bool) : State :=
  let n := if calm then s.power.calmTicks + 1 else 0
  let s := { s with power := { s.power with overTicks := 0, calmTicks := n },
                    pins := { s.pins with alertLow := s.pins.alertLow && n < 100 } }
  let s :=
    if pState s < 2 && 0 < n && n % 100 = 0 && hclk s + 100 ≤ hclkMax s then setHclk s (hclk s + 100)
    else s
  if hclkMax s < hclk s + 100 then setRegField s 0x130004 4 1 0 else s

/-- POWER_LIMIT_CHECK (R492): every 250 ACLK; HCLK also comes down to what PWR_CTRL
allows. (DEDUCED, unsafe: log entry 48.) -/
def execPowerLimitCheck (mA mW : Nat) (temp16 : Int) (s : State) : Result :=
  attempt (fun s =>
    if pState s = 4 || !ready s then none
    else if overLimit mA mW temp16 then some (limitOver s)
    else
      let s := limitCalm s (wellBelow mA mW temp16)
      some (if pState s < 2 && hclkMax s < hclk s then setHclk s (hclk s - 100) else s)) s

/-! ### Rails (R458, R534, R536) -/

/-- The place of a rail's entry in the report, where there is one. -/
def railEntry (s : State) (rail : Nat) : Option Nat :=
  ((List.range 8).find? (fun i => le s.herder.env (64 + 16 * i) 1 == rail)).map (fun i => 64 + 16 * i)

/-- RAIL_OUT_OF_RANGE (R534): after boot, a rail alarm; under- or over-voltage is open.
Before that, the domains stay in reset. (DEDUCED, safe: log entry 50.) -/
def execRailOutOfRange (rail : Fin 7) (s : State) : Result :=
  attempt (fun s =>
    if pState s = 4 then none
    else if !ready s then some { s with pins := { s.pins with railsOk := false } }
    else
      (pick s [1, 2]).map (fun (a, s) =>
        let s := match railEntry s rail.val with
          | some o => envPut s (o + 10) (toLe 1 (le s.herder.env (o + 10) 1 ||| a))
          | none => s
        deviceError s 8 none)) s

/-- The alarms that a STATUS_WORD shows (PMBus 1.3). -/
def statusAlarms (w : Nat) : Nat :=
  b2n (bitAt w 15 && !bitAt w 5) + 2 * b2n (bitAt w 5) + 4 * b2n (bitAt w 4) + 8 * b2n (bitAt w 2)

/-- The report after the regulators' STATUS_WORDs have been read: none for one that
does not answer. -/
def envStatus (b : Bytes) (words : List (Option (BitVec 16))) : Bytes :=
  (List.range 8).foldl (fun b i =>
    let o := 64 + 16 * i
    if le b o 1 = 0xFF then b
    else
      match (words[i]?).getD none with
      | none => putAt b (o + 1) (zeros 1)
      | some w => putAt (putAt b (o + 1) (toLe 1 1)) (o + 10) (toLe 1 (statusAlarms w.toNat))) b

/-- PMB_ALERT (R536). -/
def execPmbAlert (words : List (Option (BitVec 16))) (s : State) : Result :=
  attempt (fun s => if ready s then some (noteEnv s (envStatus s.herder.env words)) else none) s

/-! ### The thermal trip (R546) -/

/-- Every PLL of the Packs stops. -/
def stopPlls (s : State) : State := (List.range 8).foldl (fun s p => setPll s p 0) s

/-- CAUSE of a trip while a fatal error stands: 7 where both fell in one microsecond, and
else that of the first (R504, R546). Which it was is open. -/
def tripCause (was : Bool) (s : State) : State :=
  if !was then s
  else
    match pick s [false, true] with
    | some (true, s) =>
      let (n, s) := takeFree s
      setRegField (setRegField s 0x130040 48 8 7) 0x130040 32 10 (n % 1024)
    | some (false, s) => s
    | none => s

/-- THERMAL_TRIP: a sensor reads `temp16` sixteenths of a degree. -/
def execThermalTrip (temp16 : Int) (s : State) : Result :=
  attempt (fun s =>
    if temp16 < 16 * (tjMax + 10) then none
    else
      let s := tripCause (fatal s) (fatalError (stopPlls s) 7 none)
      some { s with pins := { s.pins with thermtripLow := true, fatalLow := true } }) s

/-! ### The TAP (R542) -/

/-- The TAP instruction that takes effect. -/
def tapTaken (s : State) (ir : Nat) (released : Bool) : Nat :=
  let c := if ir = 0xFF then 0 else Config.tapCode ir
  if c = 1 || c = 2 then c
  else if 3 ≤ c && c ≤ 5 && s.pins.perst && !released then c
  else 0

/-- TAP_INSTRUCTION: `released` says that PERST# is released in the same TCK cycle.
IDCODE and BYPASS select a register that is shifted out. -/
def execTapInstruction (ir : BitVec 8) (released : Bool) (s : State) : Result :=
  let c := tapTaken s ir.toNat released
  let s := { s with pins := { s.pins with tapIr := c } }
  .next (if c = 1 then emit s (.tap 0x17740A6B) else if c = 0 then emit s (.tap 0) else s)

/-! ### Device errors -/

/-- GRID_LINK_RETRY_FAIL (R504). -/
def execGridLinkRetryFail (_die : Fin 4) (s : State) : Result := .next (deviceError s 4 none)

/-- KENNEL_DRAIN_OVERRUN (R503). -/
def execKennelDrainOverrun (k : Fin 256) (s : State) : Result :=
  attempt (fun s =>
    if (kennel? s k.val).any (fun x => x.state == 3) && drainCount s k.val ≠ 0 then
      some (deviceError s 9 none)
    else none) s

end Sys2Proof.Machine
end

