-- ==== Sys2Proof/Machine/Restart.lean ====
section
/-! DEFINITION. Meanings of the resets of the whole device (R496 to R501, R534, R535):
what each keeps and what it clears. Each ends before the device boots. -/

namespace Sys2Proof.Machine

open Sys2Proof

/-! ### What a reset keeps -/

/-- What MRAM keeps across every reset (R443, R500). -/
def mramOnly (h : HerderSt) : HerderSt :=
  { slotA := h.slotA, slotB := h.slotB, verified := h.verified, bootSlot := h.bootSlot,
    minSvn := h.minSvn, coldBoots := h.coldBoots, serials := h.serials, delayTable := h.delayTable,
    logBase := h.logBase, log := h.log }

/-- Registers of the always-on domain: EP_ but for the deterministic mode of the
kennels, and PWR_ (R500, R501, R513). -/
def alwaysOnReg (off : Nat) : Bool :=
  (0x30000 ≤ off && off < 0x31000) || (0x31800 ≤ off && off < 0x32000) ||
  (0x130000 ≤ off && off < 0x131000)

/-- Other registers that a warm reset keeps (R501). -/
def warmReg (off : Nat) : Bool :=
  [0x10F008, 0x10F00C, 0x10F010, 0xD0008, 0x110004].contains off ||
  (0x12010C ≤ off && off < 0x120200 && off % 0x40 == 0xC) ||
  (0x3F00000 ≤ off && off < 0x3F08000)

/-- The registers that `keep` names, and no other. -/
def keepRegs (s : State) (keep : Nat → Bool) : Tbl Nat := s.regs.filter (fun e => keep e.1)

/-- The timing unit runs on; the kennels' events and verdict messages are gone (R500). -/
def keepTiming (t : TimingSt) : TimingSt := { t with events := [], issued := [], txq := [], vseq := [] }

/-- The pins of the board and the TAP after a reset that takes PERST#; FATAL_N is
released. -/
def pinsReset (p : PinSt) : PinSt :=
  { chainHead := p.chainHead, perst := p.perst, railsOk := p.railsOk, thermtripLow := p.thermtripLow,
    alertLow := p.alertLow, tapIr := p.tapIr }

/-- What is the model's own stays: free values, what has been given out, the queue. -/
def ownParts (s : State) (t : State) : State :=
  { t with free := s.free, out := s.out, pending := s.pending }

/-! ### Cold reset (R499, R500) -/

/-- Everything but MRAM is cleared; CHAIN_HEAD has been sampled (R471). -/
def coldCleared (s : State) : State :=
  let t := { State.reset with herder := mramOnly s.herder, pins := pinsReset s.pins }
  setRegField (ownParts s t) 0x120000 0 1 (b2n s.pins.chainHead)

/-! ### Warm reset (R498, R500, R501) -/

/-- Every fill in flight installs, and the cache is written back. -/
def flushCache (s : State) : State :=
  let s := s.shc.misses.foldl (fun s (p, m) => if m.joined then s else shcFilled s p m) s
  shcWriteBack s 0 []

/-- The write queues are written to DRAM. -/
def flushQueues (s : State) : State :=
  (List.range 32).foldl (fun s q =>
    let s := wqIssue 64 q s
    (tget s.dram.held q []).foldl (fun s w => writeThrough s w.line w.mask w.data) s) s

/-- Table spaces of kennels that are gone have no owner (R501). -/
def orphanSpaces (t : TableStore) : TableStore :=
  { spaces := t.spaces.map (fun (n, x) =>
      (n, if x.owner = some 0 || x.owner.isNone then x else { x with owner := none })) }

/-- The state that a warm reset leaves, the cache written back. -/
def warmCleared (s : State) : State :=
  let f := flushQueues (flushCache s)
  let t := { State.reset with
    regs := keepRegs f (fun o => alwaysOnReg o || warmReg o),
    timing := keepTiming f.timing,
    herder := { mramOnly f.herder with warm := true, env := f.herder.env },
    store := orphanSpaces f.store,
    dram := { mem := f.dram.mem, poison := f.dram.poison, lost := f.dram.lost, delays := f.dram.delays },
    pins := f.pins }
  let t := setRegField (setRegField (ownParts f t) 0x130040 62 1 0) 0x130004 0 3 0
  setRegField t 0x120000 0 1 (b2n s.pins.chainHead)

/-- A warm reset; an uncorrectable tag error makes it a cold reset.
(DEDUCED, unsafe: log entry 53.) -/
def warmReset (s : State) (tagError : Bool) : State :=
  if tagError then coldCleared s else warmCleared s

/-! ### Warm boot from P4 (R496, R500) -/

/-- PERST# in P4: what lies outside the always-on domain and MRAM starts again. -/
def warmBoot (s : State) : State :=
  let t := { State.reset with
    regs := keepRegs s alwaysOnReg,
    timing := keepTiming s.timing,
    herder := { mramOnly s.herder with warm := true },
    pins := pinsReset s.pins }
  let t := setRegField (setRegField (ownParts s t) 0x130040 62 2 0) 0x130004 0 3 0
  setRegField t 0x120000 0 1 (b2n s.pins.chainHead)

/-! ### DEVICE_RESET (R497, R511) -/

/-- DEVICE_RESET is served: the reply comes before the reset. -/
def resetMsg : Handler := fun r s =>
  if 2 ≤ r.at 0 1 || !r.zero 1 7 then dmpNo s eHrdField
  else
    let s := dmpReply s r.mb 0 []
    (if r.at 0 1 = 0 then warmReset s r.tagError else coldCleared s, none)

/-- A DEVICE_RESET whose KIND is `kind`, or which is refused. -/
def deviceReset (kind : Nat) (r : HeldMsg) (s : State) : Option State :=
  if r.at 0 1 = kind || 2 ≤ r.at 0 1 then some (dmpTake resetMsg r s) else none

/-- WARM_RESET. (DESIGN CHOICE, unsafe: log entry 131.) -/
def execWarmReset (mb : Mb) (m : Msg) (tagError : Bool) (s : State) : Result :=
  attempt (deviceReset 0 { dmpMsg mb 0x0702 m with tagError }) s

/-- COLD_RESET. -/
def execColdReset (mb : Mb) (m : Msg) (s : State) : Result :=
  attempt (deviceReset 1 (dmpMsg mb 0x0702 m)) s

/-! ### PERST# and the rails (R496, R534, R535) -/

/-- PERST# is released: a TAP instruction that needs it low gives way (R542). -/
def releasePerst (s : State) : State :=
  { s with pins := { s.pins with
    perst := false, tapIr := if 3 ≤ s.pins.tapIr then 0 else s.pins.tapIr } }

/-- PERST#: asserted and, once every rail is in range, released, with CHAIN_HEAD at
`strap`. After a thermal trip only a power cycle helps (R506). -/
def execPerst (strap : Bool) (s : State) : Result :=
  attempt (fun s =>
    if s.pins.thermtripLow then none
    else if pState s = 4 && !fatal s then
      let s := warmBoot s
      some (if s.pins.railsOk then releasePerst s else { s with pins := { s.pins with perst := true } })
    else
      let s := coldCleared { s with pins := { s.pins with chainHead := strap } }
      some (if s.pins.railsOk then releasePerst s else { s with pins := { s.pins with perst := true } })) s

/-- POWER_ON: every rail is in range, and PERST# is released. A device whose always-on
domain has slept in P4 goes on to a warm boot. -/
def execPowerOn (strap : Bool) (s : State) : Result :=
  attempt (fun s =>
    if s.pins.railsOk || s.pins.thermtripLow then none
    else
      let s := { s with pins := { s.pins with railsOk := true } }
      if s.herder.warm then some (releasePerst s)
      else
        let s := setRegField { s with pins := { s.pins with chainHead := strap } } 0x120000 0 1 (b2n strap)
        some (releasePerst s)) s

/-- POWER_DOWN: the board holds PERST# low and removes the supply rails; with `aon`,
VDD_AON and VDD_IO too. In P4 the always-on domain alone keeps what a warm boot
needs. -/
def execPowerDown (aon : Bool) (s : State) : Result :=
  let warm := (pState s == 4 || (!s.pins.railsOk && s.herder.warm)) && !aon && !fatal s
  let t := if warm then warmBoot s else coldCleared s
  .next { t with pins := { t.pins with
    railsOk := false, perst := true, linkUp := false, thermtripLow := t.pins.thermtripLow && !aon } }

end Sys2Proof.Machine
end

