-- ==== Sys2Proof/Machine/PowerMsgs.lean ====
section
/-! DEFINITION. The power messages but the exit (R490 to R495, R511): the checks of
PWR_ENTER, entry to each state, and PWR_STATUS. -/

namespace Sys2Proof.Machine

open Sys2Proof

def ePwrBusy : Nat := 0x1101

/-! ### The checks of PWR_ENTER (R493) -/

/-- A refusal: its status, REASON, and the kennels of which one is named; none for the
device. -/
abbrev PwrFault := Nat × Nat × List Nat

/-- Kennels that keep a condition, in rising order. -/
def kennelsThat (s : State) (f : Nat → Kennel → Bool) : List Nat :=
  (s.kennels.filter (fun e => f e.1 e.2)).map (·.1)

/-- Check 4. -/
def pwrWarm (s : State) : List Nat := kennelsThat s (fun _ x => keepWarm x && !x.plans.isEmpty)

/-- Check 5. -/
def pwrQueues (s : State) : List Nat :=
  kennelsThat s (fun _ x => !x.ovf.isEmpty || !x.stalled.isEmpty ||
    x.wqs.any (fun (_, q) => !q.inflight.isEmpty || q.pi != q.ci))

/-- Check 6. -/
def pwrEpoch (s : State) : List Nat :=
  kennelsThat s (fun k _ => s.jobs.any (fun (_, b) =>
    b.kennel == k && (jobPlan s b).any (fun p => p.mode == 1)))

/-- Check 8, for kennels, and for the device. -/
def pwrResets (s : State) : List Nat :=
  kennelsThat s (fun k x => x.state == 3 || s.store.creating.any (fun e => mbKennel e.1 == k))
def pwrRetunes (s : State) : Bool := s.dram.pause.isSome

/-- The transition is allowed (check 3). -/
def pwrAllowed (cur target : Nat) : Bool := if target = 0 then 1 ≤ cur else cur < target

/-- The first check that fails. -/
def pwrFault (s : State) (r : HeldMsg) : Option PwrFault :=
  let t := r.at 0 1
  if 4 < t || !r.zero 1 7 then some (eHrdField, 0, [])
  else if devErr s then some (ePwrDeverr, 0, [])
  else if !pwrAllowed (pState s) t then some (ePwrState, 0, [])
  else if 1 ≤ t && !(pwrWarm s).isEmpty then some (ePwrBusy, 1, pwrWarm s)
  else if 2 ≤ t && !(pwrQueues s).isEmpty then some (ePwrBusy, 2, pwrQueues s)
  else if 2 ≤ t && !(pwrEpoch s).isEmpty then some (ePwrBusy, 3, pwrEpoch s)
  else if 2 ≤ t && s.selfTest.running then some (ePwrBusy, 4, [])
  else if !(pwrResets s).isEmpty then some (ePwrBusy, 5, pwrResets s)
  else if pwrRetunes s then some (ePwrBusy, 5, [])
  else none

/-- The reply to a refusal; which of several kennels it names is open. -/
def pwrRefuse (s : State) (f : PwrFault) : State × Option (Nat × Bytes) :=
  let (k, s) := (pick s f.2.2).getD (0xFF, s)
  (s, some (f.1, toLe 1 f.2.1 ++ toLe 1 k ++ zeros 6))

/-- The reply to a request that is met; its REASON and KENNEL are open.
(DEDUCED, safe: log entry 55.) -/
def pwrDone (s : State) : State × Option (Nat × Bytes) :=
  let (n, s) := takeFree s
  (s, some (0, toLe 2 n ++ zeros 6))

/-! ### Entry (R494) -/

/-- PWR_STATUS.STATE. -/
def setPState (s : State) (n : Nat) : State := setRegField s 0x130004 0 3 n

/-- The units that are idle. -/
def allUnits : List UnitId :=
  (List.range 128).map (fun i => .hound (Fin.ofNat 128 i)) ++
  (List.range 32).map (fun i => .fe (Fin.ofNat 32 i)) ++
  (List.range 8).map (fun i => .she (Fin.ofNat 8 i)) ++
  (List.range 4).map (fun i => .srt (Fin.ofNat 4 i)) ++
  (List.range 8).map (fun i => .agg (Fin.ofNat 8 i)) ++
  (List.range 4).map (fun i => .cze (Fin.ofNat 4 i)) ++
  [.dge] ++ (List.range 16).map (fun i => .mv (Fin.ofNat 16 i)) ++ [.shc]

/-- P1: every idle unit is gated at once. -/
def enterP1 (s : State) : State :=
  let s := setPState s 1
  allUnits.foldl (fun s u => if mayGate s u then gateUnit s u else s) s

/-- Flow control goes out on every port that is up, and the links drop. -/
def dropIngest (s : State) : State :=
  (List.range 16).foldl (fun s i =>
    let g := i / 4
    let p := i % 4
    if !(ingPort s g p).up then s
    else
      let s := if flowUsed s g then
          (List.range (if ingPause s g = 2 && ingMode s g != 4 then 8 else 1)).foldl (fun s c =>
            sendFlow s g p c true) s else s
      ethEnv (modPort s g p portDown) g p false) s

/-- Steps 1 to 3 and 5 of P2 and P3; fetching stays stopped, and the pins are held low
(R491). -/
def enterSleep (s : State) : State :=
  let s := (List.range 4).foldl linkDown (dropIngest s)
  let s := flushCache (setRegField s 0xD0000 0 1 0)
  let s := setRegField (setRegField s 0xD0004 0 1 0) 0xD0004 1 1 1
  let s := emit (stopPlls s) .pinsLow
  { s with power := { s.power with fetchStopped := true },
           timing := { s.timing with pulses := [], starts := [] } }

/-- DRAM enters self-refresh. -/
def selfRefresh (s : State) : State :=
  let s := flushQueues s
  let s := { s with dram := { s.dram with wqs := [], held := [] } }
  (List.range 16).foldl (fun s c => setRegField s (0x100000 + 0x800 * c) 1 1 1)
    (setRegField s 0x10F004 4 1 1)

/-- The contents of eighths that DDR_PASR.KEEP does not retain are lost (R350). -/
def loseEighths (s : State) : State :=
  let lost := s.dram.lost ||| ~~~(BitVec.ofNat 8 (regVal s 0x10F010))
  let gone := fun (line : Nat) => lost.getLsbD (eighthOf s line)
  { s with dram := { s.dram with
    mem := s.dram.mem.filter (fun c => !gone (c.1 / 64)),
    poison := s.dram.poison.filter (fun l => !gone l), lost } }

/-- P4: DRAM is powered down, every table space is deleted, and the PCIe link goes
down. -/
def powerOff (s : State) : State :=
  let s := { s with
    dram := {}, store := {},
    herder := { s.herder with warm := true },
    pins := { s.pins with linkUp := false, alertLow := false } }
  (List.range 16).foldl (fun s c => setRegField s (0x100000 + 0x800 * c) 0 2 0) (setReg s 0x10F004 0)

/-- The reply of P2 to P4. -/
def enterDeep (t : Nat) (s : State) : State :=
  let s := if pState s < 2 then enterSleep s else s
  let s := if t = 2 then selfRefresh s else loseEighths (selfRefresh s)
  setPState s t

/-- PWR_ENTER to P1 to P4 is served. (DEDUCED, safe: log entry 57.) -/
def sleepMsg : Handler := fun r s =>
  match pwrFault s r with
  | some f => pwrRefuse s f
  | none =>
    let t := r.at 0 1
    if t = 1 then pwrDone (enterP1 s)
    else if t ≤ 3 then pwrDone (enterDeep t s)
    else
      let (s, r') := pwrDone (enterDeep t s)
      match r' with
      | some (st, body) => (powerOff (dmpReply s r.mb st body), none)
      | none => (s, none)

/-- A PWR_ENTER that names `t`, or that is refused for its field. -/
def enterState (t : Nat) (mb : Mb) (m : Msg) (s : State) : Option State :=
  let r := dmpMsg mb 0x0700 m
  if r.at 0 1 = t || 4 < r.at 0 1 then some (dmpTake sleepMsg r s) else none

/-- PWR_ENTER_P1. -/
def execPwrEnterP1 (mb : Mb) (m : Msg) (s : State) : Result := attempt (enterState 1 mb m) s

/-- PWR_ENTER_P2. -/
def execPwrEnterP2 (mb : Mb) (m : Msg) (s : State) : Result := attempt (enterState 2 mb m) s

/-- PWR_ENTER_P3. -/
def execPwrEnterP3 (mb : Mb) (m : Msg) (s : State) : Result := attempt (enterState 3 mb m) s

/-- PWR_ENTER_P4. (DEDUCED, unsafe: log entry 54.) -/
def execPwrEnterP4 (mb : Mb) (m : Msg) (s : State) : Result := attempt (enterState 4 mb m) s

/-! ### PWR_STATUS (R511) -/

/-- PWR_STATUS is served. -/
def powerMsg : Handler := fun _ s =>
  dmpYes s (toLe 4 (regVal s 0x130004) ++ zeros 4 ++ toLe 8 (regVal s 0x130040))

/-- PWR_STATUS. -/
def execPwrStatus (mb : Mb) (m : Msg) (s : State) : Result :=
  .next (dmpTake powerMsg (dmpMsg mb 0x0701 m) s)

/-! ### Exit (R494) -/

/-- Table spaces with a granule in a lost eighth are LOST (R422). -/
def markLost (s : State) : State :=
  { s with store := { s.store with spaces := s.store.spaces.map (fun (n, t) =>
    (n, { t with lost := t.lost || t.granules.any (fun g => lineLost s (32768 * g)) })) } }

/-- The device is awake again: from P3 the zeroing starts. (DEDUCED, safe: log entry 56.) -/
def wake (s : State) : State :=
  let from3 := pState s == 3
  let deep := 2 ≤ pState s
  let s := setPState s 0
  if !deep then s
  else
    let s := (List.range 8).foldl (fun s p => setPll s p 1) s
    let s := { s with power := { s.power with pllOff := [], fetchStopped := false } }
    let s := (List.range 16).foldl (fun s c => setRegField s (0x100000 + 0x800 * c) 1 1 0)
      (setRegField s 0x10F004 4 1 0)
    let s := shcGoOn (shcOn s)
    serveDoors (if from3 then setRegField (markLost s) 0x10F004 5 1 1 else s)

/-- PWR_ENTER is served. -/
def enterMsg : Handler := fun r s =>
  if r.at 0 1 ≠ 0 then sleepMsg r s
  else
    match pwrFault s r with
    | some f => pwrRefuse s f
    | none => pwrDone (wake s)

end Sys2Proof.Machine
end

