-- ==== Sys2Proof/Machine/QueueMsgs.lean ====
section
/-! DEFINITION. Meanings of the messages that create, destroy and reset queues, and of
the ends of their resets (R366 to R368, R389 to R393, R561). -/

namespace Sys2Proof.Machine

open Sys2Proof

def eQField : Nat := 0x0110
def eQExists : Nat := 0x0111
def eQVector : Nat := 0x0112
def eQBusy : Nat := 0x0113

/-! ### Creation and destruction -/

/-- Fields of a WQ descriptor (R366). -/
def wqFieldsOk (b : Bytes) : Bool :=
  le b 0 8 % 4096 == 0 && le b 8 8 % 16 == 0 && 6 ≤ le b 16 1 && le b 16 1 ≤ 16 &&
  le b 17 1 < 16 && le b 18 1 < 16 && zeroes b 19 13

/-- Fields of a CQ descriptor (R367). -/
def cqFieldsOk (b : Bytes) : Bool :=
  le b 0 8 % 4096 == 0 && le b 8 8 % 16 == 0 && 6 ≤ le b 16 1 && le b 16 1 ≤ 16 &&
  le b 17 1 < 16 && 1 ≤ le b 18 1 && le b 19 1 < 4 && le b 22 2 < 2048 && zeroes b 24 8

/-- WQ_CREATE is served (R368, R561). -/
def createWq : Handler := fun r s =>
  let b := r.msg.body
  let k := r.kennel
  let w := le b 17 1
  if !wqFieldsOk b then dmpNo s eQField
  else if (wq? s k w).isSome || (cq? s k (le b 18 1)).isNone then dmpNo s eQExists
  else
    let q : Wq := { ring := le b 0 8, shadow := le b 8 8, log2 := le b 16 1, cq := le b 18 1 }
    let s := modKennel s k (fun x => { x with wqs := tset x.wqs w q })
    dmpYes (hostWrite s k (q.shadow + 8) (toLe 4 0)) []

/-- WQ_CREATE. -/
def execWqCreate (mb : Mb) (m : Msg) (s : State) : Result :=
  .next (dmpTake createWq (dmpMsg mb 0x0200 m) s)

/-- WQ_DESTROY is served (R368, R561). -/
def destroyWq : Handler := fun r s =>
  let k := r.kennel
  let w := r.at 0 1
  if 16 ≤ w || !r.zero 1 7 then dmpNo s eQField
  else
    match wq? s k w with
    | none => dmpNo s eQExists
    | some q =>
      if !q.inflight.isEmpty || q.reset.isSome then dmpNo s eQBusy
      else
        let s := modKennel s k (fun x => { x with wqs := tdel x.wqs w })
        dmpYes { s with slots := { s.slots with
          jobWait := s.slots.jobWait.filter (fun g => !(g.kennel == k && g.a == w)),
          jobGrant := s.slots.jobGrant.filter (fun g => !(g.kennel == k && g.a == w)) } } []

/-- WQ_DESTROY. -/
def execWqDestroy (mb : Mb) (m : Msg) (s : State) : Result :=
  .next (dmpTake destroyWq (dmpMsg mb 0x0201 m) s)

/-- CQ_CREATE is served (R368, R561). -/
def createCq : Handler := fun r s =>
  let b := r.msg.body
  let k := r.kennel
  let c := le b 17 1
  if !cqFieldsOk b then dmpNo s eQField
  else if (cq? s k c).isSome then dmpNo s eQExists
  else if !vecGranted s k (le b 22 2) then dmpNo s eQVector
  else
    let q : Cq := { ring := le b 0 8, shadow := le b 8 8, log2 := le b 16 1, modCount := le b 18 1,
                    irq := bitAt (le b 19 1) 1, wake := bitAt (le b 19 1) 0, modTime := le b 20 2,
                    vector := le b 22 2 }
    let s := modKennel s k (fun x => { x with cqs := tset x.cqs c q })
    dmpYes (hostWrite s k q.shadow (toLe 4 0)) []

/-- CQ_CREATE. -/
def execCqCreate (mb : Mb) (m : Msg) (s : State) : Result :=
  .next (dmpTake createCq (dmpMsg mb 0x0202 m) s)

/-- CQ_DESTROY is served (R368, R561). -/
def destroyCq : Handler := fun r s =>
  let k := r.kennel
  let c := r.at 0 1
  if 16 ≤ c || !r.zero 1 7 then dmpNo s eQField
  else
    match kennel? s k, cq? s k c with
    | some x, some _ =>
      if x.wqs.any (fun e => e.2.cq == c) || cqBacklog x c then dmpNo s eQBusy
      else dmpYes (modKennel s k (fun x => { x with cqs := tdel x.cqs c })) []
    | _, _ => dmpNo s eQExists

/-- CQ_DESTROY. -/
def execCqDestroy (mb : Mb) (m : Msg) (s : State) : Result :=
  .next (dmpTake destroyCq (dmpMsg mb 0x0203 m) s)

/-! ### Resets -/

/-- QUEUE_RESET is served (R389): a WQ that does not exist is passed over (DEDUCED, unsafe: log entry 91). -/
def resetQueues : Handler := fun r s =>
  let k := r.kennel
  let mask := r.at 0 2
  if !r.zero 2 6 then dmpNo s eHrdField
  else
    let named := (List.range 16).filter (fun w => bitAt mask w && (wq? s k w).isSome)
    if named.isEmpty then dmpYes s (queueResetBody [])
    else
      let s := resetWqs s k named
      (modKennel s k (fun x => { x with qreplies := x.qreplies ++ [{ mailbox := r.mb, left := named }] }), none)

/-- QUEUE_RESET. -/
def execQueueReset (mb : Mb) (m : Msg) (s : State) : Result :=
  .next (dmpTake resetQueues (dmpMsg mb 0x0204 m) s)

/-- QUEUE_RESET_COMPLETE (R391). -/
def execQueueResetComplete (q : QueueRef) (s : State) : Result :=
  attempt (fun s => finishReset s q.k.val q.w.val) s

/-- CQ_RESET (R392): the reset completions of the CQ's WQs have been written. -/
def execCqReset (c : CqRef) (s : State) : Result :=
  attempt (fun s =>
    let k := c.k.val
    match kennel? s k, cq? s k c.c.val with
    | some x, some q =>
      let bound := x.wqs.filter (fun e => e.2.cq == c.c.val)
      if !q.resetting || bound.any (fun e => e.2.reset.isSome) || cqBacklog x c.c.val ||
          !hostFor s k then none
      else
        let s := modCq s k c.c.val (fun q => { q with tail := 0, ci := 0, resetting := false })
        some (hostWrite s k q.shadow (toLe 4 0))
    | _, _ => none) s

end Sys2Proof.Machine
end

