-- ==== Sys2Proof/Machine/SelfTest.lean ====
section
/-! DEFINITION. Meanings of the DRAM self-test's commands (R433 to R436, R440, R451). -/

namespace Sys2Proof.Machine

open Sys2Proof

def eTsTestBusy : Nat := 0x0E13

def modTest (s : State) (f : SelfTestSt → SelfTestSt) : State := { s with selfTest := f s.selfTest }

/-- Units of 16 lines that the test covers on a channel (R433, R434). -/
def testUnits (s : State) (extended : Bool) : Nat :=
  if extended then channelLines s / 16 else 16 * min 65536 (channelLines s / 256)

/-- The first of a unit's lines, counted within the channel: a SHORT test covers the
first 64 MiB of each sixteenth. -/
def unitFirst (s : State) (extended : Bool) (u : Nat) : Nat :=
  if extended then 16 * u
  else
    let per := min 65536 (channelLines s / 256)
    u / per * (channelLines s / 16) + 16 * (u % per)

/-- DDR_TEST_PROG from the units tested. -/
def noteProgress (s : State) : State :=
  let total := 16 * testUnits s s.selfTest.extended / 1024
  let done := sumOf s.selfTest.units (·.2) / 1024
  setReg s 0x10F028 (total * 2 ^ 32 + done)

/-- The test ends (R433). -/
def endTest (s : State) : State :=
  let s := modTest s (fun t => { t with running := false, stopping := false })
  let st := setField (setField (regVal s 0x10F020) 0 1 0) 16 16 0
  setReg s 0x10F020 (setField st 2 1 1)

/-- The channel is suspended (R435). -/
def testHeld (s : State) (c : Nat) : Bool := bitAt (regVal s 0x10F020) (16 + c)

/-- The channel has tested every unit. -/
def channelTested (s : State) (c : Nat) : Bool :=
  testUnits s s.selfTest.extended ≤ tget s.selfTest.units c 0

/-- No channel has a unit under test. -/
def testIdle (s : State) : Bool := (List.range 16).all (fun c => testHeld s c || channelTested s c)

/-- TS_SELFTEST is served. -/
def startTest : Handler := fun r s =>
  if 2 ≤ r.at 0 1 || !r.zero 1 7 then dmpNo s eHrdField
  else if s.selfTest.running then dmpNo s eTsTestBusy
  else
    let ext := r.at 0 1 == 1
    let s := { s with selfTest := { running := true, extended := ext } }
    let st := setField (setField (regVal s 0x10F020) 0 2 (1 + 2 * b2n ext)) 16 16 0
    dmpYes (noteProgress (setReg (setReg s 0x10F020 st) 0x10F030 0)) []

/-- TS_SELFTEST. -/
def execTsSelftest (mb : Mb) (m : Msg) (s : State) : Result :=
  .next (dmpTake startTest (dmpMsg mb 0x0503 m) s)

/-- TS_SELFTEST_STOP is served: the test ends at its next unit boundary. -/
def stopTest : Handler := fun _ s =>
  if !s.selfTest.running then dmpYes s []
  else if testIdle s then dmpYes (endTest s) []
  else dmpYes (modTest s (fun t => { t with stopping := true })) []

/-- TS_SELFTEST_STOP. -/
def execTsSelftestStop (mb : Mb) (m : Msg) (s : State) : Result :=
  .next (dmpTake stopTest (dmpMsg mb 0x0504 m) s)

/-- The response of TS_SELFTEST_STATUS. -/
def testReport (s : State) : Bytes :=
  toLe 8 (regVal s 0x10F028) ++ toLe 4 (regVal s 0x10F020) ++ zeros 4 ++
  (List.range 16).flatMap (fun c =>
    toLe 4 (tget s.selfTest.errs c 0) ++ zeros 4 ++
    toLe 8 (match tfind? s.selfTest.fails c with
      | some a => a
      | none => ones64))

/-- TS_SELFTEST_STATUS is served. -/
def showTest : Handler := fun _ s => dmpYes s (testReport s)

/-- TS_SELFTEST_STATUS. -/
def execTsSelftestStatus (mb : Mb) (m : Msg) (s : State) : Result :=
  .next (dmpTake showTest (dmpMsg mb 0x0505 m) s)

/-- A march mismatch at a line (R436). -/
def testMismatch (s : State) (c line : Nat) : State :=
  let s := setRegField (cnt s 0x10F040 1) 0x10F020 3 1 1
  let s := modTest s (fun t => { t with
    errs := tset t.errs c (min 0xFFFFFFFF (tget t.errs c 0 + 1)),
    fails := if (tfind? t.fails c).isSome then t.fails else tset t.fails c (64 * line) })
  let s := if bitAt (regVal s 0x10F038) 63 then s
    else setReg s 0x10F038 (2 ^ 63 + c * 2 ^ 56 + 64 * line)
  raiseEvent s (32 + c)

/-- The places of a unit's lines at which the march meets no poisoned line: it reads and
writes around those (R434). -/
def soundPlaces (s : State) (line : Fin 16 → Nat) (l : List (Fin 16)) : List (Fin 16) :=
  l.filter (fun i => !linePoison s (line i))

/-- SELFTEST_UNIT (R434, R436): the channel's next unit; `bad` has the places of the lines at
which the march mismatched, one for each mismatch in its order, and `ueAfter` those of the lines
whose write-back then reads uncorrectable. (DEDUCED, safe: log entry 26.) -/
def execSelftestUnit (ch : Fin 16) (unit : Nat) (bad ueAfter : List (Fin 16)) (aclk : Nat)
    (s : State) : Result :=
  attempt (fun s =>
    let t := s.selfTest
    let c := ch.val
    if !t.running || testHeld s c || channelTested s c || tget t.units c 0 ≠ unit ||
        !bitAt (gstatus s) 2 || bitAt (gstatus s) 4 then none
    else
      let line := fun (i : Fin 16) => channelLine c (unitFirst s t.extended unit + i.val)
      let bad := soundPlaces s line bad
      let lost := if bad.isEmpty then [] else soundPlaces s line ueAfter
      let s := setReg s 0x10F030 ((regVal s 0x10F030 + aclk) % 2 ^ 32)
      let s := bad.foldl (fun s i => testMismatch s c (line i)) s
      let s := lost.foldl (fun s i => dramUe s (line i) 2 0) s
      let s := noteProgress (modTest s (fun t => { t with units := tset t.units c (unit + 1) }))
      some (if t.stopping || (List.range 16).all (channelTested s) then endTest s else s)) s

/-- SELFTEST_SUSPEND (R435). -/
def execSelftestSuspend (ch : Fin 16) (s : State) : Result :=
  attempt (fun s =>
    if !s.selfTest.running || testHeld s ch.val || channelTested s ch.val then none
    else
      let s := setRegField s 0x10F020 (16 + ch.val) 1 1
      some (if s.selfTest.stopping && testIdle s then endTest s else s)) s

/-- SELFTEST_RESUME (R435). -/
def execSelftestResume (ch : Fin 16) (s : State) : Result :=
  attempt (fun s =>
    if s.selfTest.running && testHeld s ch.val then some (setRegField s 0x10F020 (16 + ch.val) 1 0)
    else none) s

end Sys2Proof.Machine
end

