-- ==== Sys2Proof/Machine/TableStore.lean ====
section
/-! DEFINITION. Meanings of the table store's transfers and of the messages that create,
delete and report table spaces (R417 to R432). -/

namespace Sys2Proof.Machine

open Sys2Proof

/-! ### Transfers -/

/-- TS_ISSUE (R429, R430): commands issue in acceptance order, but for those that a
conflict holds back. -/
def execTsIssue (order : Nat) (s : State) : Result :=
  attempt (fun s =>
    match tsCmd? s order with
    | none => none
    | some c =>
      if !tsIssuable s c || s.store.cmds.any (fun d => d.order < order && tsIssuable s d) then none
      else some (modTs s order (fun c => { c with
        issued := true, pieces := tsPieces (c.len / 4096 + 2) c.off c.len }))) s

/-- TS_PIECE_COMPLETE (R425, R426, R430). (DESIGN CHOICE, safe: log entry 113.) -/
def execTsPieceComplete (order off : Nat) (host : HostRead) (s : State) : Result :=
  attempt (fun s => (tsCmd? s order).bind (fun c => tsPiece s c off host)) s

/-! ### Spaces -/

/-- TS_CREATE is served (R419). -/
def createSpace : Handler := fun r s =>
  let k := r.kennel
  let g := r.at 0 4
  let mask := r.at 4 1
  match kennel? s k with
  | none => dmpNo s eTsLimit
  | some x =>
    if g = 0 || 524288 < g || !r.zero 5 3 then dmpNo s eTsField
    else if 4096 ≤ s.store.spaces.length + s.store.creating.length || 256 ≤ spacesOf s k then
      dmpNo s eTsLimit
    else
      let free := granulesFree s mask
      match (List.range 4096).find? (fun n => !spaceTaken s n) with
      | none => dmpNo s eTsLimit
      | some n =>
        if granuleLimit x.share < kennelGranules s k + g || free.length < g then dmpNo s eTsNospace
        else
          let (gs, s) := chooseGranules g free s
          let body : TSpace := { owner := some k, former := k, pasid := x.pasid, eighths := mask,
                                 granules := gs }
          ({ s with store := { s.store with
              creating := tset s.store.creating r.mb { space := n, body } } }, none)

/-- TS_CREATE. -/
def execTsCreate (mb : Mb) (m : Msg) (s : State) : Result :=
  .next (dmpTake createSpace (dmpMsg mb 0x0500 m) s)

/-- TS_ZERO_DONE (R419): the granules of a create have been zeroed. -/
def execTsZeroDone (k : Fin 256) (s : State) : Result :=
  attempt (fun s =>
    match s.store.creating.find? (fun e => mbKennel e.1 == k.val) with
    | none => none
    | some (mb, c) =>
      if c.body.granules.any (fun g => lineLost s (g * 32768)) then none
      else
        let s := zeroGranules s c.body.granules
        let s := { s with store := { s.store with
          creating := tdel s.store.creating mb, spaces := tset s.store.spaces c.space c.body } }
        some (dmpReply s mb 0 (toLe 2 c.space))) s

/-- The table space that a TS_DELETE or TS_INFO reaches: its kennel's own, and on MB0 an
orphaned one (R420, R501). -/
def reachedSpace (s : State) (r : HeldMsg) (n : Nat) : Option TSpace :=
  match space? s n with
  | none => none
  | some t =>
    if t.owner = some r.kennel || (t.owner.isNone && r.mb == mb0) then some t else none

/-- TS_DELETE is served (R420). -/
def deleteSpace : Handler := fun r s =>
  let n := r.at 0 2
  if !r.zero 2 6 then dmpNo s eHrdField
  else
    match reachedSpace s r n with
    | none => dmpNo s eTsSpace
    | some _ => if spaceBusy s r.kennel n then dmpNo s eTsBusy else dmpYes (dropSpace s n) []

/-- TS_DELETE. -/
def execTsDelete (mb : Mb) (m : Msg) (s : State) : Result :=
  .next (dmpTake deleteSpace (dmpMsg mb 0x0501 m) s)

/-- TS_INFO is served (R422, R451). -/
def infoSpace : Handler := fun r s =>
  if !r.zero 2 6 then dmpNo s eHrdField
  else
    match reachedSpace s r (r.at 0 2) with
    | none => dmpNo s eTsSpace
    | some t => dmpYes s (toLe 4 t.granules.length ++ toLe 1 t.eighths ++ toLe 1 (b2n t.lost))

/-- TS_INFO. -/
def execTsInfo (mb : Mb) (m : Msg) (s : State) : Result :=
  .next (dmpTake infoSpace (dmpMsg mb 0x0502 m) s)

end Sys2Proof.Machine
end

