-- ==== Sys2Proof/Machine/Boot.lean ====
section
/-! DEFINITION. Boot, the ends of a firmware activation, and the exit from sleep: what
makes the Herder serve the requests that it holds (R447, R456, R494, R495). -/

namespace Sys2Proof.Machine

open Sys2Proof

/-! ### Requests that were held -/

/-- What serves a message. -/
def dmpHandler (opc : Nat) : Handler :=
  match opc with
  | 0x0001 => helloMsg
  | 0x0002 => versionMsg
  | 0x0003 => environmentMsg
  | 0x0004 => logMsg
  | 0x0005 => mlogMsg
  | 0x0006 => identityMsg
  | 0x0007 => attestMsg
  | 0x0100 => createKennel
  | 0x0101 => destroyKennel
  | 0x0102 => changeShare
  | 0x0103 => startReset
  | 0x0104 => showShare
  | 0x0200 => createWq
  | 0x0201 => destroyWq
  | 0x0202 => createCq
  | 0x0203 => destroyCq
  | 0x0204 => resetQueues
  | 0x0300 => loadPlan
  | 0x0301 => unloadPlan
  | 0x0302 => showPlan
  | 0x0400 => quarantineMsg
  | 0x0401 => verdictMsg
  | 0x0402 => deterministicMsg
  | 0x0500 => createSpace
  | 0x0501 => deleteSpace
  | 0x0502 => infoSpace
  | 0x0503 => startTest
  | 0x0504 => stopTest
  | 0x0505 => showTest
  | 0x0600 => retuneMsg
  | 0x0700 => enterMsg
  | 0x0701 => powerMsg
  | 0x0702 => resetMsg
  | 0x0800 => chainStatusMsg
  | 0x0801 => chainWalkMsg
  | 0x0802 => setHeadMsg
  | 0x0803 => linkResetMsg
  | 0x0804 => vfanMsg
  | 0x0900 => fwWriteMsg
  | 0x0901 => fwVerifyMsg
  | 0x0902 => fwActivateMsg
  | 0x0903 => fwSetBootMsg
  | _ => fun _ s => dmpNo s eHrdOpcode

/-- The next held request is served, in round-robin order (R450). -/
def serveNext (s : State) : Option State :=
  if dmpDead s then none
  else
    (s.herder.mbArb.pick (arbAge s) (mbTurns s)).bind (fun t =>
      (s.herder.held.find? (fun r => mbTurn r.mb == t)).map (fun r =>
        dmpRun (dmpHandler r.opcode) r { s with herder := { s.herder with held := s.herder.held.erase r } }))

/-- The Herder serves what it holds and may serve. -/
def serveHeld : Nat → State → State
  | 0, s => s
  | n + 1, s =>
    match serveNext s with
    | some s => serveHeld n s
    | none => s

/-- Every held request that may be served. -/
def dmpServe (s : State) : State := serveHeld s.herder.held.length s

/-! ### Exit from sleep (R494) -/

/-- PWR_EXIT: PWR_ENTER with target 0; what has waited is then served. -/
def execPwrExit (mb : Mb) (m : Msg) (s : State) : Result :=
  attempt (fun s =>
    let r := dmpMsg mb 0x0700 m
    if r.at 0 1 = 0 || 4 < r.at 0 1 then some (dmpServe (dmpTake enterMsg r s)) else none) s

/-! ### Boot (R447) -/

/-- The image that starts: its slot, 2 for recovery; or the ERR of a boot that halts. The
first failure is recorded. -/
def bootChoice (s : State) (env : BootEnv) : Option (Nat × Bytes) × Nat :=
  let n := s.herder.bootSlot
  match fwFault s 0 (slotStore s n) with
  | none => (some (n, slotStore s n), 0)
  | some e =>
    if env.recovery.isEmpty then (none, 7)
    else if (fwFault s 1 env.recovery).isSome then (none, e)
    else (some (2, env.recovery), e)

/-- The entry of a DIMM in the environment report, and its GiB (R458). -/
def dimmEntry (i : Nat) : Nat := 192 + 32 * i
def dimmGib (b : Bytes) (i : Nat) : Nat := le b (dimmEntry i + 4) 2

/-- The DIMMs that are there, and how many a channel has. -/
def dimms (b : Bytes) : List Nat := (List.range 32).filter (fun i => le b (dimmEntry i) 1 != 0)
def channelDimms (b : Bytes) (c : Nat) : Nat := (dimms b).countP (fun i => i / 2 == c)

/-- Every channel has the same number of DIMMs, of the same capacity, rank count, device
width and density (R339). -/
def sameDimms (b : Bytes) : Bool :=
  let n := channelDimms b 0
  1 ≤ n && (List.range 16).all (fun c => channelDimms b c == n) &&
  (dimms b).all (fun i => (dimms b).all (fun j =>
    slice b (dimmEntry i + 1) 5 == slice b (dimmEntry j + 1) 5))

/-- The device supports the DIMM (R338). -/
def dimmSupported (b : Bytes) (i : Nat) : Bool :=
  let e := dimmEntry i
  [16, 32, 64, 128].contains (dimmGib b i) && [1, 2].contains (le b (e + 1) 1) &&
  [4, 8].contains (le b (e + 2) 1) && [16, 32].contains (le b (e + 3) 1)

/-- The highest data rate that the population allows and every SPD rates (R338, KL-01). -/
def dataRate (b : Bytes) : Option Nat :=
  (if channelDimms b 0 = 2 then [6400, 5600, 4800] else [8800, 8000, 7200, 6400, 5600, 4800]).find?
    (fun r => (dimms b).all (fun i => r ≤ le b (dimmEntry i + 6) 2))

/-- The data rate at which DRAM is used; none where it is not: the DIMMs differ (R339), or
the device does not support them (R338; DESIGN CHOICE, unsafe: log entry 105). -/
def dramRate (b : Bytes) : Option Nat :=
  if sameDimms b && (dimms b).all (dimmSupported b) then dataRate b else none

/-- DDR_GCFG of a population (R340, R362). -/
def dramConfig (b : Bytes) (rate : Nat) : Nat :=
  let i := (dimms b).headD 0
  let e := dimmEntry i
  let n := channelDimms b 0
  rate * 2 ^ 16 + (34 + Nat.log2 (dimmGib b i * n)) * 2 ^ 8 + b2n (le b (e + 3) 1 == 32) * 16 +
  b2n (le b (e + 2) 1 == 8) * 8 + (le b (e + 1) 1 - 1) * 4 + (n - 1) * 2

/-- The SPD serial numbers (R344). -/
def dimmSerials (b : Bytes) : List Nat := (List.range 32).map (fun i => le b (dimmEntry i + 8) 4)

/-- DRAM is trained for the DIMMs of a report: the delays are those stored, or what a sweep
finds (R338, R339, R344). -/
def bootDram (s : State) (b : Bytes) (sweep : List (Nat × Nat)) : State :=
  match dramRate b with
  | none => setReg s 0x10F004 8
  | some rate =>
    let s := setReg s 0x10F000 (dramConfig b rate)
    let keep := s.herder.warm && s.herder.serials == dimmSerials b
    let swept := sweep.foldl (fun t (k, v) => tset t k v) []
    let s := if keep then { s with dram := { s.dram with delays := s.herder.delayTable, retuned := [] } }
      else { s with dram := { s.dram with delays := swept, retuned := [] },
                    herder := { s.herder with serials := dimmSerials b, delayTable := swept } }
    let s := (List.range 16).foldl (fun s c => setReg s (0x100000 + 0x800 * c) 1) (setReg s 0x10F004 4)
    if s.dram.lost = 0 then s else setRegField (markLost s) 0x10F004 5 1 1

/-- Every HCLK PLL runs at the base frequency. -/
def bootClocks (s : State) : State :=
  (List.range 8).foldl (fun s p => setPll s p 1) (setHclk s 2000)

/-- The grade's minimum junction temperature, in °C (R3), and the coldest of the die sensors
of a report, in sixteenths (R458). -/
def tjMin : Int := if Config.gradeFe then -20 else 0
def coldest (b : Bytes) : Int :=
  (List.range 5).foldl (fun m i => min m (signed 16 (le b (16 + 2 * i) 2))) (signed 16 (le b 16 2))

/-- The firmware that has started reaches READY; in a cold boot it holds STAGE at 1 until
the coldest sensor reads at or above the minimum (R545). -/
def bootFirmware (s : State) (env : BootEnv) : State :=
  let b := slice env.report 0 1600
  let b := if s.herder.env.isEmpty then b else keepSpd s.herder.env b
  if !s.herder.warm && coldest b < 16 * tjMin then
    let s := setRegField s 0x110000 8 4 1
    { s with herder := { s.herder with cold := true } }
  else
    let s := bootClocks (bootDram { s with herder := { s.herder with cold := false } } b env.delays)
    let s := firmwareReady (bringK0 s)
    noteEnv { s with herder := { s.herder with warm := false } } (envForm s b)

/-- The ROM starts, and brings up the PCIe link. (DEDUCED, unsafe: log entry 58.) -/
def bootRom (s : State) (env : BootEnv) : State :=
  let s := { s with pins := { s.pins with linkUp := true } }
  let (img, err) := bootChoice s env
  let s := setRegField s 0x110000 16 8 err
  match img with
  | none =>
    { setRegField s 0x110000 8 4 15 with pins := { s.pins with fatalLow := true } }
  | some (slot, img) =>
    let n := if s.herder.warm then s.herder.coldBoots else s.herder.coldBoots + 1
    bootFirmware (startImage { s with herder := { s.herder with coldBoots := n } } slot img env.runtime) env

/-- The device can start to boot: powered, out of reset, and not running. -/
def bootable (s : State) : Bool :=
  !ready s && !halted s && s.pins.railsOk && !s.pins.perst && !s.pins.thermtripLow && !fatal s &&
  pState s != 4 && s.herder.act.isNone

/-! ### Activation (R456) -/

/-- Fetching goes on, and what has waited is served. -/
def activationOver (s : State) (status : Nat) : State :=
  let s := { s with herder := { s.herder with act := none },
                    power := { s.power with fetchStopped := devErr s || 2 ≤ pState s } }
  dmpServe (serveDoors (dmpReply s mb0 status []))

/-- Drain is complete. -/
def drained (s : State) : Bool :=
  s.jobs.isEmpty && s.store.creating.isEmpty &&
  s.kennels.all (fun (_, x) => x.state != 3 && x.qreplies.isEmpty && x.resetReply.isNone &&
    x.wqs.all (fun (_, q) => q.inflight.isEmpty && q.reset.isNone))

/-- BOOT: the boot of the device, its next look at the temperature (R545), or new firmware
that reaches READY in an activation. -/
def execBoot (env : BootEnv) (s : State) : Result :=
  attempt (fun s =>
    match s.herder.act with
    | some a =>
      if a.restarted && s.herder.slot = a.slot && !fatal s then
        some (activationOver (firmwareReady s) 0)
      else none
    | none =>
      if !bootable s then none
      else if s.herder.cold then some (dmpServe (bootFirmware s env))
      else some (dmpServe (bootRom s env))) s

/-- FW_ACTIVATE_DRAIN_DONE: the Herder restarts; the slot, if it passes, is the boot
slot, with `runtime` for the Hounds. -/
def execFwActivateDrainDone (runtime : Bytes) (s : State) : Result :=
  attempt (fun s =>
    match s.herder.act with
    | none => none
    | some a =>
      if a.restarted || !drained s || fatal s then none
      else
        let s := { s with herder := { s.herder with act := some { a with restarted := true } } }
        let s := setRegField (setRegField s 0x110000 0 1 0) 0x110000 8 4 0
        match fwFault s 0 (slotStore s a.slot) with
        | some e => some (setRegField s 0x110000 16 8 e)
        | none =>
          let s := { s with herder := { s.herder with bootSlot := a.slot } }
          some (setRegField (startImage s a.slot (slotStore s a.slot) runtime) 0x110000 8 4 1)) s

/-- FW_ACTIVATE_TIMEOUT: the wait expires with FORCE = 0. -/
def execFwActivateTimeout (s : State) : Result :=
  attempt (fun s =>
    match s.herder.act with
    | none => none
    | some a =>
      if a.restarted || a.force || drained s || fatal s then none
      else some (activationOver s eActBusy)) s

/-- The image that ran before starts again. -/
def startPrevious (s : State) (a : Activation) : State :=
  let s := { s with herder := { s.herder with bootSlot := a.boot } }
  if a.previous < 2 then startImage s a.previous (slotStore s a.previous) a.runtime
  else
    let (n, s) := takeFree s
    let s := startImage s 2 (toLe 64 (Config.freeBytes n 64)) a.runtime
    { s with herder := { s.herder with header := a.header } }

/-- FW_READY_TIMEOUT: the ROM restarts from the previous slot, which answers. -/
def execFwReadyTimeout (s : State) : Result :=
  attempt (fun s =>
    match s.herder.act with
    | none => none
    | some a =>
      if !a.restarted || ready s || fatal s then none
      else some (activationOver (firmwareReady (startPrevious s a)) eFwActivateFail)) s

end Sys2Proof.Machine
end

