-- ==== Sys2Proof/Machine/Digest.lean ====
section
/-! DEFINITION. Meanings of the digest engine's own events: grants to waiting INITs,
blocks, and the tiles of DGE vertices (R323, R325, R334). -/

namespace Sys2Proof.Machine

open Sys2Proof

/-- DGE_INIT_GRANT (R323): a waiting DGE_INIT gets a context. -/
def execDgeInitGrant (s : State) : Result :=
  attempt (fun s => (dgeNextInit s).map (fun (k, c) =>
    dgeRun (modDge (dgeOpen s c) (fun d => { d with initArb := d.initArb.won (dgeInitKennels s) k })))) s

/-- DGE_BLOCK (R325): a pipe processes one block of the next ready context. Every pipe
does so alike. -/
def execDgeBlock (_pipe : Fin 8) (s : State) : Result :=
  attempt (fun s =>
    match s.dge.pipeArb.pick (arbAge s) (pipeReady s) with
    | none => none
    | some i => (tfind? s.dge.ctxs i).map (fun c =>
        dgeBlockDone (modDge s (fun d => { d with pipeArb := d.pipeArb.won (pipeReady s) i })) i c)) s

/-- The bytes of a tile that are hashed (R333, R334). -/
def digestInput (cfg : Bytes) (t : PTile) (raw : Bytes) : Except Nat Bytes :=
  if dvRaw cfg then
    match byteStrip (dvCol cfg) 2 t with
    | .ok b => .ok b
    | .error _ => .error eDgeColumn
  else .ok (raw.take (tileTotal raw))

/-- The key slot of the vertex holds its algorithm's key (R335). -/
def digestKeyed (s : State) (x : Vx) : Bool :=
  let alg := dvAlg x.vert.cfg
  !dgeKeyed alg ||
  (match tfind? s.dge.slots (dvSlot x.vert.cfg) with
   | some t => t.kennel == x.job.kennel && t.alg == alg
   | none => false)

/-- A context takes the bytes of a tile; an input slot is free once they are hashed. -/
def digestTake (s : State) (x : Vx) (i : Nat) (c : DgeCtx) (seq : Nat) (data : Bytes)
    (final : Bool) : State :=
  let y := { ctxTake c (ctxSlot s c) data final with tile := some (x.j, seq) }
  let s := cntVertex (cntW 64 s 0xC0010 data.length) x.job.kennel x.job.plan x.vid 0 data.length
  let s := setCtx s i y
  if ctxReady y then s else releaseOldest s x.j x.vid

/-- Skip marks that a DGE vertex sends at once. -/
def digestSkip (s : State) (x : Vx) (q : Nat) : State :=
  modVert s x.j x.vid (fun v => { v with outq := v.outq ++ skipOuts x q })

/-- A tile of a vertex of JOB scope: the tile held before it becomes a skip mark. It waits
while the vertex's one context holds the message of another job (R334). -/
def digestJobTile (s : State) (x : Vx) (seq : Nat) (data : Bytes) : Option State :=
  match vertexCtx s x 0 with
  | none => none
  | some (i, c) =>
    if ctxReady c || c.tile.any (fun t => t.1 != x.j) then none
    else
      let held := dgeOf x.st
      let s := setEng (popIn s x 0) x (.dge [{ seq, digest := none }])
      let s := digestTake s x i c seq data false
      some (match held.head? with
        | some h => digestSkip s x h.seq
        | none => s)

/-- The end of a vertex of JOB scope: the message ends. -/
def digestJobEnd (s : State) (x : Vx) : Option State :=
  match vertexCtx s x 0, (dgeOf x.st).head? with
  | some (i, c), some h =>
    if ctxReady c || c.finishing || h.digest.isSome then none
    else some (setCtx s i (ctxTake c (ctxSlot s c) [] true))
  | _, _ => none

/-- DGE_VERTEX_TILE (R334, R335): in TILE scope a skip mark goes out behind the digests
of the tiles before it. -/
def execDgeVertexTile (v : VertexRef) (s : State) : Result :=
  attempt (fun s =>
    match liveVx s v with
    | none => none
    | some x =>
      let cfg := x.vert.cfg
      if x.vert.kind ≠ kDge ∨ !x.st.outq.isEmpty then none
      else
        match inHead x 0 with
        | some (.skip q) =>
          if dvJob cfg || (dgeOf x.st).isEmpty then some (digestSkip (popIn s x 0) x q) else none
        | some (.tile _ b) =>
          (match readTile s x b with
           | .error e => some (failVx (popIn s x 0) x e)
           | .ok t =>
             match digestInput cfg t b with
             | .error e => some (failVx (popIn s x 0) x e)
             | .ok data =>
               let s := noteDicts s x t
               if !digestKeyed s x then some (failVx (popIn s x 0) x eDgeNokey)
               else if dvJob cfg then digestJobTile s x t.seq data
               else
                 match idleCtx s x with
                 | none => none
                 | some (i, c) =>
                   let s := setEng (popIn s x 0) x (.dge (dgeOf x.st ++ [{ seq := t.seq, digest := none }]))
                   some (digestTake s x i c t.seq data true))
        | some .endMark => if dvJob cfg then digestJobEnd s x else none
        | _ => none) s

end Sys2Proof.Machine
end

