-- ==== Sys2Proof/Machine/Facet.lean ====
section
/-! DEFINITION. Meanings of the Facet engines' commands (R149 to R166). -/

namespace Sys2Proof.Machine

open Sys2Proof

/-- Adds to the counters of a Facet engine, and of the vertex (R168, R452). -/
def cntFacet (s : State) (x : Vx) (ns : List Nat) : State :=
  cntBoth s (0x60010 + 0x800 * x.vert.inst) x.job.kennel x.job.plan x.vid ns

/-- What the ports publish at once, and what GATE ports hold back: a skip mark waits
behind the tiles that its port holds. -/
def facetSplit (seq : Nat) (gate : List GateTile) (outs : List (Nat × FOut)) :
    List (Nat × OItem) × List GateTile :=
  outs.foldl (fun (now, held) (p, o) =>
    match o with
    | .tile b => (now ++ [(p, .tile b)], held)
    | .skip =>
      if gate.any (·.port == p) then (now, held ++ [{ port := p, item := .skip (skipSeq seq) }])
      else (now ++ [(p, .skip (skipSeq seq))], held)
    | .held b => (now, held ++ [{ port := p, item := .tile b }])) ([], [])

/-- The rows of a GATE tile reach the timing unit (R165). -/
def gateExpect (s : State) (k : Nat) (t : PTile) : State :=
  match sysValues t 0xFF01, sysValues t 0xFF02, sysValues t 0xFF03 with
  | .ok es, .ok ns, .ok os => ((es.zip ns).zip os).foldl (fun s q =>
      expectEvent s k q.1.1 q.1.2 q.2) s
  | _, _, _ => s

/-- A Facet engine has worked a tile. -/
def facetDone (s : State) (x : Vx) (fe : Fin 32) (t : PTile) (r : FacetResult) : State :=
  let cfg := x.vert.cfg
  let st := facetOf x.st
  let (now, held) := facetSplit t.seq st.gate r.outs
  let tiles := (held.filter (fun g => gateHolds g.port g)).length
  let skips := r.outs.countP (fun o => match o.2 with | .skip => true | _ => false)
  let s := cntFacet (noteDicts s x t) x
    [1, t.rows, countPasses 0 0 (facetPreds cfg), r.dictPass, r.fallback,
     if facetTev cfg then t.rows else 0, skips, tiles]
  let s := setEng s x (.facet { pre := r.pre, gate := st.gate ++ held })
  let s := modPlan s x.job.kennel x.job.plan (fun p => { p with
    bitmaps := tset p.bitmaps x.vid r.bitmaps })
  let s := if tiles = 0 then s else gateExpect s x.job.kennel t
  engineFree (putOut s x now) (.fe fe)

/-- FACET_TILE (R149 to R165). -/
def execFacetTile (fe : Fin 32) (s : State) : Result :=
  attempt (fun s =>
    match servedIdle s (.fe fe) with
    | none => none
    | some x =>
      if x.vert.kind ≠ kFacet ∨ gateFull x then none
      else
        let st := facetOf x.st
        match headSkip x 0, headTile x 0 with
        | some q, _ =>
          let outs := (List.range x.vert.nout).map (fun p => (p, FOut.skip))
          let (now, held) := facetSplit q st.gate outs
          let s := setEng (popIn s x 0) x (.facet { st with gate := st.gate ++ held })
          some (engineFree (putOut s x now) (.fe fe))
        | none, some b =>
          let s' := popIn s x 0
          match readTile s x b with
          | .error e => some (finishFail s' x (.fe fe) e)
          | .ok t =>
            match facetRun x.vert.cfg x.vert.body (planConst x.plan) x.vert.nout
                (inDet s x.job.kennel) st.pre (tget x.plan.bitmaps x.vid []) x.j t with
            | .error e => some (finishFail s' x (.fe fe) e)
            | .ok r => some (facetDone s' x fe t r)
        | none, none => none) s

/-- The verdict of each row of a held tile: accepted and late; `none` while one is
still to come. -/
def gateVerdicts (s : State) (k : Nat) (t : PTile) : Option (List (Bool × Bool)) :=
  match sysValues t 0xFF01, sysValues t 0xFF02 with
  | .ok es, .ok ns => (es.zip ns).mapM (fun q =>
      (evIssued s k q.1 q.2).map (fun i => (i.accept, i.late)))
  | _, _ => none

/-- Skip marks that no held tile of the port stands before any more. -/
def gateSkips (port : Nat) : List GateTile → List (Nat × OItem) × List GateTile
  | [] => ([], [])
  | g :: r =>
    if g.port ≠ port then let (a, b) := gateSkips port r; (a, g :: b)
    else
      match g.item with
      | .skip q => let (a, b) := gateSkips port r; ((port, .skip q) :: a, b)
      | .tile _ => ([], g :: r)

/-- GATE_RELEASE (R165): the oldest tile of a port, once every verdict of it stands. -/
def execGateRelease (v : VertexRef) (port : Fin 8) (s : State) : Result :=
  attempt (fun s =>
    match vx? s v with
    | none => none
    | some x =>
      if !vxLive x || x.vert.kind ≠ kFacet then none
      else
        let st := facetOf x.st
        match st.gate.find? (gateHolds port.val) with
        | some { port := _, item := .tile b } =>
          match readTile s x b with
          | .error e => some (failVx s x e)
          | .ok t =>
            match gateVerdicts s x.job.kennel t with
            | none => none
            | some vs =>
              match gateEmit t (fun i => (vs[i]?).getD (false, false)) with
              | .error e => some (failVx s x e)
              | .ok o =>
                let item : OItem := match o with
                  | .tile b => .tile b
                  | _ => .skip (skipSeq t.seq)
                let (skips, rest) := gateSkips port.val (eraseFirst (gateHolds port.val) st.gate)
                let s := setEng s x (.facet { st with gate := rest })
                some (modVert s x.j x.vid (fun w => { w with
                  outq := w.outq ++ ((port.val, item) :: skips) }))
        | _ => none) s

end Sys2Proof.Machine
end

