-- ==== Sys2Proof/Machine/HoundVec.lean ====
section
/-! DEFINITION. The Hound's vector instructions on the registers (R240 to R268):
operand checks, element functions, reductions, permutes and conversions. -/

namespace Sys2Proof.Machine

open Sys2Proof

/-! ### Elements and groups (R240, R242) -/

/-- The element width of an EW field, in bits. -/
def ewBits (ew : Nat) : Nat := 8 * 2 ^ ew

/-- The elements of `k` registers from `v` on. -/
def vElems (r : HoundRegs) (v k w : Nat) : List Nat :=
  (List.range k).flatMap (fun j => unpackNat (512 / w) w (r.rv (v + j)).toNat)

/-- Element `e` of the group at `v`. -/
def vElem (r : HoundRegs) (v w e : Nat) : Nat :=
  let n := 512 / w
  ((r.rv (v + e / n)).toNat >>> (w * (e % n))) % 2 ^ w

/-- Writes registers from `v` on, one for each chunk of elements. -/
def vPut (r : HoundRegs) (v w : Nat) (elems : List Nat) : HoundRegs :=
  let n := 512 / w
  (List.range (elems.length / n)).foldl (fun r j =>
    let x := BitVec.ofNat 512 (packNat w ((elems.drop (j * n)).take n))
    { r with v := r.v.set (v + j) x }) r

/-- The bit of element `e` in the mask group at `m`, of `n` elements a register. -/
def mBit (r : HoundRegs) (m n e : Nat) : Bool := (r.rm (m + e / n)).getLsbD (e % n)

/-- Element `e` is active (R244). -/
def active (r : HoundRegs) (f : VFields) (n e : Nat) : Bool := !f.men || mBit r f.msk.val n e

/-- Writes mask registers from `m` on, `n` elements each, bits above them 0. -/
def mPut (r : HoundRegs) (m n : Nat) (bits : List Bool) : HoundRegs :=
  (List.range (bits.length / n)).foldl (fun r j =>
    let x := BitVec.ofNat 64 (packNat 1 (((bits.drop (j * n)).take n).map b2n))
    { r with m := r.m.set (m + j) x }) r

/-! ### Operand checks (R242, R243) -/

/-- A vector group fits. -/
def vFits (v k : Nat) : Bool := v + k ≤ 32

/-- A mask group fits. -/
def mFits (m k : Nat) : Bool := m + k ≤ 8

/-- Two groups do not meet. -/
def apart (a ka b kb : Nat) : Bool := a + ka ≤ b || b + kb ≤ a

/-- A destination group and a source group of one size: equal or disjoint. -/
def sameOrApart (a b k : Nat) : Bool := a == b || apart a k b k

/-- The mask operand of an instruction fits. -/
def maskOk (f : VFields) (k : Nat) : Bool := !f.men || mFits f.msk.val k

/-- What a vector instruction does: the registers, how many passes it performed
and whether an active element was clamped. -/
structure VDone where
  regs : HoundRegs
  passes : Nat := 0
  sat : Bool := false
  /-- Strided, gather and scatter elements accessed (R269). -/
  elems : Nat := 0
  deriving DecidableEq, Repr

/-- The end of a vector instruction: DONE becomes 0 and SAT gathers (R247, R250). -/
def vEnd (r : HoundRegs) (passes : Nat) (sat : Bool) : VDone :=
  { regs := (r.orSat sat).setVdone 0, passes, sat }

/-- Element-wise to a vector group (R244, R245, R250): `g e` is element `e` and
whether it was clamped. Passes below DONE are skipped. -/
def vWise (r : HoundRegs) (f : VFields) (w : Nat) (g : Nat → Nat × Bool) : VDone :=
  let k := r.vk
  let n := 512 / w
  let d := min r.vdone k
  let todo := fun e => d ≤ e / n && active r f n e
  let all := List.range (k * n)
  let elems := all.map (fun e => if todo e then (g e).1 % 2 ^ w else vElem r f.vd.val w e)
  vEnd (vPut r f.vd.val w elems) (k - d) (all.any (fun e => todo e && (g e).2))

/-- Element-wise to a mask group (R244, R258): the registers of skipped passes stay. -/
def mWise (r : HoundRegs) (f : VFields) (md w : Nat) (c : Nat → Bool) : VDone :=
  let k := r.vk
  let n := 512 / w
  let d := min r.vdone k
  let bits := (List.range (k * n)).map (fun e =>
    if e / n < d then mBit r md n e else active r f n e && c e)
  vEnd (mPut r (md + d) n (bits.drop (d * n))) (k - d) false

/-- Operands of the element-wise two-source form: none where one is illegal. -/
def vTwo (r : HoundRegs) (f : VFields) (two : Bool) : Bool :=
  let k := r.vk
  vFits f.vd.val k && vFits f.vs1.val k && sameOrApart f.vd.val f.vs1.val k && maskOk f k &&
  (!two || (vFits f.vs2.val k && sameOrApart f.vd.val f.vs2.val k))

/-! ### VALU (R253) -/

/-- The element functions of VALU on `w`-bit patterns. -/
def valu (fn w a b : Nat) : Nat :=
  let sa := signed w a
  let sb := signed w b
  match fn with
  | 0x00 => a + b
  | 0x01 => a + 2 ^ w - b
  | 0x02 => a &&& b
  | 0x03 => a ||| b
  | 0x04 => a ^^^ b
  | 0x05 => a &&& (2 ^ w - 1 - b)
  | 0x06 => a <<< (b % w)
  | 0x07 => a >>> (b % w)
  | 0x08 => pattern w (sa / 2 ^ (b % w))
  | 0x09 => if sa ≤ sb then a else b
  | 0x0A => if sb ≤ sa then a else b
  | 0x0B => min a b
  | 0x0C => max a b
  | 0x0D => a * b
  | 0x0E => pattern w (sa * sb / 2 ^ w)
  | 0x0F => a * b / 2 ^ w
  | _ => b + 2 ^ w - a

/-- A VALU instruction; `scal` takes the second operand from X[VS2]. -/
def vAlu (fn : Nat) (scal : Bool) (f : VFields) (r : HoundRegs) : Option VDone :=
  let w := ewBits f.ew.val
  if !vTwo r f (!scal) then none
  else
    let b := fun e => if scal then (r.rx f.vs2.val).toNat % 2 ^ w else vElem r f.vs2.val w e
    some (vWise r f w (fun e => (valu fn w (vElem r f.vs1.val w e) (b e), false)))

/-! ### VSAT and VQ (R254 to R257) -/

/-- A value clamped to the signed range, and whether it was clamped. -/
def clampS (w : Nat) (y : Int) : Nat × Bool := (pattern w (satS w y), satS w y != y)

/-- A value clamped to the unsigned range. -/
def clampU (w : Nat) (y : Int) : Nat × Bool := (pattern w (satU w y), satU w y != y)

/-- The element functions of VSAT (R256). -/
def vsatElem (fn rm w a b : Nat) : Nat × Bool :=
  let sa := signed w a
  let sb := signed w b
  match fn with
  | 0 => clampS w (sa + sb)
  | 1 => clampS w (sa - sb)
  | 2 => clampU w ((a : Int) + b)
  | 3 => clampU w ((a : Int) - b)
  | 4 => clampS w (rnd rm (sa + sb) 1)
  | 5 => clampS w sa.natAbs
  | 6 => clampS w (-sa)
  | _ => clampS w (sa * 2 ^ (min b w))

/-- A VSAT instruction. -/
def vSat (fn rm : Nat) (f : VFields) (r : HoundRegs) : Option VDone :=
  let w := ewBits f.ew.val
  let two := fn != 5 && fn != 6
  if f.ew.val = 3 || (rm != 0 && fn != 4) || (!two && f.vs2.val != 0) || !vTwo r f two then none
  else some (vWise r f w (fun e =>
    vsatElem fn rm w (vElem r f.vs1.val w e) (if two then vElem r f.vs2.val w e else 0)))

/-- VQMUL (R257). -/
def vQmul (rm sh : Nat) (f : VFields) (r : HoundRegs) : Option VDone :=
  let w := ewBits f.ew.val
  if f.ew.val = 3 || !vTwo r f true then none
  else some (vWise r f w (fun e =>
    clampS w (rnd rm (signed w (vElem r f.vs1.val w e) * signed w (vElem r f.vs2.val w e)) sh)))

/-- VQSHR (R257). -/
def vQshr (rm sh : Nat) (f : VFields) (r : HoundRegs) : Option VDone :=
  let w := ewBits f.ew.val
  if f.ew.val = 3 || f.vs2.val != 0 || !vTwo r f false then none
  else some (vWise r f w (fun e => clampS w (rnd rm (signed w (vElem r f.vs1.val w e)) sh)))

/-- VQNRW (R243, R257). -/
def vQnrw (rm sh : Nat) (f : VFields) (r : HoundRegs) : Option VDone :=
  let w := ewBits f.ew.val
  let k := r.vk
  if f.ew.val = 3 || f.vs2.val != 0 || !vFits f.vd.val k || !vFits f.vs1.val (2 * k) ||
    !apart f.vd.val k f.vs1.val (2 * k) || !maskOk f k then none
  else some (vWise r f w (fun e =>
    clampS w (rnd rm (signed (2 * w) (vElem r f.vs1.val (2 * w) e)) sh)))

/-! ### Compares (R258, R267) -/

/-- The conditions of VCMP. -/
def vcmpBit (fn w a b : Nat) : Bool :=
  let sa := signed w a
  let sb := signed w b
  match fn with
  | 0 => a == b
  | 1 => a != b
  | 2 => sa < sb
  | 3 => sb ≤ sa
  | 4 => a < b
  | 5 => b ≤ a
  | 6 => sb < sa
  | _ => sa ≤ sb

/-- A compare to a mask in the VC format: bit 25 is SCAL, bit 24 is 0, MD below. -/
def vCompare (c : Nat → Nat → Nat → Bool) (f : VFields) (r : HoundRegs) : Option VDone :=
  let w := ewBits f.ew.val
  let k := r.vk
  let scal := 16 ≤ f.vd.val
  let md := f.vd.val % 8
  if bitAt f.vd.val 3 || !mFits md k || !vFits f.vs1.val k || (!scal && !vFits f.vs2.val k) ||
    !maskOk f k || (f.men && !sameOrApart md f.msk.val k) then none
  else
    let b := fun e => if scal then (r.rx f.vs2.val).toNat % 2 ^ w else vElem r f.vs2.val w e
    some (mWise r f md w (fun e => c w (vElem r f.vs1.val w e) (b e)))

/-- VCMP. -/
def vCmp (fn : Nat) (f : VFields) (r : HoundRegs) : Option VDone :=
  if 7 < fn then none else vCompare (vcmpBit fn) f r

/-- FEQ, FLT and FLE. -/
def vFcmp (c : Nat → Nat → Nat → Bool) (f : VFields) (r : HoundRegs) : Option VDone :=
  if f.ew.val < 2 then none else vCompare c f r

/-! ### VMISC (R259) -/

/-- MSK is 0 where no mask is used. -/
def noMask (f : VFields) : Bool := f.men || f.msk.val == 0

def vMove (f : VFields) (r : HoundRegs) : Option VDone :=
  let w := ewBits f.ew.val
  if f.vs2.val != 0 || !noMask f || !vTwo r f false then none
  else some (vWise r f w (fun e => (vElem r f.vs1.val w e, false)))

def vMerge (f : VFields) (r : HoundRegs) : Option VDone :=
  let w := ewBits f.ew.val
  if !f.men || !vTwo r f true then none
  else some (vWise r { f with men := false } w (fun e =>
    (if mBit r f.msk.val (512 / w) e then vElem r f.vs1.val w e else vElem r f.vs2.val w e, false)))

def vBcast (f : VFields) (r : HoundRegs) : Option VDone :=
  let w := ewBits f.ew.val
  if f.vs2.val != 0 || !noMask f || !vFits f.vd.val r.vk || !maskOk f r.vk then none
  else some (vWise r f w (fun _ => ((r.rx f.vs1.val).toNat, false)))

def vIndex (f : VFields) (r : HoundRegs) : Option VDone :=
  let w := ewBits f.ew.val
  if f.vs1.val != 0 || f.vs2.val != 0 || !noMask f || !vFits f.vd.val r.vk || !maskOk f r.vk then
    none
  else some (vWise r f w (fun e => (e, false)))

/-- VEXT; not element-wise, so DONE is only cleared. -/
def vExt (f : VFields) (r : HoundRegs) : Option VDone :=
  let w := ewBits f.ew.val
  let n := r.vk * (512 / w)
  let i := (r.rx f.vs2.val).toNat
  if f.men || !noMask f || !vFits f.vs1.val r.vk then none
  else
    let v := if i < n then BitVec.ofNat 64 (sext64 w (vElem r f.vs1.val w i)) else 0
    some (vEnd (r.wx f.vd.val v) 1 false)

/-- VINS. -/
def vIns (f : VFields) (r : HoundRegs) : Option VDone :=
  let w := ewBits f.ew.val
  let n := r.vk * (512 / w)
  let i := (r.rx f.vs2.val).toNat
  if f.men || !noMask f || !vFits f.vd.val r.vk then none
  else if i < n then
    let elems := (vElems r f.vd.val r.vk w).set i ((r.rx f.vs1.val).toNat % 2 ^ w)
    some (vEnd (vPut r f.vd.val w elems) 1 false)
  else some (vEnd r 1 false)

/-! ### VMASK (R260) -/

/-- The fields of the VM format that must be 0. -/
def vmZero (f : VFields) : Bool := !f.men && f.msk.val == 0 && f.ew.val == 0

/-- A mask instruction that combines two mask registers into a third. -/
def mLogic (two : Bool) (g : BitVec 64 → BitVec 64 → BitVec 64) (f : VFields) (r : HoundRegs) :
    Option VDone :=
  if !vmZero f || 7 < f.vd.val || 7 < f.vs1.val || 7 < f.vs2.val || (!two && f.vs2.val != 0) then
    none
  else some (vEnd { r with m := r.m.set f.vd.val (g (r.rm f.vs1.val) (r.rm f.vs2.val)) } 1 false)

/-- A mask instruction that writes an X register. -/
def mToX (g : BitVec 64 → BitVec 64) (f : VFields) (r : HoundRegs) : Option VDone :=
  if !vmZero f || 7 < f.vs1.val then none
  else some (vEnd (r.wx f.vd.val (g (r.rm f.vs1.val))) 1 false)

/-- MFROMX. -/
def mFromX (f : VFields) (r : HoundRegs) : Option VDone :=
  if !vmZero f || 7 < f.vd.val then none
  else some (vEnd { r with m := r.m.set f.vd.val (r.rx f.vs1.val) } 1 false)

/-! ### Reductions (R265) -/

/-- The result of a reduction over the active elements, and whether it clamped. -/
def vReduce (fn w : Nat) (xs : List Nat) : Nat × Bool :=
  let ints := xs.map (signed w)
  let lo : Int := -(2 ^ (w - 1))
  let hi : Int := 2 ^ (w - 1) - 1
  match fn with
  | 0 => (pattern 64 (ints.foldl (· + ·) 0), false)
  | 1 => (xs.foldl (· + ·) 0 % 2 ^ 64, false)
  | 2 => clampS 64 (ints.foldl (· + ·) 0)
  | 3 => (pattern 64 (ints.foldl min hi), false)
  | 4 => (pattern 64 (ints.foldl max lo), false)
  | 5 => (xs.foldl min (2 ^ w - 1), false)
  | _ => (xs.foldl max 0, false)

/-- A VRED instruction. -/
def vRed (fn : Nat) (f : VFields) (r : HoundRegs) : Option VDone :=
  let w := ewBits f.ew.val
  let n := 512 / w
  let k := r.vk
  if f.vs2.val != 0 || !vFits f.vs1.val k || !maskOk f k then none
  else
    let es := (List.range (k * n)).filter (active r f n)
    let (v, sat) := vReduce fn w (es.map (vElem r f.vs1.val w))
    some (vEnd (r.wx f.vd.val (BitVec.ofNat 64 v)) k sat)

/-! ### Permutes (R266) -/

/-- A VPERM-group instruction that gives element `e` as `g e`, or keeps it. -/
def vPermute (f : VFields) (r : HoundRegs) (g : Nat → Nat → Option Nat) : VDone :=
  let w := ewBits f.ew.val
  let n := 512 / w
  let count := r.vk * n
  let elems := (List.range count).map (fun e =>
    if active r f n e then (g count e).getD (vElem r f.vd.val w e) else vElem r f.vd.val w e)
  vEnd (vPut r f.vd.val w elems) r.vk false

/-- The operands of a permute: the destination meets no vector source (R243). -/
def permOk (f : VFields) (r : HoundRegs) (two : Bool) : Bool :=
  let k := r.vk
  vFits f.vd.val k && vFits f.vs1.val k && apart f.vd.val k f.vs1.val k && maskOk f k &&
  (!two || (vFits f.vs2.val k && apart f.vd.val k f.vs2.val k))

def vSlideDown (f : VFields) (r : HoundRegs) : Option VDone :=
  let w := ewBits f.ew.val
  let n := (r.rx f.vs2.val).toNat
  if !permOk f r false then none
  else some (vPermute f r (fun count e =>
    some (if e + n < count then vElem r f.vs1.val w (e + n) else 0)))

def vSlideUp (f : VFields) (r : HoundRegs) : Option VDone :=
  let w := ewBits f.ew.val
  let n := (r.rx f.vs2.val).toNat
  if !permOk f r false then none
  else some (vPermute f r (fun _ e =>
    if n ≤ e then some (vElem r f.vs1.val w (e - n)) else none))

def vPerm (f : VFields) (r : HoundRegs) : Option VDone :=
  let w := ewBits f.ew.val
  if !permOk f r true then none
  else some (vPermute f r (fun count e =>
    let i := vElem r f.vs2.val w e
    some (if i < count then vElem r f.vs1.val w i else 0)))

def vCompress (f : VFields) (r : HoundRegs) : Option VDone :=
  let w := ewBits f.ew.val
  let n := 512 / w
  if !f.men || f.vs2.val != 0 || !permOk f r false then none
  else
    let count := r.vk * n
    let kept := ((List.range count).filter (active r f n)).map (vElem r f.vs1.val w)
    let elems := kept ++ List.replicate (count - kept.length) 0
    some (vEnd (vPut r f.vd.val w elems) r.vk false)

/-! ### Floating point and conversion (R267, R268) -/

/-- A floating-point instruction of two operands. -/
def vFloat (g : Nat → Nat → Nat → Nat) (f : VFields) (r : HoundRegs) : Option VDone :=
  let w := ewBits f.ew.val
  if f.ew.val < 2 || !vTwo r f true then none
  else some (vWise r f w (fun e =>
    (g w (vElem r f.vs1.val w e) (vElem r f.vs2.val w e), false)))

/-- A floating-point instruction of one operand. -/
def vFloat1 (g : Nat → Nat → Nat) (f : VFields) (r : HoundRegs) : Option VDone :=
  let w := ewBits f.ew.val
  if f.ew.val < 2 || f.vs2.val != 0 || !vTwo r f false then none
  else some (vWise r f w (fun e => (g w (vElem r f.vs1.val w e), false)))

def vI2f (rm : Nat) (f : VFields) (r : HoundRegs) : Option VDone :=
  if rm != 0 then none else vFloat1 i2f f r

def vF2i (rm : Nat) (f : VFields) (r : HoundRegs) : Option VDone :=
  let w := ewBits f.ew.val
  if f.ew.val < 2 || f.vs2.val != 0 || !vTwo r f false then none
  else some (vWise r f w (fun e => clampS w (f2iExact rm w (vElem r f.vs1.val w e))))

/-- The widening conversions: `high` half or low, signed or not. An element is
active by the mask bit of its source element (DEDUCED, unsafe: log entry 41). -/
def vWiden (rm : Nat) (high isSigned : Bool) (f : VFields) (r : HoundRegs) : Option VDone :=
  let w := ewBits f.ew.val
  let k := r.vk
  let n := 512 / w
  let d := min r.vdone k
  if f.ew.val = 3 || rm != 0 || f.vs2.val != 0 || !vTwo r f false then none
  else
    let elems := (List.range (k * (n / 2))).map (fun i =>
      let j := i / (n / 2)
      let src := j * n + (if high then n / 2 else 0) + i % (n / 2)
      let a := vElem r f.vs1.val w src
      if d ≤ j && active r f n src then
        (if isSigned then pattern (2 * w) (signed w a) else a)
      else vElem r f.vd.val (2 * w) i)
    some (vEnd (vPut r f.vd.val (2 * w) elems) (k - d) false)

end Sys2Proof.Machine
end

