-- ==== Sys2Proof/Machine/HoundMem.lean ====
section
/-! DEFINITION. What a Hound reaches outside its registers: its counters, its address
space and L1 caches (R213 to R216), and its part of the local control page (R272,
R273). -/

namespace Sys2Proof.Machine

open Sys2Proof

/-! ### A Hound of the device -/

/-- Its registers, and the state with them replaced. -/
def hregs (s : State) (h : Nat) : HoundRegs := (hound s h).regs
def setHregs (s : State) (h : Nat) (r : HoundRegs) : State := modHound s h (fun x => { x with regs := r })

/-- The plan that it serves. -/
def houndPlan (s : State) (h : Nat) : Option Plan :=
  (hound s h).serves.bind (fun (k, p, _, _) => plan? s k p)

/-- The vertex of the job that it runs. -/
def houndVx (s : State) (h : Nat) : Option Vx :=
  match (hound s h).job, (hound s h).serves with
  | some j, some (_, _, vid, _) => vx? s { job := j, vid }
  | _, _ => none

/-- Counters by index (R239, R269, R293): ISSUE, BRSTALL, L1MISS, SVC, VPASS, VSAT,
VELEM, EXC. -/
def houndCounter (h i : Nat) : Nat :=
  0xA0000 + 0x40 * h + (if i < 4 then 0x10 + 4 * i else if i < 7 then 0x20 + 4 * (i - 4) else 0x2C)

/-- Adds to a counter, and to the vertex's count of it (R452). -/
def hcnt (s : State) (h i n : Nat) : State :=
  let s := cnt s (houndCounter h i) n
  match (hound s h).serves with
  | some (k, p, vid, _) => cntVertex s k p vid i n
  | none => s

/-! ### What an access may reach (R213) -/

inductive Acc where
  | fetch | load | store
  deriving DecidableEq, Repr

/-- CODE and CONST of the plan (R89). -/
def houndCode (s : State) (h : Nat) : Bytes := ((houndPlan s h).map (fun p => imBytes p.image 2)).getD []
def houndConst (s : State) (h : Nat) : Bytes := ((houndPlan s h).map planConst).getD []

/-- Bytes of the vertex's spill area in its job. -/
def houndSpill (s : State) (h : Nat) : Nat := ((houndVx s h).map (fun x => 1024 * x.vert.spillKib)).getD 0

/-- The kennel of the vertex served, and a table space of it. -/
def houndKennel (s : State) (h : Nat) : Nat := ((hound s h).serves.map (·.1)).getD 0
def houndSpace (s : State) (h n : Nat) : Option TSpace := ownSpace s (houndKennel s h) n

/-- The region permits the access of `n` bytes at `a`: in S mode, and by a vector
instruction. -/
def accessOk (s : State) (h : Nat) (smode vec : Bool) (acc : Acc) (a n : Nat) : Bool :=
  let fetch := decide (acc = .fetch)
  let store := decide (acc = .store)
  match regionOf a with
  | .spad _ => !fetch
  | .spadRt _ => smode && !fetch
  | .rtcode off => smode && !store && off + n ≤ s.herder.runtime.length
  | .code off => !store && off + n ≤ (houndCode s h).length
  | .const off => !fetch && !store && off + n ≤ (houndConst s h).length
  | .spill off => !fetch && off + n ≤ houndSpill s h
  | .ts sp off => !fetch && (houndSpace s h sp).any (fun t => off + n ≤ spaceSize t)
  | .lmmio _ => smode && !vec && n == 8 && !fetch
  | .hole => false

/-! ### Lines behind the L1D (R215, R216) -/

/-- A line as the SHC gives it, and whether it is poisoned. -/
def houndLine (s : State) (h line : Nat) : Bytes × Bool :=
  match regionOf (64 * line) with
  | .rtcode off => (slice s.herder.runtime off 64, false)
  | .code off => (slice (houndCode s h) off 64, false)
  | .const off => (slice (houndConst s h) off 64, false)
  | .spill off => (((houndVx s h).map (fun x => x.st.spill.read off 64)).getD (zeros 64), false)
  | .ts n off =>
    match houndSpace s h n with
    | some t => tsRead s t off 64
    | none => (zeros 64, false)
  | _ => (zeros 64, false)

/-- The SHC port of a Hound's L1 misses: each Pack has one for its even Hounds and one for
its odd ones (R351). -/
def houndPort (h : Nat) : Nat := 22 + 2 * (h / 16) + h % 2

/-- A request for a line that the Herder has placed in DRAM where the spec does not say:
whether it hits is open. (DESIGN CHOICE, safe: log entry 112.) -/
def portOpen (s : State) (p : Nat) : State :=
  let (n, s) := takeFree s
  let plus := fun s o i => setReg s o (min (2 ^ 32 - 1) (regVal s o + i))
  plus (plus s (0xD3000 + 8 * p) (n % 2)) (0xD3004 + 8 * p) (1 - n % 2)

/-- What a Hound's access to a line does at its port: a line of a table space goes through
the SHC (R215, R352 to R357). -/
def houndReach (s : State) (h line : Nat) (op : ShcOp) : State :=
  let space := match regionOf (64 * line) with
    | .ts n off => (houndSpace s h n).map (fun t => spaceLine t (off / 64))
    | _ => none
  match space with
  | some l => (shcAccess s (houndPort h) (houndKennel s h) l op).2.2
  | none => portOpen s (houndPort h)

/-- A line goes back to the SHC. -/
def houndWriteBack (s : State) (h line : Nat) (b : Bytes) : State :=
  let s := houndReach s h line (.write (BitVec.allOnes 64) (BitVec.ofNat 512 (leNat b)))
  match regionOf (64 * line) with
  | .spill off =>
    match houndVx s h with
    | some x => modVert s x.j x.vid (fun v => { v with spill := v.spill.write off b })
    | none => s
  | _ => s

/-- A Hound receives a poisoned line: its job fails, and the runtime stops it (R342).
(DEDUCED, safe: log entry 36.) -/
def houndPoisoned (s : State) (h : Nat) : State :=
  match houndVx s h with
  | some x => abortHounds (failVx s x eDdrUe) [h]
  | none => s

/-- The lines of a set of the L1D: 256 sets of 4 ways (R215). -/
def l1Set (t : Tbl L1Line) (line : Nat) : List Nat := (t.map (·.1)).filter (fun l => l % 256 == line % 256)

/-- Makes room in a line's set: which of four lines leaves is open. (DEDUCED, safe: log entry 34.) -/
def l1Evict (s : State) (h line : Nat) : State :=
  let set := l1Set (hound s h).l1d line
  if set.length < 4 then s
  else
    match pick s set with
    | none => s
    | some (v, s) =>
      let s := match tfind? (hound s h).l1d v with
        | some l => if l.dirty then houndWriteBack s h v l.data else s
        | none => s
      modHound s h (fun x => { x with l1d := tdel x.l1d v })

/-- The line is in the L1D. -/
def l1Fetch (s : State) (h line : Nat) : State :=
  if (tfind? (hound s h).l1d line).isSome then s
  else
    let s := l1Evict (hcnt s h 2 1) h line
    let (data, poison) := houndLine s h line
    let s := modHound (houndReach s h line .read) h (fun x => { x with l1d := tset x.l1d line { data, dirty := false } })
    if poison then houndPoisoned s h else s

/-- Every dirty line is written back, and stays (R216). -/
def l1WriteBack (s : State) (h : Nat) : State :=
  let s := (hound s h).l1d.foldl (fun s (line, l) =>
    if l.dirty then houndWriteBack s h line l.data else s) s
  modHound s h (fun x => { x with l1d := x.l1d.map (fun (i, l) => (i, { l with dirty := false })) })

/-- Every clean line is discarded. -/
def l1DropClean (s : State) (h : Nat) : State :=
  modHound s h (fun x => { x with l1d := x.l1d.filter (fun e => e.2.dirty) })

/-- A word of code is fetched through the L1I: 256 sets of 4 ways. -/
def l1iFetch (s : State) (h pc : Nat) : State :=
  let line := pc / 64
  let x := hound s h
  if x.l1i.contains line then s
  else
    let s := portOpen (hcnt s h 2 1) (houndPort h)
    let set := x.l1i.filter (fun l => l % 256 == line % 256)
    match if set.length < 4 then none else pick s set with
    | none => modHound s h (fun x => { x with l1i := x.l1i ++ [line] })
    | some (v, s) => modHound s h (fun x => { x with l1i := x.l1i.filter (· != v) ++ [line] })

/-! ### The local control page (R272, R273) -/

/-- Bits of a vector entry that can be written. -/
def vecMask : Nat := 0xFFF8FFFFFFFFFFFD

/-- Reads a register of the page. -/
def lmmioGet (x : HoundSt) (off : Nat) : Nat :=
  if off < 0x200 then (tget x.vec (off / 8) 0).toNat
  else if off = 0x200 then x.ipend.toNat
  else if off = 0x208 then x.ien.toNat
  else 0

/-- Writes a register of the page. -/
def lmmioPut (x : HoundSt) (off v : Nat) : HoundSt :=
  if off < 0x200 then { x with vec := tset x.vec (off / 8) (BitVec.ofNat 64 (v &&& vecMask)) }
  else if off = 0x200 then { x with ipend := x.ipend &&& ~~~(BitVec.ofNat 3 v) }
  else if off = 0x208 then { x with ien := BitVec.ofNat 3 v }
  else x

/-! ### Accesses that are permitted -/

/-- Loads `n` bytes that lie in one line. -/
def houndLoad (s : State) (h a n : Nat) : Bytes × State :=
  match regionOf a with
  | .spad off | .spadRt off => ((hound s h).spad.read off n, s)
  | .lmmio off => (toLe n (lmmioGet (hound s h) off), s)
  | _ =>
    let s := l1Fetch s h (a / 64)
    let l := (tfind? (hound s h).l1d (a / 64)).map (·.data)
    (slice (l.getD []) (a % 64) n, s)

/-- Stores bytes that lie in one line. -/
def houndStore (s : State) (h a : Nat) (b : Bytes) : State :=
  match regionOf a with
  | .spad off | .spadRt off => modHound s h (fun x => { x with spad := x.spad.write off b })
  | .lmmio off => modHound s h (fun x => lmmioPut x off (leNat b))
  | _ =>
    let s := l1Fetch s h (a / 64)
    modHound s h (fun x => { x with
      l1d := tmod x.l1d (a / 64) (fun l => { data := putAt l.data (a % 64) b, dirty := true }) })

/-- Stores words of 8 bytes in S mode up to the first that is not permitted; whether
all were. -/
def storeWords (h : Nat) : State → Nat → List Nat → State × Bool
  | s, _, [] => (s, true)
  | s, a, w :: ws =>
    if accessOk s h true false .store a 8 then storeWords h (houndStore s h a (toLe 8 w)) (a + 8) ws
    else (s, false)

/-- Loads words of 8 bytes in S mode; none where one is not permitted. -/
def loadWords (h : Nat) : Nat → State → Nat → Option (List Nat × State)
  | 0, s, _ => some ([], s)
  | n + 1, s, a =>
    if accessOk s h true false .load a 8 then
      let (b, s) := houndLoad s h a 8
      (loadWords h n s (a + 8)).map (fun (ws, s) => (leNat b :: ws, s))
    else none

end Sys2Proof.Machine
end

