-- ==== Sys2Proof/Machine/HoundExc.lean ====
section
/-! DEFINITION. How a Hound enters an exception or interrupt, locks up, returns, and
issues an instruction (R229, R270 to R291): one shared operation for each. -/

namespace Sys2Proof.Machine

open Sys2Proof

def eHndService : Nat := 0x0901
def eHndBuffer : Nat := 0x0902
def eHndUser : Nat := 0x0903
def eHndFault : Nat := 0x0910
def eHndIllegal : Nat := 0x0911
def eHndLockup : Nat := 0x0912

/-! ### Failure and lockup -/

/-- The job that the Hound runs fails, with details for PLAN_STATUS. -/
def houndFail (s : State) (h status : Nat) (details : List Nat) : State :=
  match houndVx s h with
  | some x => failJobWith s x.j status x.vid details
  | none => s

/-- The core locks up (R277, R407): cause, reason and the address recorded. -/
def lockUp (s : State) (h cause reason pc : Nat) : State :=
  let info := cause % 256 * 2 ^ 56 + reason * 2 ^ 52 + pc % 2 ^ 48
  let s := modHound s h (fun x => { x with lockup := true, lockInfo := BitVec.ofNat 64 info })
  let s := houndFail (raiseEvent s (128 + h)) h eHndLockup [0, 0, 0, 0]
  let k := houndKennel s h
  raiseEvent (setRegField s (page k + 0x3100) 6 1 1) (256 + k)

/-! ### Entry (R274 to R276, R284) -/

/-- HND_NI_MAX.MAX. -/
def niMax (s : State) : Nat := regField s 0xA2000 0 13

/-- The entry of a cause. -/
def vecEntry (x : HoundSt) (cause : Nat) : Nat := (tget x.vec cause 0).toNat
def vecValid (v : Nat) : Bool := bitAt v 0
def vecHandler (v : Nat) : Nat := field v 2 46 * 4

/-- HCLK left in the window: it is open how many have passed (R284). -/
def windowLeft (s : State) (h : Nat) : Nat × State :=
  let x := hound s h
  if x.regs.niw && 0 < x.window then
    let (n, s) := takeFree s
    (1 + n % x.window, s)
  else (0, s)

/-- SSP can take a frame: a multiple of 64 within the stack. -/
def sspTakes (r : HoundRegs) : Bool :=
  r.ssp.toNat % 64 == 0 && r.sstkBase.toNat + 64 ≤ r.ssp.toNat && r.ssp.toNat ≤ r.sstkLimit.toNat

/-- The registers with the handler about to run: S mode, no loop, its window, DONE 0. -/
def handlerRegs (r : HoundRegs) (cause eaddr info epc ni pc : Nat) : HoundRegs :=
  { r with
    epc := BitVec.ofNat 64 epc, ecause := BitVec.ofNat 64 cause, eaddr := BitVec.ofNat 64 eaddr,
    einfo := BitVec.ofNat 64 info, estatus := r.status,
    status := if ni = 0 then 5 else 9,
    vprog := BitVec.ofNat 64 (setField r.vprog.toNat 0 3 0),
    ssp := r.ssp - 64, pc := BitVec.ofNat 64 pc }

/-- The words of a frame (R275). -/
def frameWords (r : HoundRegs) (cause eaddr info epc nicnt : Nat) : List Nat :=
  [epc, r.status.toNat, cause, eaddr, info, r.vprog.toNat, nicnt, 0]

/-- What the runtime makes of an exception that plan code raised (R235, R289).
(DEDUCED, safe: log entry 35.) -/
def runtimeJudge (s : State) (h : Nat) (user : Bool) (cause eaddr info epc : Nat) : State :=
  if !user then s
  else if cause = cFetch || cause = cLoad || cause = cStore || cause = cMisaligned then
    houndFail s h eHndFault [epc, cause, eaddr, info]
  else if cause = cIllegal || cause = cPriv then houndFail s h eHndIllegal [epc, cause, eaddr, info]
  else if cause = cSyscall then
    let s := hcnt s h 3 1
    if 6 < info / 2 ^ 32 % 4096 then houndFail s h eHndService [0, 0, 0, 0] else s
  else s

/-- An exception or interrupt is entered; `at'` is the instruction that raised it. -/
def enterExc (s : State) (h cause eaddr info epc at' : Nat) : State :=
  let r := hregs s h
  let v := vecEntry (hound s h) cause
  let user := r.prv == 0
  if !sspTakes r then lockUp s h cause 1 at'
  else if !vecValid v then lockUp s h cause 2 at'
  else
    let (nicnt, s) := windowLeft s h
    let (s, stored) := storeWords h s (r.ssp.toNat - 64) (frameWords r cause eaddr info epc nicnt)
    if !stored then lockUp s h cause 3 at'
    else
      let ni := min (field v 51 13) (niMax s)
      let s := modHound s h (fun x => { x with
        regs := handlerRegs r cause eaddr info epc ni (vecHandler v), window := ni, waiting := false })
      let s := hcnt s h 7 1
      if !accessOk s h true false .fetch (vecHandler v) 4 then lockUp s h cause 4 at'
      else runtimeJudge s h user cause eaddr info epc

/-- A trap of the instruction at PC with its word 0 (R270, R276). -/
def enterTrap (s : State) (h word : Nat) (t : Trap) : State :=
  let pc := (hregs s h).pc.toNat
  enterExc s h t.cause t.eaddr (word % 2 ^ 32 * 2 ^ 32 + t.info)
    (if t.cause = cSyscall then (pc + 4) % 2 ^ 64 else pc) pc

/-! ### Interrupts (R281 to R285) -/

/-- The runtime abandons the program (R237): L1D, scratchpad and registers are gone. -/
def abandonProgram (s : State) (h : Nat) : State :=
  modHound s h (fun x => { x with
    regs := {}, window := 0, ipend := x.ipend &&& 6, wfi := false, waiting := false, spad := [],
    l1d := [], job := none, past := x.past ++ x.job.toList, inbufs := [], outbufs := [], pubSeq := none })

/-- The line is taken, where one can be; the ABORT handler abandons the program. -/
def takeLine (s : State) (h : Nat) : State :=
  match pendingLine (hound s h) with
  | none => s
  | some n =>
    let pc := (hregs s h).pc.toNat
    let s := enterExc s h (0x20 + n) 0 (n * 2 ^ 16) pc pc
    if n = 0 && !(hound s h).lockup then abandonProgram s h else s

/-- A line is there to be taken: enabled, pending, and interrupts are open (R282). -/
def lineReady (s : State) (h : Nat) : Bool := (hregs s h).ie && (pendingLine (hound s h)).isSome

/-- The number of passes after which a line is taken between two issue HCLK of an
element-wise instruction, of which each runs an even pass and the odd one after it; none
where the instruction ends first (R245, R248). (DEDUCED, safe: log entry 32.) -/
def cutPass (s : State) (h : Nat) : Option Nat × State :=
  let r := hregs s h
  let cuts := (List.range r.vk).filter (fun m => r.vdone < m && m % 2 == 0)
  if !lineReady s h || cuts.isEmpty then (none, s)
  else
    let (n, s) := takeFree s
    (cuts[n % (cuts.length + 1)]?, s)

/-- The line is taken inside a vector instruction of which `m` passes are complete: EPC is
the instruction, and DONE counts them (R248, R280). -/
def takeInside (s : State) (h m : Nat) : State :=
  takeLine (setHregs s h ((hregs s h).setVdone m)) h

/-- Lines become pending; line 0 only where the Herder abandons the job (R281). -/
def raiseLines (s : State) (h : Nat) (lines : BitVec 3) : State :=
  let gone := match (hound s h).job with
    | some j => (job? s j).any (fun b => !jobLive b)
    | none => false
  endWfi (modHound s h (fun x => { x with
    ipend := x.ipend ||| (if gone then lines else lines &&& 6) })) h

/-- The window ends (R285): interrupts open, and a pending line is taken. -/
def expireWindow (s : State) (h : Nat) : State :=
  let s := modHound s h (fun x => { x with
    window := 0,
    regs := { x.regs with status := BitVec.ofNat 64 (setField x.regs.status.toNat 2 2 1) } })
  takeLine s h

/-! ### Return (R286, R287) -/

/-- The registers that a frame restores; NICNT counts where interrupts stay closed. -/
def frameRegs (r : HoundRegs) (ws : List Nat) : HoundRegs × Nat :=
  let st := (ws[1]?.getD 0) % 64
  let nicnt := (ws[6]?.getD 0) % 2 ^ 13
  let closed := !bitAt st 2
  let niw := closed && 1 ≤ nicnt
  ({ r with
     pc := BitVec.ofNat 64 (ws[0]?.getD 0), status := BitVec.ofNat 64 (setField st 3 1 (b2n niw)),
     vprog := BitVec.ofNat 64 (ws[5]?.getD 0) &&& 0x107, ssp := r.ssp + 64 },
   if niw then nicnt else 0)

/-- ERET at PC. -/
def returnExc (s : State) (h word : Nat) : State :=
  let r := hregs s h
  let ssp := r.ssp.toNat
  if !(ssp % 64 == 0 && r.sstkBase.toNat ≤ ssp && ssp + 64 ≤ r.sstkLimit.toNat) then
    lockUp s h 0 5 r.pc.toNat
  else
    match loadWords h 8 s ssp with
    | none => lockUp s h 0 6 r.pc.toNat
    | some (ws, s) =>
      let prv := (ws[1]?.getD 0) % 4
      if 2 ≤ prv || (hound s h).privCeil.toNat < prv then enterTrap s h word { cause := cReturn }
      else
        let (r', left) := frameRegs r ws
        let s := modHound s h (fun x => { x with regs := r', window := left, waiting := false })
        if !r'.ie && !r'.niw then expireWindow s h else s

/-! ### Issue (R217, R222, R271) -/

/-- The Hound runs a job and can issue an instruction. -/
def houndRuns (s : State) (h : Nat) : Bool :=
  let x := hound s h
  x.job.isSome && x.serves.isSome && !x.lockup && !x.wfi && !x.waiting &&
  !unitGated s (.hound (Fin.ofNat 128 h)) && pState s < 2 && !fatal s

/-- What an instruction does: the state, and the trap that it raises. -/
abbrev Body := State → State × Option Trap

/-- FETCH_FAULT of the instruction at PC, for either word. -/
def fetchTrap (s : State) (h : Nat) (long : Bool) : Option Trap :=
  let r := hregs s h
  let pc := r.pc.toNat
  if pc % 4 ≠ 0 || !accessOk s h r.smode false .fetch pc 4 then some { cause := cFetch, eaddr := pc }
  else if long && !accessOk s h r.smode false .fetch (pc + 4) 4 then
    some { cause := cFetch, eaddr := pc + 4 }
  else none

/-- A Hound issues an instruction: its fetch, its count, its effect or its trap. INSTR is
open where word 0 could not be fetched. (DESIGN CHOICE, safe: log entry 31.)
(DEDUCED, safe: log entry 32.) (DEDUCED, safe: log entry 39.) -/
def issue (h word : Nat) (long : Bool) (body : Body) (s : State) : Option State :=
  if !houndRuns s h then none
  else
    match fetchTrap s h long with
    | some t =>
      if t.eaddr = (hregs s h).pc.toNat then
        let (n, s) := takeFree s
        some (enterTrap s h n t)
      else some (enterTrap s h word t)
    | none =>
      let s := hcnt (l1iFetch s h (hregs s h).pc.toNat) h 0 1
      if long && (hregs s h).pc.toNat % 8 ≠ 0 then some (enterTrap s h word { cause := cIllegal })
      else
        match body s with
        | (s, none) => some s
        | (s, some t) => some (enterTrap s h word t)

/-- ILLEGAL_INSTR and PRIV_INSTR. -/
def illegal : Trap := { cause := cIllegal }
def privileged : Trap := { cause := cPriv }

/-- An instruction on the registers alone that goes on behind its `len` bytes; none where
it is illegal. -/
def onRegs (h len : Nat) (g : HoundRegs → Option HoundRegs) : Body := fun s =>
  match g (hregs s h) with
  | none => (s, some illegal)
  | some r => (setHregs s h (advance r (r.pc.toNat + len)), none)

end Sys2Proof.Machine
end

