-- ==== Sys2Proof/Machine/HoundControl.lean ====
section
/-! DEFINITION. Meanings of a Hound's branches, jumps and loops (R218, R220 to R227). -/

namespace Sys2Proof.Machine

open Sys2Proof

/-! ### Branches and jumps (R217, R222) -/

/-- The target of a branch or jump at PC. -/
def branchTo (r : HoundRegs) (w : Nat) (off : BitVec w) : BitVec 64 := r.pc + off.signExtend 64 * 4

/-- A conditional branch: 3 HCLK of stall, taken or not. -/
def branch (h : Fin 128) (major : Nat) (rs1 rs2 : Fin 32) (off : BitVec 16)
    (c : BitVec 64 → BitVec 64 → Bool) (s : State) : Option State :=
  issue h.val (wordI major rs1.val rs2.val off.toNat) false (fun s =>
    let r := hregs s h.val
    let r' := if c (r.rx rs1.val) (r.rx rs2.val) then { r with pc := branchTo r 16 off }
      else advance r (r.pc.toNat + 4)
    (hcnt (setHregs s h.val r') h.val 1 3, none)) s

/-- BEQ. -/
def execBeq (h : Fin 128) (rs1 rs2 : Fin 32) (off : BitVec 16) (s : State) : Result :=
  attempt (branch h 0x0C rs1 rs2 off (fun a b => a == b)) s

/-- BNE. -/
def execBne (h : Fin 128) (rs1 rs2 : Fin 32) (off : BitVec 16) (s : State) : Result :=
  attempt (branch h 0x0D rs1 rs2 off (fun a b => a != b)) s

/-- BLT. -/
def execBlt (h : Fin 128) (rs1 rs2 : Fin 32) (off : BitVec 16) (s : State) : Result :=
  attempt (branch h 0x0E rs1 rs2 off (fun a b => decide (a.toInt < b.toInt))) s

/-- BGE. -/
def execBge (h : Fin 128) (rs1 rs2 : Fin 32) (off : BitVec 16) (s : State) : Result :=
  attempt (branch h 0x0F rs1 rs2 off (fun a b => decide (b.toInt ≤ a.toInt))) s

/-- BLTU. -/
def execBltu (h : Fin 128) (rs1 rs2 : Fin 32) (off : BitVec 16) (s : State) : Result :=
  attempt (branch h 0x1C rs1 rs2 off (fun a b => decide (a.toNat < b.toNat))) s

/-- BGEU. -/
def execBgeu (h : Fin 128) (rs1 rs2 : Fin 32) (off : BitVec 16) (s : State) : Result :=
  attempt (branch h 0x1D rs1 rs2 off (fun a b => decide (b.toNat ≤ a.toNat))) s

/-- J. -/
def execJ (h : Fin 128) (off : BitVec 26) (s : State) : Result :=
  attempt (issue h.val (wordJ 0x1E off.toNat) false (fun s =>
    let r := hregs s h.val
    (setHregs s h.val { r with pc := branchTo r 26 off }, none))) s

/-- JAL. -/
def execJal (h : Fin 128) (off : BitVec 26) (s : State) : Result :=
  attempt (issue h.val (wordJ 0x1F off.toNat) false (fun s =>
    let r := hregs s h.val
    (setHregs s h.val { r.wx 1 (r.pc + 4) with pc := branchTo r 26 off }, none))) s

/-! ### Loops (R223 to R227) -/

/-- The length of the section from which a Hound loops at its privilege. -/
def loopSection (s : State) (h : Nat) (smode : Bool) : Nat :=
  if smode then s.herder.runtime.length else (houndCode s h).length

/-- LOOP and LOOPI at a level, of `len` bytes themselves, with their body's length. -/
def startLoop (h n len count body : Nat) : Body := fun s =>
  let r := hregs s h
  match openLoop r n count body (r.pc.toNat + len) (loopSection s h r.smode) with
  | some r => (setHregs s h r, none)
  | none => (s, some illegal)

/-- LOOP: bit 4 of the RD field is the level, and its other bits must be 0.
(DEDUCED, safe: log entry 38.) -/
def execLoop (h : Fin 128) (rdf rs1 : Fin 32) (len : BitVec 16) (s : State) : Result :=
  attempt (issue h.val (wordI 0x17 rdf.val rs1.val len.toNat) false (fun s =>
    if rdf.val % 16 ≠ 0 then (s, some illegal)
    else startLoop h.val (rdf.val / 16) 4 ((hregs s h.val).rx rs1.val).toNat len.toNat s)) s

/-- LOOPI. -/
def execLoopi (h : Fin 128) (rdf rs1 : Fin 32) (aux : BitVec 11) (imm : BitVec 32) (s : State) : Result :=
  attempt (issue h.val (wordL rdf.val rs1.val 4 aux.toNat) true (fun s =>
    if 2 ≤ rdf.val || rs1.val ≠ 0 || 2 ^ 24 ≤ imm.toNat then (s, some illegal)
    else startLoop h.val rdf.val 8 imm.toNat aux.toNat s)) s

/-- The word of a SYS instruction (R220). -/
def wordSys (func : Nat) (rd rs1 : Fin 32) (arg : BitVec 12) : Nat :=
  wordI 0x0B rd.val rs1.val (func * 2 ^ 12 + arg.toNat)

/-- The instruction at PC is the last of the body of an active loop (R226). -/
def atBodyEnd (r : HoundRegs) : Bool :=
  let base := loopBase r.smode
  base ≤ r.pc.toNat && lastOfBody r ((r.pc.toNat - base) / 4)

/-- BREAKNZ (R225). (DEDUCED, unsafe: log entry 37.) -/
def execBreaknz (h : Fin 128) (rd rs1 : Fin 32) (arg : BitVec 12) (s : State) : Result :=
  attempt (issue h.val (wordSys 4 rd rs1 arg) false (fun s =>
    let r := hregs s h.val
    let n := arg.toNat
    if rd.val ≠ 0 || 2 ≤ n || atBodyEnd r then (s, some illegal)
    else if r.rx rs1.val = 0 then (setHregs s h.val (advance r (r.pc.toNat + 4)), none)
    else
      let out := loopBase r.smode + 4 * (r.loopStart n + r.loopLen n)
      (hcnt (setHregs s h.val { r.setLoop n false with pc := BitVec.ofNat 64 out }) h.val 1 4, none))) s

/-- LEXIT (R220). -/
def execLexit (h : Fin 128) (rd rs1 : Fin 32) (arg : BitVec 12) (s : State) : Result :=
  attempt (issue h.val (wordSys 5 rd rs1 arg) false (onRegs h.val 4 (fun r =>
    if rd.val ≠ 0 || rs1.val ≠ 0 || 2 ≤ arg.toNat then none else some (r.setLoop arg.toNat false)))) s

end Sys2Proof.Machine
end

