-- ==== Sys2Proof/Machine/HoundMemory.lean ====
section
/-! DEFINITION. Meanings of a Hound's scalar loads and stores (R213 to R216, R218). -/

namespace Sys2Proof.Machine

open Sys2Proof

/-- The trap of an access of `n` bytes, if it raises one (R214, R271, R276); `e` is the
element of a vector instruction. -/
def accessTrap (s : State) (h : Nat) (acc : Acc) (a n : Nat) (e : Option Nat) : Option Trap :=
  let store := decide (acc = .store)
  let info := b2n store * 2 ^ 15 + (match e with | some e => 2 ^ 14 + e % 1024 | none => 0)
  if a % n ≠ 0 then some { cause := cMisaligned, eaddr := a, info }
  else if !accessOk s h (hregs s h).smode e.isSome acc a n then
    some { cause := if store then cStore else cLoad, eaddr := a, info }
  else none

/-- The address of a scalar access: base register and IMM16. -/
def scalarAddr (r : HoundRegs) (base : Fin 32) (imm : BitVec 16) : Nat := (r.rx base.val + imm64 imm).toNat

/-- A load of `n` bytes, extended by `ext`. -/
def loadOp (h : Fin 128) (major n : Nat) (rd rs1 : Fin 32) (imm : BitVec 16) (ext : Nat → BitVec 64)
    (s : State) : Option State :=
  issue h.val (wordI major rd.val rs1.val imm.toNat) false (fun s =>
    let r := hregs s h.val
    let a := scalarAddr r rs1 imm
    match accessTrap s h.val .load a n none with
    | some t => (s, some t)
    | none =>
      let (b, s) := houndLoad s h.val a n
      (setHregs s h.val (advance (r.wx rd.val (ext (leNat b))) (r.pc.toNat + 4)), none)) s

/-- A store of the `n` low bytes of RS2. -/
def storeOp (h : Fin 128) (major n : Nat) (rs2 rs1 : Fin 32) (imm : BitVec 16) (s : State) : Option State :=
  issue h.val (wordI major rs2.val rs1.val imm.toNat) false (fun s =>
    let r := hregs s h.val
    let a := scalarAddr r rs1 imm
    match accessTrap s h.val .store a n none with
    | some t => (s, some t)
    | none =>
      let s := houndStore s h.val a (toLe n (r.rx rs2.val).toNat)
      (setHregs s h.val (advance r (r.pc.toNat + 4)), none)) s

/-- A value sign-extended from `w` bits, or zero-extended. -/
def extS (w v : Nat) : BitVec 64 := BitVec.ofNat 64 (sext64 w v)
def extZ (v : Nat) : BitVec 64 := BitVec.ofNat 64 v

/-- LB. -/
def execLb (h : Fin 128) (rd rs1 : Fin 32) (imm : BitVec 16) (s : State) : Result :=
  attempt (loadOp h 0x10 1 rd rs1 imm (extS 8)) s

/-- LBU. -/
def execLbu (h : Fin 128) (rd rs1 : Fin 32) (imm : BitVec 16) (s : State) : Result :=
  attempt (loadOp h 0x11 1 rd rs1 imm extZ) s

/-- LH. -/
def execLh (h : Fin 128) (rd rs1 : Fin 32) (imm : BitVec 16) (s : State) : Result :=
  attempt (loadOp h 0x12 2 rd rs1 imm (extS 16)) s

/-- LHU. -/
def execLhu (h : Fin 128) (rd rs1 : Fin 32) (imm : BitVec 16) (s : State) : Result :=
  attempt (loadOp h 0x13 2 rd rs1 imm extZ) s

/-- LW. -/
def execLw (h : Fin 128) (rd rs1 : Fin 32) (imm : BitVec 16) (s : State) : Result :=
  attempt (loadOp h 0x14 4 rd rs1 imm (extS 32)) s

/-- LWU. -/
def execLwu (h : Fin 128) (rd rs1 : Fin 32) (imm : BitVec 16) (s : State) : Result :=
  attempt (loadOp h 0x15 4 rd rs1 imm extZ) s

/-- LD. -/
def execLd (h : Fin 128) (rd rs1 : Fin 32) (imm : BitVec 16) (s : State) : Result :=
  attempt (loadOp h 0x16 8 rd rs1 imm extZ) s

/-- SB. -/
def execSb (h : Fin 128) (rs2 rs1 : Fin 32) (imm : BitVec 16) (s : State) : Result :=
  attempt (storeOp h 0x18 1 rs2 rs1 imm) s

/-- SH. -/
def execSh (h : Fin 128) (rs2 rs1 : Fin 32) (imm : BitVec 16) (s : State) : Result :=
  attempt (storeOp h 0x19 2 rs2 rs1 imm) s

/-- SW. -/
def execSw (h : Fin 128) (rs2 rs1 : Fin 32) (imm : BitVec 16) (s : State) : Result :=
  attempt (storeOp h 0x1A 4 rs2 rs1 imm) s

/-- SD. -/
def execSd (h : Fin 128) (rs2 rs1 : Fin 32) (imm : BitVec 16) (s : State) : Result :=
  attempt (storeOp h 0x1B 8 rs2 rs1 imm) s

end Sys2Proof.Machine
end

