-- ==== Sys2Proof/Machine/HoundTraps.lean ====
section
/-! DEFINITION. Meanings of what befalls a Hound from outside its program: interrupts,
the end of a window, and the Herder's resets (R278, R282, R285, R290). -/

namespace Sys2Proof.Machine

open Sys2Proof

/-- The Hound runs a job and can be interrupted (R277, R282). -/
def interruptible (s : State) (h : Nat) : Bool :=
  let x := hound s h
  x.job.isSome && !x.lockup && pState s < 2 && !fatal s

/-- INTERRUPT_TAKE: `raised` are lines that become pending in this HCLK. -/
def execInterruptTake (h : Fin 128) (raised : BitVec 3) (s : State) : Result :=
  attempt (fun s =>
    if !interruptible s h.val then none
    else
      let s := raiseLines s h.val raised
      some (if (hregs s h.val).ie then takeLine s h.val else s)) s

/-- NI_WINDOW_EXPIRE: an arrival in the same HCLK is sampled first (R291). -/
def execNiWindowExpire (h : Fin 128) (raised : BitVec 3) (s : State) : Result :=
  attempt (fun s =>
    if !interruptible s h.val || !(hregs s h.val).niw then none
    else some (expireWindow (raiseLines s h.val raised) h.val)) s

/-- The Herder resets a Hound (R237, R278): the runtime sets it up anew before it
starts again. HND_LOCKINFO keeps its value. (DEDUCED, safe: log entry 40.) -/
def resetHound (s : State) (h : Nat) : State :=
  modHound (abandonProgram s h) h (fun x => { x with
    lockup := false, vec := [], ipend := 0, ien := 7, l1i := [], setUp := false })

/-- HOUND_RESET (R278). -/
def execHoundReset (h : Fin 128) (s : State) : Result :=
  attempt (fun s => if (hound s h.val).lockup then some (resetHound s h.val) else none) s

/-- HOUND_ABORT_TIMEOUT (R290): line 0 has been raised and not been taken. -/
def execHoundAbortTimeout (h : Fin 128) (s : State) : Result :=
  attempt (fun s =>
    let x := hound s h.val
    if x.job.isSome && x.ipend.getLsbD 0 && !x.lockup then some (resetHound s h.val) else none) s

end Sys2Proof.Machine
end

