-- ==== Sys2Proof/Machine/HoundRuntime.lean ====
section
/-! DEFINITION. Meanings of what the Ruisk runtime does for Hound vertices (R231 to
R236): job start, staging, and the services. -/

namespace Sys2Proof.Machine

open Sys2Proof

/-! ### The segment and its scratchpad (R231, R232) -/

/-- NINBUF, NOUTBUF and the sizes of the buffers. -/
def hcNin (c : Bytes) : Nat := le c 2 1
def hcNout (c : Bytes) : Nat := le c 3 1
def hcInSize (c : Bytes) : Nat := 1024 * le c 4 4
def hcOutSize (c : Bytes) : Nat := 1024 * le c 8 4
def hcOrigin (c : Bytes) : Bool := bitAt (le c 1 1) 0

/-- Where the buffers start. -/
def bufBase (v : Vertex) : Nat := alignUp (le v.body 20 4 + le v.body 24 4) 4096
def inAddr (v : Vertex) (i : Nat) : Nat := bufBase v + i * hcInSize v.cfg
def outAddr (v : Vertex) (i : Nat) : Nat := bufBase v + hcNin v.cfg * hcInSize v.cfg + i * hcOutSize v.cfg

/-- ENTRY as an address in CODE: the vertex record gives the segment's place. -/
def entryAddr (p : Plan) (vid : Nat) (v : Vertex) : Nat :=
  codeBase + le (vertRec p.image vid) 20 4 + le v.body 8 4

/-! ### Job start (R234, R272) -/

/-- Causes that have a handler. -/
def handledCauses : List Nat := [1, 2, 3, 4, 5, 6, 7, 8, 0x20, 0x21, 0x22]

/-- The entry that the runtime makes for a cause: valid, into RTCODE. -/
def runtimeVec (len cause : Nat) : Nat :=
  let words := max 1 (len / 4)
  Config.runtimeWindow cause % 8192 * 2 ^ 51 + (rtBase + 4 * (Config.runtimeEntry cause % words)) + 1

/-- The runtime fills its vector table before the Hound's first job. -/
def setUpHound (s : State) (h : Nat) : State :=
  if (hound s h).setUp then s
  else modHound s h (fun x => { x with
    setUp := true,
    vec := handledCauses.foldl (fun t c =>
      tset t c (BitVec.ofNat 64 (runtimeVec s.herder.runtime.length c))) x.vec })

/-- The registers at a job's start. -/
def startRegs (entry index count : Nat) : HoundRegs :=
  let x := (((List.replicate 32 (0 : BitVec 64)).set 2 0xBC000).set 10 (BitVec.ofNat 64 index)).set 11
    (BitVec.ofNat 64 count)
  { x := x.set 12 (BitVec.ofNat 64 spillBase), pc := BitVec.ofNat 64 entry, status := 4,
    sstkBase := BitVec.ofNat 64 (spadUser + 64 * (Config.runtimeStack % 128)), sstkLimit := 0xC0000,
    ssp := 0xC0000 }

/-- The next job of the Hound's plan, in order of acceptance. -/
def nextHoundJob (s : State) (h : Nat) : Option Nat :=
  match (hound s h).serves with
  | none => none
  | some (k, p, _, _) =>
    (s.jobs.find? (fun (j, b) =>
      b.kennel == k && b.plan == p && jobLive b && !(hound s h).past.contains j)).map (·.1)

/-- HOUND_JOB_START. -/
def execHoundJobStart (h : Fin 128) (s : State) : Result :=
  attempt (fun s =>
    let x := hound s h.val
    match x.serves, nextHoundJob s h.val with
    | some (k, p, vid, index), some j =>
      match (plan? s k p), (plan? s k p).bind (fun q => q.verts[vid]?) with
      | some plan, some v =>
        if x.job.isSome || x.lockup || unitGated s (.hound h) || 2 ≤ pState s || !mayStart s k then none
        else
          let s := setUpHound s h.val
          let data := slice v.body (le v.body 16 4) (le v.body 20 4)
          some (modHound s h.val (fun x => { x with
            regs := startRegs (entryAddr plan vid v) index v.nhounds,
            spad := Memory.write (x.spad.filter (fun c => spadUser ≤ c.1)) 0 data,
            l1d := [], job := some j, past := x.past.filter (fun i => (job? s i).isSome),
            inbufs := [], outbufs := [], pubSeq := none, window := 0, wfi := false, waiting := false }))
      | _, _ => none
    | _, _ => none) s

/-! ### Staging (R236) -/

/-- An input buffer that holds nothing; which one is open. -/
def freeIn (s : State) (h : Nat) (v : Vertex) : Option (Nat × State) :=
  pick s ((List.range (hcNin v.cfg)).filter (fun i => (tfind? (hound s h).inbufs i).isNone))

/-- A skip mark goes out on a port; a skip mark needs no slot. -/
def sendSkip (s : State) (x : Vx) (port q : Nat) : State :=
  let s := modVert s x.j x.vid (fun w => { w with outq := w.outq ++ [(port, .skip q)] })
  (publishNext s (again s x) port).getD s

/-- The cycle of which the vertex is the entry, with its FEEDBACK edge (R118). -/
def entryCycle (x : Vx) : Option (Nat × Edge) :=
  (x.plan.edges.zip (List.range x.plan.edges.length)).findSome? (fun (e, i) =>
    if eFeedback e && e.dsts.any (fun d => d.1 == x.vid) then some (i, e) else none)

/-- The output port's edge lies on the cycle `f`. -/
def cyclePort (x : Vx) (f port : Nat) : Bool :=
  (outEdge? x.plan x.vid port).any (fun o => cycleOf x.plan o.1 == some f)

/-- The input may be answered on the cycle `f`: it came on the cycle, or into its entry. -/
def onCycleIn (x : Vx) (f port : Nat) : Bool :=
  (entryCycle x).any (fun e => e.1 == f) ||
  (inEdge? x.plan x.vid port).any (fun i => onCycleDst x.plan f i.1 i.2)

/-- Tiles of a cycle inside one of its vertices: those that wait to be published on the
cycle, those that its engine keeps, and the Hound input buffers that have not been answered
on the cycle (R118). -/
def cycleInside (s : State) (x : Vx) (f : Nat) : Nat :=
  let tile := fun (it : OItem) => match it with | .tile _ => true | .skip _ => false
  if !(List.range x.vert.nout).any (cyclePort x f) then 0
  else
    x.st.outq.countP (fun o => cyclePort x f o.1 && tile o.2) +
    (match x.st.eng with
     | .facet g => g.gate.countP (fun h => cyclePort x f h.port && tile h.item)
     | .cze z => b2n z.held.isSome
     | .dge ts => ts.length
     | _ => 0) +
    sumOf (if x.vert.kind = kHound then x.vert.units else []) (fun h =>
      if (hound s h).job = some x.j then
        (hound s h).inbufs.countP (fun e => onCycleIn x f e.2.port &&
          !e.2.sent.any (fun p => cyclePort x f p.1))
      else 0)

/-- The tiles on a cycle's edges and inside its vertices (R118). (DEDUCED, unsafe: log
entry 69.) -/
def cycleTiles (s : State) (x : Vx) (f : Nat) : Nat :=
  cycleQueued x.plan x.job f +
  sumOf (List.range x.job.verts.length) (fun vid =>
    match vx? s { job := x.j, vid } with
    | some y => cycleInside s y f
    | none => 0)

/-- The vertex may take from the port under R118. -/
def cycleAllows (s : State) (x : Vx) (port : Nat) : Bool :=
  match entryCycle x, inEdge? x.plan x.vid port with
  | some (f, e), some (i, k) =>
    onCycleDst x.plan f i k ||
      (!e.dsts.any (fun d => d.1 == x.vid && portReady x d.2) && cycleTiles s x f < e.credits)
  | _, _ => true

/-- A tile is copied to a free buffer, and its slot is free again. -/
def stageTile (s : State) (h : Nat) (x : Vx) (port : Nat) (b : Bytes) : Option State :=
  match freeIn s h x.vert with
  | none => none
  | some (i, s) =>
    match readTile s x b with
    | .error e => some (failVx s x e)
    | .ok t =>
      let s := noteDicts (releaseHolds (popIn s x port) x.j x.vid) x t
      let tile := b.take (tileTotal b)
      let order := 1 + (hound s h).inbufs.foldl (fun m e => max m e.2.order) 0
      let buf : InBuf := { port, seq := tileSeq b, len := tileTotal b, order }
      some (modHound s h (fun y => { y with
        spad := y.spad.write (inAddr x.vert i) tile, ipend := y.ipend ||| 2,
        inbufs := tset y.inbufs i buf }))

/-- The Hound stands at the SYSCALL handler, with service `n` to perform for plan code: so
its frame says. -/
def atService (s : State) (h n : Nat) : Option Vx :=
  let x := hound s h
  let r := x.regs
  match houndVx s h, loadWords h 5 s r.ssp.toNat with
  | some v, some ([_, status, cause, _, info], _) =>
    if !x.lockup && !x.wfi && !unitGated s (.hound (Fin.ofNat 128 h)) && pState s < 2 && vxLive v &&
        r.smode && r.pc.toNat == vecHandler (vecEntry x cSyscall) &&
        cause == cSyscall && status % 4 == 0 && field info 32 12 == n then some v
    else none
  | _, _ => none

/-- Argument registers. -/
def arg (s : State) (h i : Nat) : Nat := ((hregs s h).rx i).toNat

/-- Indices of the vertex's Hounds that wait in TAKE for a port, with a free buffer. -/
def takeWaits (s : State) (x : Vx) (port : Nat) : List Nat :=
  (List.range x.vert.units.length).filter (fun i =>
    match x.vert.units[i]? with
    | none => false
    | some h =>
      let y := hound s h
      y.job == some x.j && y.waiting && (atService s h 0).isSome && arg s h 10 == port &&
        y.inbufs.length < hcNin x.vert.cfg)

/-- The arbiter of a HOUND vertex. -/
def stageArb (x : Vx) : ArbSt := tget x.plan.stageArb x.vid {}

/-- The Hound that is given a tile when `h` asks: where several wait for the port, the
round-robin pointer by Hound index decides (R236). (DEDUCED, safe: log entry 109.) -/
def stageWinner (s : State) (x : Vx) (port h : Nat) : Nat :=
  match (stageArb x).pick (arbAge s) (takeWaits s x port) with
  | some i => (x.vert.units[i]?).getD h
  | none => h

/-- The pointer advances past the Hound that was given a tile of a port. -/
def stageMoved (s : State) (x : Vx) (port h : Nat) : State :=
  let arb := (stageArb x).won (takeWaits s x port) (x.vert.units.idxOf h)
  modPlan s x.job.kennel x.job.plan (fun p => { p with stageArb := tset p.stageArb x.vid arb })

/-- HOUND_STAGE_TILE: the next tile of a port for a Hound of this one's vertex; a skip mark
at the head is forwarded, or discarded by an origin. -/
def execHoundStageTile (h : Fin 128) (port : Fin 8) (s : State) : Result :=
  attempt (fun s =>
    match houndVx s h.val with
    | none => none
    | some x =>
      let p := port.val
      let w := stageWinner s x p h.val
      if !vxLive x || !moverUp s || !portReady x p || (hound s w).lockup || 2 ≤ pState s then none
      else
        match inHead x p with
        | some (.tile _ b) =>
          if cycleAllows s x p then (stageTile (stageMoved s x p w) w x p b).map (endWfi · w)
          else none
        | some (.skip q) =>
          let s := popIn s x p
          some (if hcOrigin x.vert.cfg then s
            else (List.range x.vert.nout).foldl (fun s o => sendSkip s x o (skipSeq q)) s)
        | _ => none) s

/-! ### Services (R235) -/

/-- The service has failed: the job fails, and the program does not go on. -/
def serviceFail (s : State) (h : Nat) (x : Vx) (status : Nat) : State :=
  modHound (failVx s x status) h (fun y => { y with waiting := true })

/-- The service waits. -/
def serviceWait (s : State) (h : Nat) : State := modHound s h (fun y => { y with waiting := true })

/-- The runtime returns to the program. -/
def serviceEnd (s : State) (h : Nat) : State := returnExc s h (wordI 0x0B 0 0 0x1000)

/-- The runtime returns X10 and X11. -/
def serviceGive (s : State) (h a b : Nat) : State :=
  let r := hregs s h
  serviceEnd (setHregs s h ((r.wx 10 (BitVec.ofNat 64 a)).wx 11 (BitVec.ofNat 64 b))) h

/-- The input buffer at an address that the program holds. -/
def heldIn (s : State) (h : Nat) (v : Vertex) (a : Nat) : Option (Nat × InBuf) :=
  (hound s h).inbufs.find? (fun (i, b) => b.taken && inAddr v i == a)

/-- The output buffer at an address that is bound, with its port. -/
def boundOut (s : State) (h : Nat) (v : Vertex) (a : Nat) : Option (Nat × Nat) :=
  (hound s h).outbufs.find? (fun (i, _) => outAddr v i == a)

/-- The oldest staged tile of a port. -/
def stagedIn (s : State) (h port : Nat) : Option (Nat × InBuf) :=
  (hound s h).inbufs.foldl (fun (best : Option (Nat × InBuf)) e =>
    if e.2.taken || e.2.port ≠ port then best
    else
      match best with
      | some b => if e.2.order < b.2.order then some e else best
      | none => some e) none

/-- TAKE. -/
def execTake (h : Fin 128) (s : State) : Result :=
  attempt (fun s =>
    match atService s h.val 0 with
    | none => none
    | some x =>
      let n := h.val
      let port := arg s n 10
      if x.vert.nin ≤ port then some (serviceFail s n x eHndService)
      else if (hound s n).inbufs.countP (fun e => e.2.taken) = hcNin x.vert.cfg then
        some (serviceFail s n x eHndBuffer)
      else
        match stagedIn s n port with
        | some (i, b) =>
          let s := modHound s n (fun y => { y with inbufs := tset y.inbufs i { b with taken := true } })
          some (serviceGive s n (inAddr x.vert i) b.len)
        | none =>
          if portEnded x port then
            let (free, s) := takeFree s
            some (serviceGive s n 0 free)
          else some (serviceWait s n)) s

/-- A buffer is free again. (DEDUCED, unsafe: log entry 69.) -/
def freeBuf (s : State) (h i : Nat) : State :=
  modHound s h (fun y => { y with inbufs := tdel y.inbufs i })

/-- RELEASE. -/
def execRelease (h : Fin 128) (s : State) : Result :=
  attempt (fun s =>
    (atService s h.val 1).map (fun x =>
      let n := h.val
      match heldIn s n x.vert (arg s n 10) with
      | none => serviceFail s n x eHndService
      | some (i, _) => serviceEnd (freeBuf s n i) n)) s

/-- ALLOC: which free buffer it is is open. -/
def execAlloc (h : Fin 128) (s : State) : Result :=
  attempt (fun s =>
    (atService s h.val 2).map (fun x =>
      let n := h.val
      let port := arg s n 10
      let free := (List.range (hcNout x.vert.cfg)).filter (fun i => (tfind? (hound s n).outbufs i).isNone)
      if x.vert.nout ≤ port then serviceFail s n x eHndService
      else
        match pick s free with
        | none => serviceFail s n x eHndBuffer
        | some (i, s) =>
          let s := modHound s n (fun y => { y with outbufs := tset y.outbufs i port })
          serviceGive s n (outAddr x.vert i) (hcOutSize x.vert.cfg))) s

/-! ### PUBLISH and SKIP (R114, R118, R236) -/

/-- The input that a publish answers: the buffer named, or for an origin on a cycle the
first held one that has not answered on the port. -/
def answered (s : State) (h : Nat) (x : Vx) (port a : Nat) : Option (Nat × InBuf) :=
  if a ≠ 0 then heldIn s h x.vert a
  else (hound s h).inbufs.find? (fun e => e.2.taken && (tfind? e.2.sent port).isNone)

/-- A publish breaks R118: on a port of a cycle it answers no tile of the cycle, or one that
it has answered there already. -/
def breaksCycle (x : Vx) (port : Nat) (b : Option (Nat × InBuf)) : Bool :=
  match (outEdge? x.plan x.vid port).bind (fun o => cycleOf x.plan o.1) with
  | none => false
  | some f => !b.any (fun e => (tfind? e.2.sent port).isNone && onCycleIn x f e.2.port)

/-- A pass-through publish with LAST and PART in `x12` breaks R114: parts go out from 0 on in
order, none after LAST, and several only for an input with PART 0 and LAST 1.
(DEDUCED, safe: log entry 110.) -/
def breaksParts (port x12 : Nat) (b : InBuf) : Bool :=
  if seqPart b.seq = 0 ∧ seqLast b.seq then
    match tfind? b.sent port with
    | none => x12 % 2048 != 0
    | some (n, last) => last || x12 % 2048 != n
  else (tfind? b.sent port).isSome || x12 % 4096 != b.seq % 4096

/-- A publish breaks R114 or R118. -/
def publishBreaks (x : Vx) (port x12 : Nat) (b : Option (Nat × InBuf)) : Bool :=
  breaksCycle x port b ||
  (!hcOrigin x.vert.cfg &&
    (match b with
     | some (_, b) => breaksParts port x12 b
     | none => true))

/-- The input's note of what it has been answered with on a port. -/
def noteSent (port x12 : Nat) (b : InBuf) : InBuf :=
  { b with sent := tset b.sent port ((tget b.sent port (0, false)).1 + 1, bitAt x12 11) }

/-- The SEQ of what the Hound publishes: one that the call has been given already, that of the
input with its part, or an origin's next (R114, R236). -/
def publishSeq (s : State) (h : Nat) (x : Vx) (port x12 : Nat) (b : Option (Nat × InBuf)) :
    Nat × State :=
  match (hound s h).pubSeq, hcOrigin x.vert.cfg, b with
  | some q, _, _ => (q, s)
  | none, false, some (_, b) => (setField b.seq 0 12 (x12 % 4096), s)
  | none, _, _ => nextOrdinal s x port

/-- The tile goes to its edge; or it must wait, with what it waits for. -/
def publishOn (s : State) (x : Vx) (port : Nat) (tile : Bytes) : Bool × State :=
  let t := modVert s x.j x.vid (fun w => { w with outq := w.outq ++ [(port, .tile tile)] })
  match publishNext t (again t x) port with
  | none => (false, s)
  | some t' =>
    if (again t' x).st.outq.length < (again t x).st.outq.length then (true, t')
    else (false, { s with slots := t'.slots })

/-- PUBLISH: the L1D is written back first; a call that must wait keeps its SEQ. -/
def execPublish (h : Fin 128) (s : State) : Result :=
  attempt (fun s =>
    (atService s h.val 3).map (fun x =>
      let n := h.val
      let (x11, x12) := (arg s n 11, arg s n 12)
      match boundOut s n x.vert (arg s n 10) with
      | none => serviceFail s n x eHndService
      | some (o, port) =>
        let b := answered s n x port x11
        let addr := outAddr x.vert o
        let head := (hound s n).spad.read addr 64
        let total := tileTotal head
        let most := ((outEdge? x.plan x.vid port).map (·.2.tileBytes)).getD 0
        if x11 ≠ 0 && b.isNone then serviceFail s n x eHndService
        else if hcOutSize x.vert.cfg < total || most < total then serviceFail s n x eHndBuffer
        else if (x11 = 0 && !hcOrigin x.vert.cfg) || publishBreaks x port x12 b then
          serviceFail s n x eJobSeq
        else
          let w := l1WriteBack s n
          let (q, w) := publishSeq w n (again w x) port x12 b
          let tile := setTileSeq (putAt ((hound w n).spad.read addr (max 64 total)) 22
            (toLe 1 x.job.kennel)) q
          match publishOn w (again w x) port tile with
          | (false, w) => serviceWait (modHound w n (fun y => { y with pubSeq := some q })) n
          | (true, w) =>
            let ins := fun (t : Tbl InBuf) =>
              match b with
              | some (i, b) => tset t i (noteSent port x12 b)
              | none => t
            serviceEnd (modHound w n (fun y => { y with
              pubSeq := none, outbufs := tdel y.outbufs o, inbufs := ins y.inbufs })) n)) s

/-- SKIP. -/
def execSkip (h : Fin 128) (s : State) : Result :=
  attempt (fun s =>
    (atService s h.val 4).map (fun x =>
      let n := h.val
      let port := arg s n 11
      match heldIn s n x.vert (arg s n 10) with
      | none => serviceFail s n x eHndService
      | some (_, b) =>
        if x.vert.nout ≤ port then serviceFail s n x eHndService
        else serviceEnd (sendSkip s x port (skipSeq b.seq)) n)) s

/-- DONE: the Hound leaves the job. -/
def execDone (h : Fin 128) (s : State) : Result :=
  attempt (fun s =>
    (atService s h.val 5).map (fun x =>
      let n := h.val
      let s := l1WriteBack s n
      let s := (hound s n).inbufs.foldl (fun s (i, _) => freeBuf s n i) s
      let s := modVert s x.j x.vid (fun v => { v with houndsDone := addNew v.houndsDone n })
      modHound s n (fun y => { y with
        job := none, past := y.past ++ y.job.toList, inbufs := [], outbufs := [], pubSeq := none,
        waiting := false }))) s

/-- FAIL: PLAN_STATUS reports the code. -/
def execFail (h : Fin 128) (s : State) : Result :=
  attempt (fun s =>
    (atService s h.val 6).map (fun x =>
      let n := h.val
      modHound (failJobWith s x.j eHndUser x.vid [arg s n 10 % 256, 0, 0, 0]) n
        (fun y => { y with waiting := true }))) s

end Sys2Proof.Machine
end

