-- ==== Sys2Proof/Machine/HoundScalar.lean ====
section
/-! DEFINITION. Meanings of a Hound's scalar register instructions (R218, R219, R221). -/

namespace Sys2Proof.Machine

open Sys2Proof

/-! ### ALU (R219) -/

/-- A format R instruction of two operands. -/
def aluTwo (h : Fin 128) (func : Nat) (rd rs1 rs2 : Fin 32) (g : BitVec 64 → BitVec 64 → BitVec 64)
    (s : State) : Option State :=
  issue h.val (wordR 0 rd.val rs1.val rs2.val func) false
    (onRegs h.val 4 (fun r => some (r.wx rd.val (g (r.rx rs1.val) (r.rx rs2.val))))) s

/-- One of one operand: RS2 must be 0. -/
def aluOne (h : Fin 128) (func : Nat) (rd rs1 rs2 : Fin 32) (g : BitVec 64 → BitVec 64) (s : State) :
    Option State :=
  issue h.val (wordR 0 rd.val rs1.val rs2.val func) false
    (onRegs h.val 4 (fun r => if rs2.val ≠ 0 then none else some (r.wx rd.val (g (r.rx rs1.val))))) s

/-- ADD. -/
def execAdd (h : Fin 128) (rd rs1 rs2 : Fin 32) (s : State) : Result :=
  attempt (aluTwo h 0x000 rd rs1 rs2 (fun a b => a + b)) s

/-- SUB. -/
def execSub (h : Fin 128) (rd rs1 rs2 : Fin 32) (s : State) : Result :=
  attempt (aluTwo h 0x001 rd rs1 rs2 (fun a b => a - b)) s

/-- AND. -/
def execAnd (h : Fin 128) (rd rs1 rs2 : Fin 32) (s : State) : Result :=
  attempt (aluTwo h 0x002 rd rs1 rs2 (fun a b => a &&& b)) s

/-- OR. -/
def execOr (h : Fin 128) (rd rs1 rs2 : Fin 32) (s : State) : Result :=
  attempt (aluTwo h 0x003 rd rs1 rs2 (fun a b => a ||| b)) s

/-- XOR. -/
def execXor (h : Fin 128) (rd rs1 rs2 : Fin 32) (s : State) : Result :=
  attempt (aluTwo h 0x004 rd rs1 rs2 (fun a b => a ^^^ b)) s

/-- SLL. -/
def execSll (h : Fin 128) (rd rs1 rs2 : Fin 32) (s : State) : Result :=
  attempt (aluTwo h 0x005 rd rs1 rs2 (fun a b => a <<< shCount b)) s

/-- SRL. -/
def execSrl (h : Fin 128) (rd rs1 rs2 : Fin 32) (s : State) : Result :=
  attempt (aluTwo h 0x006 rd rs1 rs2 (fun a b => a >>> shCount b)) s

/-- SRA. -/
def execSra (h : Fin 128) (rd rs1 rs2 : Fin 32) (s : State) : Result :=
  attempt (aluTwo h 0x007 rd rs1 rs2 (fun a b => a.sshiftRight (shCount b))) s

/-- SLT. -/
def execSlt (h : Fin 128) (rd rs1 rs2 : Fin 32) (s : State) : Result :=
  attempt (aluTwo h 0x008 rd rs1 rs2 (fun a b => flag64 (decide (a.toInt < b.toInt)))) s

/-- SLTU. -/
def execSltu (h : Fin 128) (rd rs1 rs2 : Fin 32) (s : State) : Result :=
  attempt (aluTwo h 0x009 rd rs1 rs2 (fun a b => flag64 (decide (a.toNat < b.toNat)))) s

/-- MIN. -/
def execMin (h : Fin 128) (rd rs1 rs2 : Fin 32) (s : State) : Result :=
  attempt (aluTwo h 0x00A rd rs1 rs2 (fun a b => if a.toInt ≤ b.toInt then a else b)) s

/-- MAX. -/
def execMax (h : Fin 128) (rd rs1 rs2 : Fin 32) (s : State) : Result :=
  attempt (aluTwo h 0x00B rd rs1 rs2 (fun a b => if b.toInt ≤ a.toInt then a else b)) s

/-- MINU. -/
def execMinu (h : Fin 128) (rd rs1 rs2 : Fin 32) (s : State) : Result :=
  attempt (aluTwo h 0x00C rd rs1 rs2 (fun a b => if a.toNat ≤ b.toNat then a else b)) s

/-- MAXU. -/
def execMaxu (h : Fin 128) (rd rs1 rs2 : Fin 32) (s : State) : Result :=
  attempt (aluTwo h 0x00D rd rs1 rs2 (fun a b => if b.toNat ≤ a.toNat then a else b)) s

/-- MUL. -/
def execMul (h : Fin 128) (rd rs1 rs2 : Fin 32) (s : State) : Result :=
  attempt (aluTwo h 0x010 rd rs1 rs2 (fun a b => a * b)) s

/-- MULH. -/
def execMulh (h : Fin 128) (rd rs1 rs2 : Fin 32) (s : State) : Result :=
  attempt (aluTwo h 0x011 rd rs1 rs2 (fun a b => mulHigh a b)) s

/-- MULHU. -/
def execMulhu (h : Fin 128) (rd rs1 rs2 : Fin 32) (s : State) : Result :=
  attempt (aluTwo h 0x012 rd rs1 rs2 (fun a b => mulHighU a b)) s

/-- DIV. -/
def execDiv (h : Fin 128) (rd rs1 rs2 : Fin 32) (s : State) : Result :=
  attempt (aluTwo h 0x014 rd rs1 rs2 (fun a b => divS a b)) s

/-- DIVU. -/
def execDivu (h : Fin 128) (rd rs1 rs2 : Fin 32) (s : State) : Result :=
  attempt (aluTwo h 0x015 rd rs1 rs2 (fun a b => divU a b)) s

/-- REM. -/
def execRem (h : Fin 128) (rd rs1 rs2 : Fin 32) (s : State) : Result :=
  attempt (aluTwo h 0x016 rd rs1 rs2 (fun a b => remS a b)) s

/-- REMU. -/
def execRemu (h : Fin 128) (rd rs1 rs2 : Fin 32) (s : State) : Result :=
  attempt (aluTwo h 0x017 rd rs1 rs2 (fun a b => remU a b)) s

/-- CLZ. -/
def execClz (h : Fin 128) (rd rs1 rs2 : Fin 32) (s : State) : Result :=
  attempt (aluOne h 0x020 rd rs1 rs2 (fun a => BitVec.ofNat 64 (clz64 a))) s

/-- CTZ. -/
def execCtz (h : Fin 128) (rd rs1 rs2 : Fin 32) (s : State) : Result :=
  attempt (aluOne h 0x021 rd rs1 rs2 (fun a => BitVec.ofNat 64 (lowestBit 64 a.toNat))) s

/-- POPC. -/
def execPopc (h : Fin 128) (rd rs1 rs2 : Fin 32) (s : State) : Result :=
  attempt (aluOne h 0x022 rd rs1 rs2 (fun a => BitVec.ofNat 64 (popCount 64 a.toNat))) s

/-- BSWAP. -/
def execBswap (h : Fin 128) (rd rs1 rs2 : Fin 32) (s : State) : Result :=
  attempt (aluOne h 0x023 rd rs1 rs2 (fun a => bswap64 a)) s

/-! ### Immediates (R218) -/

/-- A format I instruction on a register and IMM16. -/
def aluImm (h : Fin 128) (major : Nat) (rd rs1 : Fin 32) (imm : BitVec 16) (g : BitVec 64 → BitVec 64)
    (s : State) : Option State :=
  issue h.val (wordI major rd.val rs1.val imm.toNat) false
    (onRegs h.val 4 (fun r => some (r.wx rd.val (g (r.rx rs1.val))))) s

/-- ADDI. -/
def execAddi (h : Fin 128) (rd rs1 : Fin 32) (imm : BitVec 16) (s : State) : Result :=
  attempt (aluImm h 0x01 rd rs1 imm (fun a => a + imm64 imm)) s

/-- ANDI. -/
def execAndi (h : Fin 128) (rd rs1 : Fin 32) (imm : BitVec 16) (s : State) : Result :=
  attempt (aluImm h 0x02 rd rs1 imm (fun a => a &&& imm64 imm)) s

/-- ORI. -/
def execOri (h : Fin 128) (rd rs1 : Fin 32) (imm : BitVec 16) (s : State) : Result :=
  attempt (aluImm h 0x03 rd rs1 imm (fun a => a ||| imm.setWidth 64)) s

/-- XORI. -/
def execXori (h : Fin 128) (rd rs1 : Fin 32) (imm : BitVec 16) (s : State) : Result :=
  attempt (aluImm h 0x04 rd rs1 imm (fun a => a ^^^ imm.setWidth 64)) s

/-- SLTI. -/
def execSlti (h : Fin 128) (rd rs1 : Fin 32) (imm : BitVec 16) (s : State) : Result :=
  attempt (aluImm h 0x05 rd rs1 imm (fun a => flag64 (decide (a.toInt < (imm64 imm).toInt)))) s

/-- SLTIU. -/
def execSltiu (h : Fin 128) (rd rs1 : Fin 32) (imm : BitVec 16) (s : State) : Result :=
  attempt (aluImm h 0x06 rd rs1 imm (fun a => flag64 (decide (a.toNat < (imm64 imm).toNat)))) s

/-- An immediate shift: IMM16[7:6] name it, IMM16[15:8] must be 0. -/
def shiftImm (h : Fin 128) (op : Nat) (rd rs1 : Fin 32) (imm : BitVec 16) (g : BitVec 64 → Nat → BitVec 64)
    (s : State) : Option State :=
  let i := setField imm.toNat 6 2 op
  issue h.val (wordI 0x07 rd.val rs1.val i) false
    (onRegs h.val 4 (fun r => if field i 8 8 ≠ 0 then none
      else some (r.wx rd.val (g (r.rx rs1.val) (i % 64))))) s

/-- SLLI. -/
def execSlli (h : Fin 128) (rd rs1 : Fin 32) (imm : BitVec 16) (s : State) : Result :=
  attempt (shiftImm h 0 rd rs1 imm (fun a n => a <<< n)) s

/-- SRLI. -/
def execSrli (h : Fin 128) (rd rs1 : Fin 32) (imm : BitVec 16) (s : State) : Result :=
  attempt (shiftImm h 1 rd rs1 imm (fun a n => a >>> n)) s

/-- SRAI. -/
def execSrai (h : Fin 128) (rd rs1 : Fin 32) (imm : BitVec 16) (s : State) : Result :=
  attempt (shiftImm h 2 rd rs1 imm (fun a n => a.sshiftRight n)) s

/-- LUI: RS1 must be 0. -/
def execLui (h : Fin 128) (rd rs1 : Fin 32) (imm : BitVec 16) (s : State) : Result :=
  attempt (issue h.val (wordI 0x08 rd.val rs1.val imm.toNat) false
    (onRegs h.val 4 (fun r => if rs1.val ≠ 0 then none
      else some (r.wx rd.val (imm64 imm <<< 16))))) s

/-- JALR (R222): the target is read before RD is written. -/
def execJalr (h : Fin 128) (rd rs1 : Fin 32) (imm : BitVec 16) (s : State) : Result :=
  attempt (issue h.val (wordI 0x09 rd.val rs1.val imm.toNat) false (fun s =>
    let r := hregs s h.val
    let target := (r.rx rs1.val + imm64 imm) &&& ~~~(3 : BitVec 64)
    (hcnt (setHregs s h.val { r.wx rd.val (r.pc + 4) with pc := target }) h.val 1 3, none))) s

/-! ### The long form (R217, R221) -/

/-- A long-form instruction: AUX must be 0, and with `zero` RS1 too. -/
def longForm (h : Fin 128) (sub : Nat) (rd rs1 : Fin 32) (aux : BitVec 11) (zero : Bool)
    (g : BitVec 64 → BitVec 64 → BitVec 64) (s : State) : Option State :=
  issue h.val (wordL rd.val rs1.val sub aux.toNat) true
    (onRegs h.val 8 (fun r => if aux ≠ 0 || (zero && rs1.val != 0) then none
      else some (r.wx rd.val (g (r.rx rd.val) (r.rx rs1.val))))) s

/-- LI. -/
def execLi (h : Fin 128) (rd rs1 : Fin 32) (aux : BitVec 11) (imm : BitVec 32) (s : State) : Result :=
  attempt (longForm h 0 rd rs1 aux true (fun _old _ => imm32s imm)) s

/-- LIU. -/
def execLiu (h : Fin 128) (rd rs1 : Fin 32) (aux : BitVec 11) (imm : BitVec 32) (s : State) : Result :=
  attempt (longForm h 1 rd rs1 aux true (fun _old _ => imm.setWidth 64)) s

/-- LIH. -/
def execLih (h : Fin 128) (rd rs1 : Fin 32) (aux : BitVec 11) (imm : BitVec 32) (s : State) : Result :=
  attempt (longForm h 2 rd rs1 aux true (fun old _ => imm ++ old.setWidth 32)) s

/-- ADDIL. -/
def execAddil (h : Fin 128) (rd rs1 : Fin 32) (aux : BitVec 11) (imm : BitVec 32) (s : State) : Result :=
  attempt (longForm h 3 rd rs1 aux false (fun _old a => a + imm32s imm)) s

end Sys2Proof.Machine
end

