-- ==== Sys2Proof/Machine/HoundSystem.lean ====
section
/-! DEFINITION. Meanings of a Hound's control-register and system instructions (R211,
R212, R218, R220), and of a reserved instruction word (R217 to R221, R251 to R268). -/

namespace Sys2Proof.Machine

open Sys2Proof

/-! ### CSR (R211, R218) -/

/-- A CSR instruction; `new` makes the value to write from the old one and RS1, or
nothing is written. -/
def csrOp (h : Fin 128) (op : Nat) (rd rs1 : Fin 32) (rsv : BitVec 2) (num : BitVec 12)
    (new : BitVec 64 → BitVec 64 → Option (BitVec 64)) (s : State) : Option State :=
  let word := wordI 0x0A rd.val rs1.val (op * 2 ^ 14 + rsv.toNat * 2 ^ 12 + num.toNat)
  issue h.val word false (fun s =>
    let x := hound s h.val
    let r := x.regs
    let n := num.toNat
    let go := fun (r : HoundRegs) (window : Nat) (old : BitVec 64) =>
      (modHound s h.val (fun x => { x with
        regs := advance (r.wx rd.val old) (r.pc.toNat + 4), window }), (none : Option Trap))
    match csrGet r x.privCeil n with
    | none => (s, some illegal)
    | some old =>
      if rsv ≠ 0 then (s, some illegal)
      else
        match new old (r.rx rs1.val) with
        | none => if r.smode || csrUserRead n then go r x.window old else (s, some privileged)
        | some v =>
          if !csrMayWrite r.smode n then (s, some privileged)
          else
            match csrPut r x.window (niMax s) n v with
            | none => (s, some illegal)
            | some (r, window) => go r window old) s

/-- CSR_SWAP. -/
def execCsrSwap (h : Fin 128) (rd rs1 : Fin 32) (rsv : BitVec 2) (num : BitVec 12) (s : State) : Result :=
  attempt (csrOp h 0 rd rs1 rsv num (fun _ a => some a)) s

/-- CSR_SET. -/
def execCsrSet (h : Fin 128) (rd rs1 : Fin 32) (rsv : BitVec 2) (num : BitVec 12) (s : State) : Result :=
  attempt (csrOp h 1 rd rs1 rsv num (fun old a => some (old ||| a))) s

/-- CSR_CLEAR. -/
def execCsrClear (h : Fin 128) (rd rs1 : Fin 32) (rsv : BitVec 2) (num : BitVec 12) (s : State) : Result :=
  attempt (csrOp h 2 rd rs1 rsv num (fun old a => some (old &&& ~~~a))) s

/-- CSR_READ. -/
def execCsrRead (h : Fin 128) (rd rs1 : Fin 32) (rsv : BitVec 2) (num : BitVec 12) (s : State) : Result :=
  attempt (csrOp h 3 rd rs1 rsv num (fun _ _ => none)) s

/-! ### SYS (R220) -/

/-- SYSCALL; the service number is its argument. -/
def execSyscall (h : Fin 128) (rd rs1 : Fin 32) (arg : BitVec 12) (s : State) : Result :=
  attempt (issue h.val (wordSys 0 rd rs1 arg) false (fun s =>
    if rd.val ≠ 0 || rs1.val ≠ 0 then (s, some illegal) else (s, some { cause := cSyscall }))) s

/-- ERET (R286, R287). -/
def execEret (h : Fin 128) (rd rs1 : Fin 32) (arg : BitVec 12) (s : State) : Result :=
  let word := wordSys 1 rd rs1 arg
  attempt (issue h.val word false (fun s =>
    if rd.val ≠ 0 || rs1.val ≠ 0 || arg ≠ 0 then (s, some illegal)
    else if !(hregs s h.val).smode then (s, some privileged)
    else (returnExc s h.val word, none))) s

/-- FENCE (R216). -/
def execFence (h : Fin 128) (rd rs1 : Fin 32) (arg : BitVec 12) (s : State) : Result :=
  attempt (issue h.val (wordSys 2 rd rs1 arg) false (fun s =>
    if rd.val ≠ 0 || rs1.val ≠ 0 || 4 ≤ arg.toNat then (s, some illegal)
    else
      let s := if arg.getLsbD 0 then l1WriteBack s h.val else s
      let s := if arg.getLsbD 1 then l1DropClean s h.val else s
      let r := hregs s h.val
      (setHregs s h.val (advance r (r.pc.toNat + 4)), none))) s

/-- WFI (R283). -/
def execWfi (h : Fin 128) (rd rs1 : Fin 32) (arg : BitVec 12) (s : State) : Result :=
  attempt (issue h.val (wordSys 3 rd rs1 arg) false (fun s =>
    if rd.val ≠ 0 || rs1.val ≠ 0 || arg ≠ 0 then (s, some illegal)
    else if !(hregs s h.val).smode then (s, some privileged)
    else (endWfi (modHound s h.val (fun x => { x with wfi := true })) h.val, none))) s

/-! ### Reserved words -/

/-- A vector word whose group has no instruction at its FN (R251 to R268). -/
def vectorReserved (major w : Nat) : Bool :=
  let fn := w % 32
  if major = 0x20 || major = 0x21 then 0x10 < fn
  else if major = 0x23 then 7 < fn
  else if major = 0x30 then 5 < fn
  else if major = 0x31 then 8 < fn
  else if major = 0x32 || major = 0x33 then 4 < field w 2 3
  else if major = 0x36 then 6 < fn
  else if major = 0x37 then 3 < fn
  else if major = 0x38 then fn == 7 || 10 < fn
  else if major = 0x39 then 5 < fn % 8
  else 0x3A ≤ major

/-- A word with a reserved MAJOR, FUNC, SUB or vector encoding (R218 to R221). -/
def wordReserved (w : Nat) : Bool :=
  let major := field w 26 6
  let func := w % 2 ^ 11
  if major = 0 then
    !(func ≤ 0x0D || (0x10 ≤ func && func ≤ 0x12) || (0x14 ≤ func && func ≤ 0x17) ||
      (0x20 ≤ func && func ≤ 0x23))
  else if major = 0x07 then field w 6 2 == 3
  else if major = 0x0B then 5 < field w 12 4
  else if major = 0x3F then 4 < field w 11 5
  else if 0x20 ≤ major then vectorReserved major w
  else false

/-- RESERVED_INSTRUCTION; a reserved SUB is that of a long form. -/
def execReservedInstruction (h : Fin 128) (word : BitVec 32) (s : State) : Result :=
  attempt (fun s =>
    if wordReserved word.toNat then
      issue h.val word.toNat (field word.toNat 26 6 == 0x3F) (fun s => (s, some illegal)) s
    else none) s

end Sys2Proof.Machine
end

