-- ==== Sys2Proof/Machine/HoundVector.lean ====
section
/-! DEFINITION. Meanings of a Hound's vector instructions on registers (R240 to R260,
R265 to R269). -/

namespace Sys2Proof.Machine

open Sys2Proof

/-- What a vector instruction has done, with its counts (R269). -/
def vectorDone (s : State) (h : Nat) (d : VDone) (r : HoundRegs) : State :=
  hcnt (hcnt (setHregs s h r) h 4 d.passes) h 5 (b2n d.sat)

/-- It has run to its end. -/
def vectorEnd (s : State) (h : Nat) (d : VDone) : State :=
  vectorDone s h d (advance d.regs ((hregs s h).pc.toNat + 4))

/-- A vector instruction that `g` performs on the registers, and that always runs to its
end (R248); none where it is illegal. -/
def vectorOp (h : Fin 128) (major fn : Nat) (f : VFields) (g : VFields → HoundRegs → Option VDone)
    (s : State) : Option State :=
  issue h.val (wordV major f fn) false (fun s =>
    match g f (hregs s h.val) with
    | none => (s, some illegal)
    | some d => (vectorEnd s h.val d, none)) s

/-- An element-wise one: a line may be taken between its issue HCLK, when the passes before
are those of the same instruction under a shorter VLEN (R245, R248). -/
def vectorWise (h : Fin 128) (major fn : Nat) (f : VFields) (g : VFields → HoundRegs → Option VDone)
    (s : State) : Option State :=
  issue h.val (wordV major f fn) false (fun s =>
    let r := hregs s h.val
    match g f r with
    | none => (s, some illegal)
    | some d =>
      let (cut, s) := cutPass s h.val
      match cut.bind (fun m => (g f { r with vlen := BitVec.ofNat _ (512 * m) }).map (fun e => (m, e))) with
      | none => (vectorEnd s h.val d, none)
      | some (m, e) => (takeInside (vectorDone s h.val e { e.regs with vlen := r.vlen }) h.val m, none)) s

/-! ### VALU (R253) -/

/-- VADD. -/
def execVadd (h : Fin 128) (scal : Bool) (f : VFields) (s : State) : Result :=
  attempt (vectorWise h (0x20 + b2n scal) 0x00 f (vAlu 0x00 scal)) s

/-- VSUB. -/
def execVsub (h : Fin 128) (scal : Bool) (f : VFields) (s : State) : Result :=
  attempt (vectorWise h (0x20 + b2n scal) 0x01 f (vAlu 0x01 scal)) s

/-- VAND. -/
def execVand (h : Fin 128) (scal : Bool) (f : VFields) (s : State) : Result :=
  attempt (vectorWise h (0x20 + b2n scal) 0x02 f (vAlu 0x02 scal)) s

/-- VOR. -/
def execVor (h : Fin 128) (scal : Bool) (f : VFields) (s : State) : Result :=
  attempt (vectorWise h (0x20 + b2n scal) 0x03 f (vAlu 0x03 scal)) s

/-- VXOR. -/
def execVxor (h : Fin 128) (scal : Bool) (f : VFields) (s : State) : Result :=
  attempt (vectorWise h (0x20 + b2n scal) 0x04 f (vAlu 0x04 scal)) s

/-- VANDN. -/
def execVandn (h : Fin 128) (scal : Bool) (f : VFields) (s : State) : Result :=
  attempt (vectorWise h (0x20 + b2n scal) 0x05 f (vAlu 0x05 scal)) s

/-- VSLL. -/
def execVsll (h : Fin 128) (scal : Bool) (f : VFields) (s : State) : Result :=
  attempt (vectorWise h (0x20 + b2n scal) 0x06 f (vAlu 0x06 scal)) s

/-- VSRL. -/
def execVsrl (h : Fin 128) (scal : Bool) (f : VFields) (s : State) : Result :=
  attempt (vectorWise h (0x20 + b2n scal) 0x07 f (vAlu 0x07 scal)) s

/-- VSRA. -/
def execVsra (h : Fin 128) (scal : Bool) (f : VFields) (s : State) : Result :=
  attempt (vectorWise h (0x20 + b2n scal) 0x08 f (vAlu 0x08 scal)) s

/-- VMIN. -/
def execVmin (h : Fin 128) (scal : Bool) (f : VFields) (s : State) : Result :=
  attempt (vectorWise h (0x20 + b2n scal) 0x09 f (vAlu 0x09 scal)) s

/-- VMAX. -/
def execVmax (h : Fin 128) (scal : Bool) (f : VFields) (s : State) : Result :=
  attempt (vectorWise h (0x20 + b2n scal) 0x0A f (vAlu 0x0A scal)) s

/-- VMINU. -/
def execVminu (h : Fin 128) (scal : Bool) (f : VFields) (s : State) : Result :=
  attempt (vectorWise h (0x20 + b2n scal) 0x0B f (vAlu 0x0B scal)) s

/-- VMAXU. -/
def execVmaxu (h : Fin 128) (scal : Bool) (f : VFields) (s : State) : Result :=
  attempt (vectorWise h (0x20 + b2n scal) 0x0C f (vAlu 0x0C scal)) s

/-- VMUL. -/
def execVmul (h : Fin 128) (scal : Bool) (f : VFields) (s : State) : Result :=
  attempt (vectorWise h (0x20 + b2n scal) 0x0D f (vAlu 0x0D scal)) s

/-- VMULH. -/
def execVmulh (h : Fin 128) (scal : Bool) (f : VFields) (s : State) : Result :=
  attempt (vectorWise h (0x20 + b2n scal) 0x0E f (vAlu 0x0E scal)) s

/-- VMULHU. -/
def execVmulhu (h : Fin 128) (scal : Bool) (f : VFields) (s : State) : Result :=
  attempt (vectorWise h (0x20 + b2n scal) 0x0F f (vAlu 0x0F scal)) s

/-- VRSUB. -/
def execVrsub (h : Fin 128) (scal : Bool) (f : VFields) (s : State) : Result :=
  attempt (vectorWise h (0x20 + b2n scal) 0x10 f (vAlu 0x10 scal)) s

/-! ### VSAT (R256): RM stands in FN[4:3] -/

/-- SADD. -/
def execSadd (h : Fin 128) (rm : BitVec 2) (f : VFields) (s : State) : Result :=
  attempt (vectorWise h 0x22 (8 * rm.toNat + 0) f (vSat 0 rm.toNat)) s

/-- SSUB. -/
def execSsub (h : Fin 128) (rm : BitVec 2) (f : VFields) (s : State) : Result :=
  attempt (vectorWise h 0x22 (8 * rm.toNat + 1) f (vSat 1 rm.toNat)) s

/-- UADD. -/
def execUadd (h : Fin 128) (rm : BitVec 2) (f : VFields) (s : State) : Result :=
  attempt (vectorWise h 0x22 (8 * rm.toNat + 2) f (vSat 2 rm.toNat)) s

/-- USUB. -/
def execUsub (h : Fin 128) (rm : BitVec 2) (f : VFields) (s : State) : Result :=
  attempt (vectorWise h 0x22 (8 * rm.toNat + 3) f (vSat 3 rm.toNat)) s

/-- AVG. -/
def execAvg (h : Fin 128) (rm : BitVec 2) (f : VFields) (s : State) : Result :=
  attempt (vectorWise h 0x22 (8 * rm.toNat + 4) f (vSat 4 rm.toNat)) s

/-- SABS. -/
def execSabs (h : Fin 128) (rm : BitVec 2) (f : VFields) (s : State) : Result :=
  attempt (vectorWise h 0x22 (8 * rm.toNat + 5) f (vSat 5 rm.toNat)) s

/-- SNEG. -/
def execSneg (h : Fin 128) (rm : BitVec 2) (f : VFields) (s : State) : Result :=
  attempt (vectorWise h 0x22 (8 * rm.toNat + 6) f (vSat 6 rm.toNat)) s

/-- SSHL. -/
def execSshl (h : Fin 128) (rm : BitVec 2) (f : VFields) (s : State) : Result :=
  attempt (vectorWise h 0x22 (8 * rm.toNat + 7) f (vSat 7 rm.toNat)) s

/-! ### Compares and VQ (R257, R258) -/

/-- VCMP. -/
def execVcmp (h : Fin 128) (fn : BitVec 5) (f : VFields) (s : State) : Result :=
  attempt (vectorWise h 0x23 fn.toNat f (vCmp fn.toNat)) s

/-- VQMUL. -/
def execVqmul (h : Fin 128) (rm : BitVec 2) (sh : BitVec 5) (f : VFields) (s : State) : Result :=
  attempt (vectorWise h (0x24 + rm.toNat) sh.toNat f (vQmul rm.toNat sh.toNat)) s

/-- VQSHR. -/
def execVqshr (h : Fin 128) (rm : BitVec 2) (sh : BitVec 5) (f : VFields) (s : State) : Result :=
  attempt (vectorWise h (0x28 + rm.toNat) sh.toNat f (vQshr rm.toNat sh.toNat)) s

/-- VQNRW. -/
def execVqnrw (h : Fin 128) (rm : BitVec 2) (sh : BitVec 5) (f : VFields) (s : State) : Result :=
  attempt (vectorWise h (0x2C + rm.toNat) sh.toNat f (vQnrw rm.toNat sh.toNat)) s

/-! ### VMISC (R259) -/

/-- VMV. -/
def execVmv (h : Fin 128) (f : VFields) (s : State) : Result := attempt (vectorWise h 0x30 0 f vMove) s

/-- VMERGE. -/
def execVmerge (h : Fin 128) (f : VFields) (s : State) : Result := attempt (vectorWise h 0x30 1 f vMerge) s

/-- VBCAST. -/
def execVbcast (h : Fin 128) (f : VFields) (s : State) : Result := attempt (vectorWise h 0x30 2 f vBcast) s

/-- VID. -/
def execVid (h : Fin 128) (f : VFields) (s : State) : Result := attempt (vectorWise h 0x30 3 f vIndex) s

/-- VEXT. -/
def execVext (h : Fin 128) (f : VFields) (s : State) : Result := attempt (vectorOp h 0x30 4 f vExt) s

/-- VINS. -/
def execVins (h : Fin 128) (f : VFields) (s : State) : Result := attempt (vectorOp h 0x30 5 f vIns) s

/-! ### VMASK (R260) -/

/-- MAND. -/
def execMand (h : Fin 128) (f : VFields) (s : State) : Result :=
  attempt (vectorOp h 0x31 0 f (mLogic true (fun a b => a &&& b))) s

/-- MOR. -/
def execMor (h : Fin 128) (f : VFields) (s : State) : Result :=
  attempt (vectorOp h 0x31 1 f (mLogic true (fun a b => a ||| b))) s

/-- MXOR. -/
def execMxor (h : Fin 128) (f : VFields) (s : State) : Result :=
  attempt (vectorOp h 0x31 2 f (mLogic true (fun a b => a ^^^ b))) s

/-- MANDN. -/
def execMandn (h : Fin 128) (f : VFields) (s : State) : Result :=
  attempt (vectorOp h 0x31 3 f (mLogic true (fun a b => a &&& ~~~b))) s

/-- MNOT. -/
def execMnot (h : Fin 128) (f : VFields) (s : State) : Result :=
  attempt (vectorOp h 0x31 4 f (mLogic false (fun a _ => ~~~a))) s

/-- MPOP. -/
def execMpop (h : Fin 128) (f : VFields) (s : State) : Result :=
  attempt (vectorOp h 0x31 5 f (mToX (fun a => BitVec.ofNat 64 (popCount 64 a.toNat)))) s

/-- MFIRST. -/
def execMfirst (h : Fin 128) (f : VFields) (s : State) : Result :=
  attempt (vectorOp h 0x31 6 f (mToX (fun a => BitVec.ofNat 64 (lowestBit 64 a.toNat)))) s

/-- MFROMX. -/
def execMfromx (h : Fin 128) (f : VFields) (s : State) : Result :=
  attempt (vectorOp h 0x31 7 f mFromX) s

/-- MTOX. -/
def execMtox (h : Fin 128) (f : VFields) (s : State) : Result :=
  attempt (vectorOp h 0x31 8 f (mToX (fun a => a))) s

/-! ### Reductions and permutes (R265, R266) -/

/-- VRED_SUM. -/
def execVredSum (h : Fin 128) (f : VFields) (s : State) : Result :=
  attempt (vectorOp h 0x36 0 f (vRed 0)) s

/-- VRED_SUMU. -/
def execVredSumu (h : Fin 128) (f : VFields) (s : State) : Result :=
  attempt (vectorOp h 0x36 1 f (vRed 1)) s

/-- VRED_SSUM. -/
def execVredSsum (h : Fin 128) (f : VFields) (s : State) : Result :=
  attempt (vectorOp h 0x36 2 f (vRed 2)) s

/-- VRED_MIN. -/
def execVredMin (h : Fin 128) (f : VFields) (s : State) : Result :=
  attempt (vectorOp h 0x36 3 f (vRed 3)) s

/-- VRED_MAX. -/
def execVredMax (h : Fin 128) (f : VFields) (s : State) : Result :=
  attempt (vectorOp h 0x36 4 f (vRed 4)) s

/-- VRED_MINU. -/
def execVredMinu (h : Fin 128) (f : VFields) (s : State) : Result :=
  attempt (vectorOp h 0x36 5 f (vRed 5)) s

/-- VRED_MAXU. -/
def execVredMaxu (h : Fin 128) (f : VFields) (s : State) : Result :=
  attempt (vectorOp h 0x36 6 f (vRed 6)) s

/-- VSLDN. -/
def execVsldn (h : Fin 128) (f : VFields) (s : State) : Result := attempt (vectorOp h 0x37 0 f vSlideDown) s

/-- VSLUP. -/
def execVslup (h : Fin 128) (f : VFields) (s : State) : Result := attempt (vectorOp h 0x37 1 f vSlideUp) s

/-- VPERM. -/
def execVperm (h : Fin 128) (f : VFields) (s : State) : Result := attempt (vectorOp h 0x37 2 f vPerm) s

/-- VCOMPRESS. -/
def execVcompress (h : Fin 128) (f : VFields) (s : State) : Result := attempt (vectorOp h 0x37 3 f vCompress) s

/-! ### Floating point and conversion (R267, R268) -/

/-- FADD. -/
def execFadd (h : Fin 128) (f : VFields) (s : State) : Result := attempt (vectorWise h 0x38 0 f (vFloat fAdd)) s

/-- FSUB. -/
def execFsub (h : Fin 128) (f : VFields) (s : State) : Result := attempt (vectorWise h 0x38 1 f (vFloat fSub)) s

/-- FMUL. -/
def execFmul (h : Fin 128) (f : VFields) (s : State) : Result := attempt (vectorWise h 0x38 2 f (vFloat fMul)) s

/-- FMIN. -/
def execFmin (h : Fin 128) (f : VFields) (s : State) : Result := attempt (vectorWise h 0x38 3 f (vFloat fMin)) s

/-- FMAX. -/
def execFmax (h : Fin 128) (f : VFields) (s : State) : Result := attempt (vectorWise h 0x38 4 f (vFloat fMax)) s

/-- FABS. -/
def execFabs (h : Fin 128) (f : VFields) (s : State) : Result := attempt (vectorWise h 0x38 5 f (vFloat1 fMag)) s

/-- FNEG. -/
def execFneg (h : Fin 128) (f : VFields) (s : State) : Result := attempt (vectorWise h 0x38 6 f (vFloat1 fNegate)) s

/-- FEQ. -/
def execFeq (h : Fin 128) (f : VFields) (s : State) : Result := attempt (vectorWise h 0x38 8 f (vFcmp fEq)) s

/-- FLT. -/
def execFlt (h : Fin 128) (f : VFields) (s : State) : Result := attempt (vectorWise h 0x38 9 f (vFcmp fLt)) s

/-- FLE. -/
def execFle (h : Fin 128) (f : VFields) (s : State) : Result := attempt (vectorWise h 0x38 10 f (vFcmp fLe)) s

/-- I2F. -/
def execI2f (h : Fin 128) (rm : BitVec 2) (f : VFields) (s : State) : Result :=
  attempt (vectorWise h 0x39 (8 * rm.toNat + 0) f (vI2f rm.toNat)) s

/-- F2I. -/
def execF2i (h : Fin 128) (rm : BitVec 2) (f : VFields) (s : State) : Result :=
  attempt (vectorWise h 0x39 (8 * rm.toNat + 1) f (vF2i rm.toNat)) s

/-- SWLO. -/
def execSwlo (h : Fin 128) (rm : BitVec 2) (f : VFields) (s : State) : Result :=
  attempt (vectorWise h 0x39 (8 * rm.toNat + 2) f (vWiden rm.toNat false true)) s

/-- SWHI. -/
def execSwhi (h : Fin 128) (rm : BitVec 2) (f : VFields) (s : State) : Result :=
  attempt (vectorWise h 0x39 (8 * rm.toNat + 3) f (vWiden rm.toNat true true)) s

/-- UWLO. -/
def execUwlo (h : Fin 128) (rm : BitVec 2) (f : VFields) (s : State) : Result :=
  attempt (vectorWise h 0x39 (8 * rm.toNat + 4) f (vWiden rm.toNat false false)) s

/-- UWHI. -/
def execUwhi (h : Fin 128) (rm : BitVec 2) (f : VFields) (s : State) : Result :=
  attempt (vectorWise h 0x39 (8 * rm.toNat + 5) f (vWiden rm.toNat true false)) s

end Sys2Proof.Machine
end

