-- ==== Sys2Proof/Machine/HoundVectorMem.lean ====
section
/-! DEFINITION. Meanings of a Hound's vector loads and stores (R249, R250, R261 to
R264): passes in order, each checked whole before anything of it is done. -/

namespace Sys2Proof.Machine

open Sys2Proof

/-- An access of a vector instruction: the element, its byte address, and the register
group and element in which its data stands. -/
structure VAccess where
  elem : Nat
  addr : Nat
  group : Nat
  deriving DecidableEq, Repr

/-- A vector memory instruction once its operands are known: the element width, the
accesses of an element, and the number of its field groups. -/
structure VMem where
  w : Nat
  fields : Nat
  addr : Nat → Nat → Nat
  /-- Strided and indexed accesses count as elements (R269). -/
  counted : Bool
  /-- Elements are read one after the other up to one that faults (R263). -/
  gather : Bool := false

/-- The active accesses of pass `j`, elements in ascending order. -/
def passAccesses (r : HoundRegs) (f : VFields) (m : VMem) (j : Nat) : List VAccess :=
  let n := 512 / m.w
  ((List.range n).map (fun i => j * n + i)).flatMap (fun e =>
    if active r f n e then
      (List.range m.fields).map (fun g => { elem := e, addr := m.addr e g % 2 ^ 64, group := f.vd.val + g * r.vk })
    else [])

/-- The trap of the lowest faulting access of a pass. -/
def passTrap (s : State) (h : Nat) (acc : Acc) (w : Nat) (l : List VAccess) : Option Trap :=
  l.findSome? (fun a => accessTrap s h acc a.addr (w / 8) (some a.elem))

/-- Element `e` of the group at `v` replaced. -/
def vSetElem (r : HoundRegs) (v w e x : Nat) : HoundRegs :=
  let n := 512 / w
  let old := (r.rv (v + e / n)).toNat
  { r with v := r.v.set (v + e / n) (BitVec.ofNat 512 (setField old (w * (e % n)) w x)) }

/-- A pass of loads. -/
def loadPass (h w : Nat) : List VAccess → State → State
  | [], s => s
  | a :: l, s =>
    let (b, s) := houndLoad s h a.addr (w / 8)
    loadPass h w l (setHregs s h (vSetElem (hregs s h) a.group w a.elem (leNat b)))

/-- A pass of stores. -/
def storePass (h w : Nat) : List VAccess → State → State
  | [], s => s
  | a :: l, s =>
    storePass h w l (houndStore s h a.addr (toLe (w / 8) (vElem (hregs s h) a.group w a.elem)))

/-- Accesses of a pass that come before the first that faults. -/
def passPrefix (s : State) (h : Nat) (acc : Acc) (w : Nat) (l : List VAccess) : List VAccess :=
  l.takeWhile (fun a => (accessTrap s h acc a.addr (w / 8) (some a.elem)).isNone)

/-- Accesses that leave no trace in a register: their lines are read, and count. -/
def readOnly (h : Nat) (m : VMem) (l : List VAccess) (s : State) : State :=
  let s := l.foldl (fun s a => (houndLoad s h a.addr (m.w / 8)).2) s
  if m.counted then hcnt s h 6 l.length else s

/-- Passes from `j` on, `left` of them (R249): a fault keeps the passes before it, and
leaves DONE at its number. -/
def memPasses (h : Nat) (acc : Acc) (f : VFields) (m : VMem) : Nat → Nat → Body
  | 0, _, s => (s, none)
  | left + 1, j, s =>
    let l := passAccesses (hregs s h) f m j
    match passTrap s h acc m.w l with
    | some t =>
      let s := if m.gather then readOnly h m (passPrefix s h acc m.w l) s else s
      (setHregs s h ((hregs s h).setVdone j), some t)
    | none =>
      let s := if decide (acc = .store) then storePass h m.w l s else loadPass h m.w l s
      let s := hcnt s h 4 1
      memPasses h acc f m left (j + 1) (if m.counted then hcnt s h 6 l.length else s)

/-- A part of pass `j` is done before a line is taken: nothing of it reaches a register, and
a store pass is written again in full on resume (R280). -/
def partPass (h : Nat) (acc : Acc) (f : VFields) (m : VMem) (j n : Nat) (s : State) : State :=
  let l := passAccesses (hregs s h) f m j
  let ok := passPrefix s h acc m.w l
  if decide (acc = .store) then
    if ok.length < l.length then s
    else
      let l := l.take (n % (l.length + 1))
      let s := storePass h m.w l s
      if m.counted then hcnt s h 6 l.length else s
  else readOnly h m (ok.take (n % (ok.length + 1))) s

/-- The pass of a memory instruction inside which a line is taken, and how far that pass has
come; none where the instruction ends first (R248, R280). (DEDUCED, safe: log entry 32.) -/
def cutMem (s : State) (h : Nat) : Option (Nat × Nat) × State :=
  let r := hregs s h
  let d := min r.vdone r.vk
  if !lineReady s h || d = r.vk then (none, s)
  else
    let (n, s) := takeFree s
    let (p, s) := takeFree s
    let m := d + n % (r.vk - d + 1)
    (if m = r.vk then none else some (m, p), s)

/-- A vector memory instruction; none where it is illegal. -/
def vectorMem (h : Fin 128) (word : Nat) (acc : Acc) (f : VFields) (g : HoundRegs → Option VMem)
    (s : State) : Option State :=
  issue h.val word false (fun s =>
    let r := hregs s h.val
    match g r with
    | none => (s, some illegal)
    | some m =>
      let d := min r.vdone r.vk
      let (cut, s) := cutMem s h.val
      match memPasses h.val acc f m (((cut.map (·.1)).getD r.vk) - d) d s with
      | (s, some t) => (s, some t)
      | (s, none) =>
        match cut with
        | some (j, n) => (takeInside (partPass h.val acc f m j n s) h.val j, none)
        | none =>
          let r := (hregs s h.val).setVdone 0
          (setHregs s h.val (advance r (r.pc.toNat + 4)), none)) s

/-- The operands of VLD and VST (R261, R262). -/
def unitMem (kind : BitVec 3) (low : BitVec 2) (f : VFields) (r : HoundRegs) : Option VMem :=
  let w := ewBits f.ew.val
  let k := r.vk
  let base := (r.rx f.vs1.val).toNat
  let n := kind.toNat
  if low ≠ 0 || 5 ≤ n || (n != 1 && f.vs2.val != 0) || !maskOk f k ||
    !vFits f.vd.val (if 2 ≤ n then n * k else k) then none
  else if n = 0 then some { w, fields := 1, addr := fun e _ => base + e * (w / 8), counted := false }
  else if n = 1 then
    some { w, fields := 1, addr := fun e _ => base + e * (r.rx f.vs2.val).toNat, counted := true }
  else some { w, fields := n, addr := fun e g => base + (e * n + g) * (w / 8), counted := false }

/-- The operands of VGATHER and VSCATTER (R243, R263). -/
def indexMem (load : Bool) (isc : BitVec 2) (low : BitVec 3) (f : VFields) (r : HoundRegs) : Option VMem :=
  let w := ewBits f.ew.val
  let k := r.vk
  let base := (r.rx f.vs1.val).toNat
  if low ≠ 0 || !maskOk f k || !vFits f.vd.val k || !vFits f.vs2.val k ||
    (load && !apart f.vd.val k f.vs2.val k) then none
  else some { w, fields := 1, addr := fun e _ => base + vElem r f.vs2.val w e * 2 ^ isc.toNat, counted := true,
               gather := load }

/-- VLD. -/
def execVld (h : Fin 128) (kind : BitVec 3) (low : BitVec 2) (f : VFields) (s : State) : Result :=
  attempt (vectorMem h (wordV 0x32 f (kind.toNat * 4 + low.toNat)) .load f (unitMem kind low f)) s

/-- VST. -/
def execVst (h : Fin 128) (kind : BitVec 3) (low : BitVec 2) (f : VFields) (s : State) : Result :=
  attempt (vectorMem h (wordV 0x33 f (kind.toNat * 4 + low.toNat)) .store f (unitMem kind low f)) s

/-- VGATHER. -/
def execVgather (h : Fin 128) (isc : BitVec 2) (low : BitVec 3) (f : VFields) (s : State) : Result :=
  attempt (vectorMem h (wordV 0x34 f (isc.toNat * 8 + low.toNat)) .load f (indexMem true isc low f)) s

/-- VSCATTER. -/
def execVscatter (h : Fin 128) (isc : BitVec 2) (low : BitVec 3) (f : VFields) (s : State) : Result :=
  attempt (vectorMem h (wordV 0x35 f (isc.toNat * 8 + low.toNat)) .store f (indexMem false isc low f)) s

end Sys2Proof.Machine
end

