-- ==== Sys2Proof/Machine/Join.lean ====
section
/-! DEFINITION. Meanings of the join commands (R140 to R143). -/

namespace Sys2Proof.Machine

open Sys2Proof

/-- A join vertex, of a mode, that Shepherd `n` serves. -/
def servedJoin (s : State) (n : Fin 8) (mode : Nat) : Option Vx :=
  match servedIdle s (.she n) with
  | some x => if x.vert.kind = kShepherd ∧ sheMode x.vert.cfg = mode then some x else none
  | none => none

/-- The state after one tile of a join: its counts, and the output tiles that are full. -/
def joinTaken (s : State) (x : Vx) (n : Fin 8) (t : PTile) (st : JoinSt) (probed found : Nat) : State :=
  let s := cntShe (cntShe (noteDicts s x t) x 13 probed) x 14 found
  let (st, outs) := joinFlush x.vert.cfg x.job.kennel (outCap x.plan x.vid 0) false
    (st.outRows.length + 1) st
  finishOrigin (setEng s x (.join st)) x (.she n) outs

/-- A join vertex takes the item at the head of a port: a skip mark goes, a tile is
worked by `f`, which gives the new state and the rows probed and matched. -/
def joinTake (s : State) (x : Vx) (n : Fin 8) (port : Nat)
    (f : PTile → Except Nat (JoinSt × Nat × Nat)) : Option State :=
  match headSkip x port with
  | some _ => some (engineFree (popIn s x port) (.she n))
  | none =>
    match headTile x port with
    | none => none
    | some b =>
      let s' := popIn s x port
      match readTile s x b with
      | .error e => some (finishFail s' x (.she n) e)
      | .ok t =>
        match f t with
        | .error e => some (finishFail s' x (.she n) e)
        | .ok (st, probed, found) => some (joinTaken s' x n t st probed found)

/-- JOIN_BUILD_TILE (R141). -/
def execJoinBuildTile (she : Fin 8) (s : State) : Result :=
  attempt (fun s => (servedJoin s she 2).bind (fun x =>
    joinTake s x she 0 (fun t => (joinBuild x.vert.cfg (joinOf x.st) t).map (fun st => (st, 0, 0))))) s

/-- JOIN_PROBE_TILE (R141): port 0 has ended. -/
def execJoinProbeTile (she : Fin 8) (s : State) : Result :=
  attempt (fun s => (servedJoin s she 2).bind (fun x =>
    if !portEnded x 0 then none
    else joinTake s x she 1 (fun t =>
      (joinProbe x.vert.cfg (joinOf x.st) t).map (fun (st, found) => (st, t.rows, found))))) s

/-- WINJOIN_TILE (R142). -/
def execWinjoinTile (she : Fin 8) (port : Fin 2) (s : State) : Result :=
  attempt (fun s => (servedJoin s she 3).bind (fun x =>
    let other := 1 - port.val
    let ended := portEnded x other
    let st := if ended then winEnded other (joinOf x.st) else joinOf x.st
    joinTake s x she port.val (fun t =>
      (joinWindow x.vert.cfg port.val ended st t).map (fun (st, found) => (st, t.rows, found))))) s

end Sys2Proof.Machine
end

