-- ==== Sys2Proof/Machine/LeashXchg.lean ====
section
/-! DEFINITION. Meanings of the partition exchange (R482 to R486). -/

namespace Sys2Proof.Machine

open Sys2Proof

/-- An exchange frame that this node takes: it has a valid ID, and the frame is for it
(R472). -/
def exchTaken (s : State) (p : Nat) (h : LHdr) : Bool :=
  portUsable s p && nodeValid s && h.dst.toNat == nodeId s

/-- The vertex of this node that a frame is for. -/
def exchTarget (s : State) (h : LHdr) (key : Nat) : Option Vx :=
  exchFind s h.kennel.val h.channel.toNat key

/-- What came for a job not yet accepted here is kept (R484). -/
def exchEarly (s : State) (h : LHdr) (key : Nat) (f : ExchEarly → ExchEarly) : State :=
  if keyInUse s h.kennel.val h.channel.toNat key then s
  else
    let same := fun (r : ExchEarly) => r.kennel == h.kennel.val && r.channel == h.channel.toNat &&
      r.jobkey == key && r.src == h.src.toNat
    let new : ExchEarly := {
      kennel := h.kennel.val, channel := h.channel.toNat, jobkey := key, src := h.src.toNat }
    let r := f ((s.leash.early.find? same).getD new)
    { s with leash := { s.leash with early := s.leash.early.filter (fun e => !same e) ++ [r] } }

/-- XDATA: a piece of a tile; the last one completes it. -/
def execXdata (p : Fin 4) (hdr : LHdr) (jobkey : BitVec 64) (off total : Nat) (seq : BitVec 64)
    (data : Bytes) (s : State) : Result :=
  attempt (fun s =>
    if !exchTaken s p.val hdr then none
    else
      match exchTarget s hdr jobkey.toNat with
      | none => none
      | some x =>
        let src := hdr.src.toNat
        let e := exchOf x.st
        let part := (e.parts.find? (·.src == src)).getD { src, total, seq := seq.toNat, data := [] }
        let part : ExchIn := if off = 0 then { src, total, seq := seq.toNat, data := [] } else part
        if part.data.length ≠ off || total < off + data.length then none
        else
          let all := part.data ++ data
          let others := e.parts.filter (·.src != src)
          if all.length < part.total then
            some (modExch s x (fun e => { e with parts := others ++ [{ part with data := all }] }))
          else some (exchArrive (modExch s x (fun e => { e with parts := others })) x src all)) s

/-- XCREDIT: tiles that waited for credits go. -/
def execXcredit (p : Fin 4) (hdr : LHdr) (jobkey : BitVec 64) (n : Nat) (s : State) : Result :=
  attempt (fun s =>
    if !exchTaken s p.val hdr then none
    else
      let src := hdr.src.toNat
      match exchTarget s hdr jobkey.toNat with
      | none => some (exchEarly s hdr jobkey.toNat (fun r => { r with credits := r.credits + n }))
      | some x =>
        let s := modExch s x (fun e => { e with credits := tset e.credits src (tget e.credits src 0 + n) })
        some (exchWork s (again s x))) s

/-- XEND: a sender has sent its last tile. -/
def execXend (p : Fin 4) (hdr : LHdr) (jobkey : BitVec 64) (s : State) : Result :=
  attempt (fun s =>
    if !exchTaken s p.val hdr then none
    else
      match exchTarget s hdr jobkey.toNat with
      | none => some (exchEarly s hdr jobkey.toNat (fun r => { r with ended := true }))
      | some x => some (modExch s x (fun e => { e with ended := addNew e.ended hdr.src.toNat }))) s

/-- XABORT: the participant's job here fails with E_LSH_PEER (R486).
(DEDUCED, unsafe: log entry 62.) -/
def execXabort (p : Fin 4) (hdr : LHdr) (jobkey : BitVec 64) (_status : Nat) (s : State) : Result :=
  attempt (fun s =>
    if !exchTaken s p.val hdr then none
    else
      match exchTarget s hdr jobkey.toNat with
      | none => none
      | some x => some (failVx s x eLshPeer)) s

/-- LEASH_EXCH_TILE (R483, R484): the tile is partitioned, and goes where credits are
held. A skip mark goes no further. -/
def execLeashExchTile (v : VertexRef) (s : State) : Result :=
  attempt (fun s =>
    match liveVx s v with
    | none => none
    | some x =>
      if x.vert.kind ≠ kExch || !portReady x 0 || !(exchOf x.st).sends.isEmpty then none
      else
        match inHead x 0 with
        | some (.tile _ b) =>
          match readTile s x b with
          | .error e => some (failVx s x e)
          | .ok t =>
            match exchSplit x.vert.cfg t b with
            | .error e => some (failVx s x e)
            | .ok outs =>
              let s := popIn (noteDicts s x t) x 0
              some (exchWork (modExch s x (fun e => { e with sends := outs })) (again s x))
        | some (.skip _) => some (popIn s x 0)
        | _ => none) s

end Sys2Proof.Machine
end

