-- ==== Sys2Proof/Machine/Queues.lean ====
section
/-! DEFINITION. Meanings of the doorbells, the fetch, the entries of the work queues,
and the completion queues (R103, R201, R329, R372 to R385, R423). -/

namespace Sys2Proof.Machine

open Sys2Proof

/-! ### Doorbells and shadows -/

/-- WQ_DOORBELL (R376). -/
def execWqDoorbell (q : QueueRef) (s : State) : Result :=
  .next (hostAccess (ringWq · q.k.val q.w.val) s)

/-- PUSH_DOORBELL (R377, R378, R555): a push that does not cover all 64 bytes, or that
finds the push buffer in use, is a plain doorbell. -/
def execPushDoorbell (q : QueueRef) (data : Bytes) (full : Bool) (s : State) : Result :=
  attempt (fun s =>
    let k := q.k.val
    let w := q.w.val
    match wq? s k w with
    | none => none
    | some x =>
      if !takesDoors x || !barOpen s then none
      else if full && data.length == 64 && bitAt (le data 4 1) 0 && x.push.isNone && doorsOpen s k then
        let s := modWq (cnt s 0xE0014 1) k w (fun x => { x with push := some (x.pi, data.drop 8) })
        some (newPi s k w (le data 0 4))
      else some (ringWq (cnt s 0xE0018 1) k w)) s

/-- WQ_SHADOW_READ (R376): the outstanding read returns PI, or fails. -/
def execWqShadowRead (q : QueueRef) (pi : Option (BitVec 32)) (s : State) : Result :=
  attempt (fun s =>
    let k := q.k.val
    let w := q.w.val
    match wq? s k w with
    | none => none
    | some x =>
      if !x.reading || !hostFor s k then none
      else
        let s := modWq s k w (fun x => { x with reading := x.again, again := false })
        some (match pi with
          | none => stopRead s k w none
          | some v => newPi s k w v.toNat)) s

/-- WQ_CI_WRITE (R375). -/
def execWqCiWrite (q : QueueRef) (s : State) : Result :=
  attempt (fun s =>
    let k := q.k.val
    match wq? s k q.w.val with
    | none => none
    | some x =>
      if !x.ciDirty || !hostFor s k then none
      else
        let s := hostWrite s k (x.shadow + 8) (toLe 4 x.ci)
        some (modWq s k q.w.val (fun x => { x with ciDirty := false }))) s

/-! ### Fetch and the entries -/

/-- WQ_FETCH (R373 to R375, R379): whatever the head entry is. (DEDUCED, safe: log entry 44.) -/
def execWqFetch (q : QueueRef) (e host cust : HostRead) (s : State) : Result :=
  attempt (fun s => fetchHead s q none e host cust) s

/-- NOP (R372). -/
def execNop (q : QueueRef) (e : Bytes) (s : State) : Result :=
  attempt (fun s => fetchHead s q (some 0x01) (some e) none none) s

/-- JOB_START (R26, R81, R103 to R107, R486). -/
def execJobStart (q : QueueRef) (e : Bytes) (s : State) : Result :=
  attempt (fun s => fetchHead s q (some 0x20) (some e) none none) s

/-- TS_READ (R423 to R432): acceptance; the transfer follows. -/
def execTsRead (q : QueueRef) (e : Bytes) (s : State) : Result :=
  attempt (fun s => fetchHead s q (some 0x10) (some e) none none) s

/-- TS_WRITE (R423 to R432). -/
def execTsWrite (q : QueueRef) (e : Bytes) (s : State) : Result :=
  attempt (fun s => fetchHead s q (some 0x11) (some e) none none) s

/-- TS_FLUSH (R427). -/
def execTsFlush (q : QueueRef) (e : Bytes) (s : State) : Result :=
  attempt (fun s => fetchHead s q (some 0x12) (some e) none none) s

/-- TS_FILL (R423 to R432). -/
def execTsFill (q : QueueRef) (e : Bytes) (s : State) : Result :=
  attempt (fun s => fetchHead s q (some 0x13) (some e) none none) s

/-- SCN_LOAD (R201 to R203). -/
def execScnLoad (q : QueueRef) (e : Bytes) (host : HostRead) (s : State) : Result :=
  attempt (fun s => fetchHead s q (some 0x28) (some e) host none) s

/-- SCN_INVAL (R201 to R203). -/
def execScnInval (q : QueueRef) (e : Bytes) (s : State) : Result :=
  attempt (fun s => fetchHead s q (some 0x29) (some e) none none) s

/-- DGE_INIT (R329, R330). -/
def execDgeInit (q : QueueRef) (e : Bytes) (s : State) : Result :=
  attempt (fun s => fetchHead s q (some 0x30) (some e) none none) s

/-- DGE_UPDATE (R324, R329, R330). -/
def execDgeUpdate (q : QueueRef) (e : Bytes) (host : HostRead) (s : State) : Result :=
  attempt (fun s => fetchHead s q (some 0x31) (some e) host none) s

/-- DGE_READ (R329, R330). -/
def execDgeRead (q : QueueRef) (e : Bytes) (s : State) : Result :=
  attempt (fun s => fetchHead s q (some 0x32) (some e) none none) s

/-- DGE_VERIFY (R330, R331). -/
def execDgeVerify (q : QueueRef) (e : Bytes) (s : State) : Result :=
  attempt (fun s => fetchHead s q (some 0x33) (some e) none none) s

/-- DGE_CLOSE (R329, R330). -/
def execDgeClose (q : QueueRef) (e : Bytes) (s : State) : Result :=
  attempt (fun s => fetchHead s q (some 0x34) (some e) none none) s

/-- DGE_KEY (R327, R328, R330). -/
def execDgeKey (q : QueueRef) (e : Bytes) (key cust : HostRead) (s : State) : Result :=
  attempt (fun s => fetchHead s q (some 0x35) (some e) key cust) s

/-! ### Completion queues -/

/-- CQ_DOORBELL (R382). -/
def execCqDoorbell (c : CqRef) (ci : Option (BitVec 32)) (s : State) : Result :=
  attempt (fun s =>
    if (cq? s c.k.val c.c.val).isSome && hostFor s c.k.val then some (newCi s c.k.val c.c.val ci)
    else none) s

/-- CQ_CI_POLL (R382): the CQ is full, and completions wait for it. -/
def execCqCiPoll (c : CqRef) (ci : Option (BitVec 32)) (s : State) : Result :=
  attempt (fun s =>
    match kennel? s c.k.val, cq? s c.k.val c.c.val with
    | some x, some q =>
      if cqUsed q == cqSize q && cqBacklog x c.c.val && hostFor s c.k.val then
        some (newCi s c.k.val c.c.val ci)
      else none
    | _, _ => none) s

/-- CQ_OVERFLOW_DRAIN (R383). -/
def execCqOverflowDrain (c : CqRef) (s : State) : Result :=
  attempt (fun s => drainCq s c.k.val c.c.val) s

/-- CQ_MOD_TIMER (R385, R386). -/
def execCqModTimer (c : CqRef) (s : State) : Result :=
  attempt (fun s =>
    match cq? s c.k.val c.c.val with
    | none => none
    | some q =>
      if !q.timer then none
      else if 1 ≤ q.pend then some (fireCq s c.k.val c.c.val)
      else some (modCq s c.k.val c.c.val (fun q => { q with timer := false }))) s

end Sys2Proof.Machine
end

