-- ==== Sys2Proof/Machine/RegView.lean ====
section
/-! DEFINITION. What the registers show that no register stores: the status registers
that follow from the rest of the state (R148, R168, R192, R209, R239, R293, R320, R337,
R363, R394, R395, R415, R439, R517, R525, R529). -/

namespace Sys2Proof.Machine

open Sys2Proof

/-- A register as a read shows it: its value, and the bits that are open because they
show a moment within a step of the model (DESIGN CHOICE, safe: log entry 7). -/
structure RegShow where
  val : Nat
  moment : Nat := 0

/-! ### Engines -/

/-- Every vertex of a kind on an instance, of the jobs in flight. -/
def vxOn (s : State) (kind inst : Nat) : List Vx :=
  (s.jobs.flatMap (fun (j, b) => (List.range b.verts.length).filterMap (fun vid =>
    vx? s { job := j, vid }))).filter (fun x => x.vert.kind == kind && x.vert.inst == inst)

/-- The vertex that an engine serves. -/
def servedOn (s : State) (kind inst : Nat) : Option Vx :=
  (s.engines.find? (fun p => engineKind p.1 == (kind, inst))).bind (fun p =>
    p.2.serving.bind (vx? s))

/-- A vertex waits for an output credit. -/
def outWaits (s : State) (l : List Vx) : Bool := l.any (outBlocked s)

/-- The engine waits on an SHC miss of the vertex that it serves. -/
def missShow (s : State) (v : Option Vx) : Bool :=
  v.any (fun x => missWaits s { job := x.j, vid := x.vid })

/-- A bit field from flags, the lowest first. -/
def flagBits (l : List Bool) : Nat := l.foldr (fun b n => b2n b + 2 * n) 0

/-- SHE_STATUS (R148). -/
def sheShow (s : State) (n : Nat) : RegShow :=
  let l := vxOn s kShepherd n
  let v := servedOn s kShepherd n
  { val := flagBits [v.any isBuild, v.any (fun x => !isBuild x), missShow s v,
      l.any (fun x => (buildOf x.st).openStall), l.any (fun x => (buildOf x.st).storeStall)] }

/-- FE_STATUS and FE_DCACHE (R168). -/
def feShow (s : State) (n : Nat) : RegShow :=
  let l := vxOn s kFacet n
  let v := servedOn s kFacet n
  { val := flagBits [false, false, missShow s v, outWaits s l,
      l.any (fun x => gateFull x && portReady x 0), false],
    moment := if v.isSome then 0x23 else 0 }

def dcacheShow (s : State) (n : Nat) : Nat :=
  min 1023 (ceilDiv (sumOf s.kennels (fun (_, x) => sumOf x.plans (fun (_, p) =>
    sumOf p.bitmaps (fun (v, bs) =>
      if (p.verts[v]?).any (fun w => w.kind == kFacet && w.inst == n) then sumOf bs (·.size)
      else 0)))) 1024)

/-- SRT_STATUS and SRT_RUNS (R192): once the input has ended, an intermediate pass goes on
while more than FANIN runs are left. -/
def srtShow (s : State) (n : Nat) : RegShow :=
  let v := servedOn s kSort n
  let phase := match v with
    | none => 0
    | some x =>
      if !portEnded x 0 then 1
      else if sortFanin x.vert.cfg < (sortClose x.vert.cfg (sortOf x.st)).runs.length then 2 else 3
  { val := 2 * b2n (missShow s v) + 4 * b2n (outWaits s (vxOn s kSort n)) + 8 * phase,
    moment := if v.isSome then 1 else 0 }

def runsShow (s : State) (n : Nat) : Nat :=
  sumOf (vxOn s kSort n) (fun x => (sortOf x.st).runs.length) % 2 ^ 32

/-- AGG_STATUS and AGG_RESIDENT (R192). -/
def aggShow (s : State) (n : Nat) : RegShow :=
  let l := vxOn s kAgg n
  let v := servedOn s kAgg n
  { val := flagBits [v.any (fun x => aggMode x.vert.cfg == 1), v.any (fun x => aggMode x.vert.cfg != 1),
      missShow s v, outWaits s l,
      l.any (fun x => !(aggOf x.st).overflow.isEmpty)] }

def residentShow (s : State) (n : Nat) : Nat :=
  sumOf (vxOn s kAgg n) (fun x => (aggOf x.st).groups.length)

/-- CZE_STATUSn (R320). -/
def czeShow (s : State) (n : Nat) : RegShow :=
  let l := vxOn s kCze n
  let v := servedOn s kCze n
  { val := flagBits [v.any (fun x => czeDir x.vert.cfg == 0), v.any (fun x => czeDir x.vert.cfg != 0),
      outWaits s l, l.any (fun x => (czeOf x.st).held.isSome)],
    moment := (if v.any (fun x => czeDir x.vert.cfg == 0 && czeClass x.vert.cfg == 0) then 0x10 else 0) +
      (if v.any (fun x => czeSave x.vert.cfg || czeRestore x.vert.cfg) then 0x20 else 0) }

/-! ### Scent, Hounds, digest -/

/-- SCN_BSTATUSb and SCN_BVALIDb (R209). -/
def scnShow (s : State) (b : Nat) : RegShow :=
  let y := tget s.scent b {}
  let owned := match y.owner with
    | some (k, _, _, _) => 2 ^ 8 * k + 1
    | none => 0
  let rows := (List.range 8).any (fun i => (vxOn s kScent i).any (fun x =>
    x.vert.units.contains b && !(inQueue x 0).isEmpty))
  { val := owned, moment := 16 * b2n y.scrubbed + 8 * b2n y.patrolled + 2 * b2n rows }

def validShow (s : State) (b : Nat) : Nat :=
  (tget s.scent b {}).verify.countP (fun e => e.2.2)

/-- HND_STATUSh (R239): 1 running, 2 clock-gated. -/
def hndShow (s : State) (h : Nat) : RegShow :=
  let x := hound s h
  let gated := s.power.gated.any (fun u => match u with
    | .hound n => n.val == h
    | _ => false)
  let v := x.regs.prv + 16 * b2n x.waiting + 32 * b2n x.lockup
  match x.serves with
  | none => { val := v }
  | some (k, _, vid, _) =>
    { val := v + 4 * (if gated then 2 else 1) + 2 ^ 32 * vid + 2 ^ 48 * k,
      moment := if x.job.isSome && !x.waiting then 16 else 0 }

/-- LOCKUP_N is driven low while any Hound or Herder core is locked up (R277, R541). -/
def lockupLow (s : State) : Bool :=
  s.hounds.any (fun e => e.2.lockup) || !s.herder.lockups.isEmpty

/-- HND_LOCKUPi (R293). -/
def lockupShow (s : State) (i : Nat) : Nat :=
  flagBits ((List.range 64).map (fun j => (hound s (64 * i + j)).lockup))

/-- DGE_STATUS and DGE_SLOTn (R337). -/
def dgeShow (s : State) : RegShow :=
  let waiting := s.dge.cmds.countP (fun c =>
    c.opc == 0x30 && !c.started && !dgeBehind s c && (dgeFault s c).isNone)
  { val := s.dge.ctxs.length + 2 ^ 16 * min 511 waiting,
    moment := if s.dge.ctxs.any (fun c => ctxReady c.2) then 0xFF00 else 0 }

def dgeSlotShow (s : State) (n : Nat) : Nat :=
  match tfind? s.dge.slots n with
  | none => 0
  | some x => 1 + 2 * x.alg + 2 ^ 16 * x.kennel +
      2 ^ 8 * s.dge.ctxs.countP (fun c => dgeKeyed c.2.alg && c.2.slot == n)

/-! ### DRAM, Leash, Herder -/

/-- DDR_STATUSc and DDR_DLY_DATAc (R345, R363). -/
def ddrShow (s : State) (c : Nat) : Nat :=
  let full := (List.range 2).any (fun q => 64 ≤ (tget s.dram.wqs (2 * c + q) []).length)
  setField (setField (regVal s (0x100000 + 0x800 * c)) 2 1 (b2n full)) 3 1 (b2n (paused s c))

def delayShow (s : State) (c : Nat) : Nat :=
  let sel := regVal s (0x100008 + 0x800 * c)
  if 40 ≤ sel % 64 then 0
  else
    match tfind? s.dram.retuned c with
    | some n => Config.delayValue n c sel % 256
    | none => tget s.dram.delays (2 ^ 16 * c + sel) 0 % 256

/-- LSH_PORTp (R489): a replay goes on only while frames are held for it. -/
def lshShow (s : State) (p : Nat) : RegShow :=
  { val := regVal s (0x120100 + 0x40 * p),
    moment := if (lport s p).replay.isEmpty then 0 else 4 }

/-- HRD_ID (R517): no version while the ROM runs. -/
def idShow (s : State) : Nat :=
  let stage := regField s 0x110000 8 4
  if stage = 0 || stage = 15 then stepping s
  else stepping s + 2 ^ 24 * le s.herder.header 8 1 + 2 ^ 16 * le s.herder.header 9 1

/-! ### Queues and kennels -/

/-- QE_STATUS (R395) and QE_RLOCK (R439): before the Herder has brought K0 into being,
POOL_FREE still reads its reset value 0 (R11). -/
def qeShow (s : State) : Nat := 2 ^ 16 * s.jobs.length + deviceTiles s

def rlockShow (s : State) : Nat :=
  sumOf s.kennels (fun (k, _) => locksOf s k) +
    2 ^ 16 * (if s.kennels.isEmpty then 0 else poolSize s - poolUsed s)

/-- KN_STATUS (R415). -/
def knStatusShow (s : State) (k : Nat) (x : Kennel) : Nat :=
  let st := if x.state = 3 then 3 else if shareZero x.share then 2 else 1
  regVal s (page k + 0x3100) % 256 / 32 * 32 + st + 8 * b2n (keepWarm x) +
    16 * field (regVal s (0x31000 + 8 * k)) 31 1 + 2 ^ 32 * min 65535 (drainCount s k)

/-- KN_QSTATUS (R394). -/
def qStatusShow (x : Kennel) : Nat :=
  flagBits ((List.range 16).map (fun w => (tfind? x.wqs w).any (·.stopped))) +
    2 ^ 31 * b2n (retireStalled x) +
    2 ^ 32 * flagBits ((List.range 16).map (fun c => x.ovf.any (·.cq == c)))

/-- A register of the page of a kennel that exists, at an offset of the page. -/
def pageShow (s : State) (k : Nat) (x : Kennel) (o : Nat) : Nat :=
  if o = 0x100 then qStatusShow x
  else if 0x200 ≤ o && o < 0x280 then
    ((tfind? x.wqs ((o - 0x200) / 8)).map (fun q => 2 ^ 32 * q.pi + q.ci)).getD 0
  else if 0x280 ≤ o && o < 0x300 then
    ((tfind? x.cqs ((o - 0x280) / 8)).map (fun q => 2 ^ 32 * q.tail + q.ci)).getD 0
  else if o = 0x3100 then knStatusShow s k x
  else if o = 0x3108 then kennelTiles s k + 2 ^ 32 * jobsOf s k
  else if o = 0x3110 then b2n (evtPending s (256 + k)) + 2 * b2n (evtPending s (512 + k))
  else regVal s (page k + o)

/-! ### Every register -/

/-- EVT_SUMMARY (R529). -/
def summaryShow (s : State) : Nat :=
  flagBits ((List.range 16).map (fun i => regVal s (0x10000 + 8 * i) != 0))

/-- A word of the PBA (R525). -/
def pbaShow (s : State) (i : Nat) : Nat :=
  flagBits ((List.range 64).map (fun j => s.pba.contains (64 * i + j)))

/-- The kennel whose page an offset lies in. -/
def pageOf (off : Nat) : Option Nat :=
  if 0x1000000 ≤ off && off < 0x2000000 then some ((off - 0x1000000) / 0x10000) else none

/-- Global registers of the units. (DEDUCED, safe: log entry 15.) -/
def unitShow (s : State) (off : Nat) : RegShow :=
  let o := off % 0x1000
  let n := off % 0x10000 / 0x1000
  let plain : RegShow := { val := regVal s off }
  match off / 0x10000 with
  | 0x5 =>
    if o = 0 then sheShow s n
    else if o = 4 then { val := sheOpen s n }
    else if o = 8 then { val := max (regVal s off) (sheOpen s n) }
    else plain
  | 0x6 =>
    let n := off % 0x10000 / 0x800
    if off % 0x800 = 0 then feShow s n else if off % 0x800 = 4 then { val := dcacheShow s n } else plain
  | 0x7 => if o = 0 then srtShow s n else if o = 4 then { val := runsShow s n } else plain
  | 0x8 => if o = 0 then aggShow s n else if o = 4 then { val := residentShow s n } else plain
  | 0x9 =>
    if 8 ≤ n then plain
    else if o = 0 then scnShow s n else if o = 4 then { val := validShow s n } else plain
  | 0xA =>
    let h := off % 0x10000 / 0x40
    if 128 ≤ h then
      if off = 0xA2008 || off = 0xA2010 then { val := lockupShow s ((off - 0xA2008) / 8) } else plain
    else
      match off % 0x40 with
      | 0x00 => hndShow s h
      | 0x08 => { val := (hound s h).regs.pc.toNat }
      | 0x30 => { val := (hound s h).privCeil.toNat }
      | 0x38 => { val := (hound s h).lockInfo.toNat }
      | _ => plain
  | 0xB => if o = 0 then czeShow s n else plain
  | 0xC =>
    if off = 0xC0000 then dgeShow s
    else if 0xC0100 ≤ off then { val := dgeSlotShow s ((off - 0xC0100) / 4) }
    else plain
  | 0xE =>
    if off = 0xE0000 then { val := qeShow s } else if off = 0xE0100 then { val := rlockShow s } else plain
  | _ => plain

/-- A register as it is shown: those of the always-on and memory units beside
`unitShow`, and the kennel pages. The counts of what the Herder's cores mispredict (R442)
are open. -/
def regShow (s : State) (off : Nat) : RegShow :=
  if off = 0x10100 then { val := summaryShow s }
  else if off = 0x30010 then { val := s.timing.epoch }
  else if off = 0x30018 then { val := s.timing.tick }
  else if 0x100000 ≤ off && off < 0x108000 then
    let c := (off - 0x100000) / 0x800
    if off % 0x800 = 0 then { val := ddrShow s c }
    else if off % 0x800 = 0xC then { val := delayShow s c }
    else { val := regVal s off }
  else if off = 0x110008 then { val := idShow s }
  else if 0x110020 ≤ off && off < 0x110040 then { val := regVal s off, moment := 0xFFFFFFFF }
  else if 0x120100 ≤ off && off < 0x120200 && off % 0x40 = 0 then lshShow s ((off - 0x120100) / 0x40)
  else if 0x3F08000 ≤ off then { val := pbaShow s ((off - 0x3F08000) / 8) }
  else
    match pageOf off with
    | some k =>
      match kennel? s k with
      | some x => { val := pageShow s k x (off % 0x10000) }
      | none => { val := 0 }
    | none => unitShow s off

/-- The value that a read returns, with the open bits taken. -/
def regRead (s : State) (off : Nat) : Nat × State :=
  let r := regShow s off
  if r.moment = 0 then (r.val, s)
  else
    let (n, s) := takeFree s
    ((r.val - (r.val &&& r.moment)) ||| (n &&& r.moment), s)

end Sys2Proof.Machine
end

