-- ==== Sys2Proof/Machine/Registers.lean ====
section
/-! DEFINITION. Meanings of the host's accesses to BAR0 (R8 to R11, R515): a register
write, and a read with what it clears. -/

namespace Sys2Proof.Machine

open Sys2Proof

/-! ### What an access reaches (R8, R396, R515) -/

/-- The mailbox whose window an access lies in, and its place there. -/
def windowAt (off size : Nat) : Option (Nat × Nat) :=
  if off % size ≠ 0 || (size ≠ 4 && size ≠ 8) then none
  else if 0x2000000 ≤ off && off < 0x2001000 then some (mb0, off % 0x1000)
  else
    match pageOf off with
    | some k => if off % 0x10000 / 0x1000 = 2 then some (k, off % 0x1000) else none
    | none => none

/-- A mailbox window: 4 KiB (R448). -/
def window (s : State) (mb : Nat) : Bytes :=
  let w := tget s.windows mb []
  w ++ zeros (4096 - w.length)

/-- The registers that an access of a size takes: one of its width, a part of a push window,
or two words of the MSI-X table. -/
def regsAt (off size : Nat) : List Nat :=
  let at' := fun (o sz : Nat) => match regFam o with
    | some f => f.size == sz
    | none => false
  let push := (pageOf off).isSome && 0x1000 ≤ off % 0x10000 && off % 0x10000 < 0x1400
  if at' off size || (push && (size == 4 || size == 8) && off % size == 0) then [off]
  else if 0x3F00000 ≤ off && off < 0x3F08000 && size = 8 && off % 8 = 0 then [off, off + 4]
  else []

/-- The page that an access names belongs to a kennel that exists (R396). -/
def pageThere (s : State) (off : Nat) : Bool :=
  match pageOf off with
  | some k => (kennel? s k).isSome
  | none => true

/-! ### Writes -/

/-- The stored bits of a register take what is written (R9, R10). -/
def writePlain (s : State) (off val hwSet : Nat) : State :=
  match regFam off with
  | none => s
  | some f =>
    let v := regWritten f (regVal s off) val hwSet
    if v = regVal s off then s else setReg s off v

/-- A write of one register: those with an effect of their own have it. -/
def writeReg (s : State) (off val hwSet : Nat) : State :=
  if 0x10000 ≤ off && off < 0x10080 then writeEvtStatus s ((off - 0x10000) / 8) val hwSet
  else if 0x10080 ≤ off && off < 0x10100 then writeEvtMask s ((off - 0x10080) / 8) val
  else if off = 0x10108 then raiseEvent s (val % 1024)
  else if 0x11000 ≤ off && off < 0x12000 then writeEvtRoute s ((off - 0x11000) / 4) val
  else if off = 0x20000 || off = 0x21000 || off = 0x22000 || off = 0x23000 then
    writeGcfg s ((off - 0x20000) / 0x1000) val
  else if off = 0x30000 then writeEpCtrl s val
  else if off = 0x30004 then writeEpLen s val
  else if 0x30100 ≤ off && off < 0x30140 then prunePins (writePlain s off val hwSet)
  else if off = 0xD0000 then (if bitAt val 0 then shcOn s else shcOff s)
  else if (pageOf off).isSome && off % 0x10000 = 0x3110 then
    writeKnEvent s ((off - 0x1000000) / 0x10000) val hwSet
  else if 0x3F00000 ≤ off && off < 0x3F08000 && off % 16 = 12 && !bitAt val 0 then
    unmaskVector s ((off - 0x3F00000) / 16)
  else writePlain s off val hwSet

/-- A mailbox doorbell: the request is what stands in the window (R448, R449). -/
def ringMailbox (s : State) (n : Nat) (door : DoorRead) : State :=
  let w := window s n
  let len := le w 2 2
  let m : Msg := { length := BitVec.ofNat 16 len, status := BitVec.ofNat 16 (le w 8 2),
                   seq := BitVec.ofNat 32 (le w 4 4), rsv := !zeroes w 10 6, body := slice w 16 (min len 4080) }
  let r : HeldMsg := { mb := n, opcode := le w 0 2, msg := m, host := door.host, fresh := door.fresh,
                       tclkKhz := door.tclkKhz, tagError := door.tagError }
  dmpServe (dmpTake (dmpHandler r.opcode) r s)

/-- A doorbell written as a register: a mailbox's, or one of a kennel page. A push window
takes no push in parts (R377, R394, KL-05). -/
def writeDoor (s : State) (off : Nat) (door : DoorRead) : Option State :=
  if off = 0x2001000 then some (ringMailbox s mb0 door)
  else
    (pageOf off).bind (fun k =>
      let o := off % 0x10000
      if o < 0x80 then some (ringWq s k (o / 8))
      else if o < 0x100 then
        let c := (o - 0x80) / 8
        some (if (cq? s k c).isSome && hostFor s k then newCi s k c door.ci else s)
      else if 0x1000 ≤ o && o < 0x1400 then
        let w := (o - 0x1000) / 64
        some (if (wq? s k w).any takesDoors then ringWq (cnt s 0xE0018 1) k w else s)
      else if o = 0x3000 then some (ringMailbox s k door)
      else none)

/-- A write to a mailbox window: while BUSY it is ignored and counted (R449). -/
def writeWindow (s : State) (mb at' size val : Nat) : State :=
  if mbBusy s mb then cnt s 0x110014 1
  else { s with windows := tset s.windows mb (putAt (window s mb) at' (toLe size val)) }

/-- REGISTER_WRITE (R9): `hwSet` are the bits that hardware sets in the same cycle. An
access that is not of the register's width, or to no register, has no effect (R8).
(DEDUCED, safe: log entry 11.) -/
def execRegisterWrite (off size val : Nat) (env : WriteEnv) (s : State) : Result :=
  attempt (fun s =>
    let val := val % 2 ^ (8 * size)
    if !barOpen s || !pageThere s off then none
    else
      match windowAt off size with
      | some (mb, at') => some (writeWindow s mb at' size val)
      | none =>
        match regsAt off size with
        | [] => none
        | [o] => some ((writeDoor s o env.door).getD (writeReg s o val env.hwSet))
        | lo :: hi :: _ =>
          some (writeReg (writeReg s lo (val % 2 ^ 32) (env.hwSet % 2 ^ 32)) hi (val / 2 ^ 32)
            (env.hwSet / 2 ^ 32))) s

/-! ### Reads -/

/-- The register is a SHE_OPEN_PEAK, which starts again at the events open now (R148). -/
def shePeak (off : Nat) : Bool := 0x50000 ≤ off && off < 0x58000 && off % 0x1000 == 8

/-- Clears the read-clear bits of a register; a count of the same cycle stays (R9). -/
def readClear (s : State) (off hwInc : Nat) : State :=
  match regFam off with
  | none => s
  | some f =>
    if f.rc = 0 then s
    else
      let v := regVal s off
      let kept := if shePeak off then sheOpen s ((off - 0x50000) / 0x1000)
        else min hwInc (2 ^ (8 * f.size) - 1) &&& f.rc
      setReg s off ((v - (v &&& f.rc)) ||| kept)

/-- A read of one register: its value, and the state after it. -/
def readReg (s : State) (off hwInc : Nat) : Nat × State :=
  let (v, s) := regRead s off
  (v, readClear s off hwInc)

/-- A register whose reads are served (R506): the PWR_ registers after a fatal error. -/
def readOpen (s : State) (off : Nat) : Bool :=
  barOpen s || (fatal s && 0x130000 ≤ off && off < 0x140000 && !s.pins.perst && s.pins.railsOk)

/-- A 32-bit half of a word of the MSI-X PBA (R515). -/
def pbaHalf (off size : Nat) : Bool :=
  0x3F08000 ≤ off && off < 0x3F08100 && size == 4 && off % 4 == 0

/-- What a read returns, and the state after it. An access that is not taken returns 0. -/
def hostRead (s : State) (off size hwInc : Nat) : Nat × State :=
  if !readOpen s off || !pageThere s off then (0, s)
  else if pbaHalf off size then
    (field (pbaShow s ((off - 0x3F08000) / 8)) (32 * (off / 4 % 2)) 32, s)
  else
    match windowAt off size with
    | some (mb, at') => (le (window s mb) at' size, s)
    | none =>
      match regsAt off size with
      | [] => (0, s)
      | [o] => readReg s o hwInc
      | lo :: hi :: _ =>
        let (a, s) := readReg s lo 0
        let (b, s) := readReg s hi 0
        (a + 2 ^ 32 * b, s)

/-- COUNTER_READ_CLEAR (R9): a read of a register, which returns the value from before
the cycle's update. -/
def execCounterReadClear (off size hwInc : Nat) (s : State) : Result :=
  let (v, s) := hostRead s off size hwInc
  .next (emit s (.regRead off v))

end Sys2Proof.Machine
end

