-- ==== Sys2Proof/Machine/Shepherd.lean ====
section
/-! DEFINITION. Meanings of the event-building commands (R122 to R138, R560). -/

namespace Sys2Proof.Machine

open Sys2Proof

/-- FRAGMENT_BLOCK_PUBLISH (R107, R123): fragments that waited for the job go first; the
blocks whose 256 FCLK are over at tick `now` are published. -/
def execFragmentBlockPublish (w : VertexAt) (s : State) : Result :=
  attempt (fun s =>
    let s := tickTo s w.now
    match vx? s w.v with
    | some x =>
      if x.vert.kind = kSrcIngest ∧ vxLive x ∧ !x.st.endSent then
        some (publishBlocks (takeEarly s x) x (fun o => blockDue o ≤ s.fclk))
      else none
    | none => none) s

/-- The fragment that a Shepherd takes next, of a TYPE. -/
def sheFragment (s : State) (she type : Nat) : Option (State × Vx × Nat × Frag) :=
  match s.engines.find? (fun p => decide (engineKind p.1 = (kShepherd, she))) with
  | none => none
  | some (e, _) =>
    match servedVx s e with
    | none => none
    | some x =>
      match sheNext s x with
      | some (s, gap, f) => if rfxType f.bytes = type then some (s, x, gap, f) else none
      | none => none

/-- SHE_DATA_FRAGMENT (R127, R128). -/
def execSheDataFragment (she : Fin 8) (now : Nat) (s : State) : Result :=
  attempt (fun s =>
    (sheFragment (tickTo s now) she.val 1).map (fun (s, x, gap, f) => takeData s x gap f)) s

/-- SHE_CLOSE_FRAGMENT (R129, R131). -/
def execSheCloseFragment (she : Fin 8) (now : Nat) (s : State) : Result :=
  attempt (fun s =>
    (sheFragment (tickTo s now) she.val 2).map (fun (s, x, _, f) => takeClose s x f)) s

/-- SHE_HEARTBEAT (R129). -/
def execSheHeartbeat (she : Fin 8) (s : State) : Result :=
  attempt (fun s => (sheFragment s she.val 3).map (fun (s, x, _, _) => sheTaken (cntShe s x 1 1) x)) s

/-- An event-build vertex whose job goes on. -/
def buildVx (s : State) (v : VertexRef) : Option Vx :=
  match vx? s v with
  | some x => if isBuild x && vxLive x && !x.st.endSent then some x else none
  | none => none

/-- EVENT_WINDOW_TIMEOUT (R130, R132): events whose window has passed at FCLK `now`. -/
def execEventWindowTimeout (v : VertexRef) (now : Nat) (s : State) : Result :=
  attempt (fun s =>
    let s := tickTo s now
    (buildVx s v).map (fun x => closeWindows s x)) s

/-- TOMBSTONE_EXPIRE (R133): tombstones whose time is over at FCLK `now`. -/
def execTombstoneExpire (v : VertexRef) (now : Nat) (s : State) : Result :=
  attempt (fun s =>
    let s := tickTo s now
    (buildVx s v).map (fun x => modTombs s x (fun ts => ts.filter (fun t => s.fclk < t.death)))) s

/-- EVENT_TILE_FLUSH (R134): the open tile of a port is published once FLUSH_FCLK have
passed since its first row. -/
def execEventTileFlush (w : VertexAt) (port : Fin 8) (s : State) : Result :=
  attempt (fun s =>
    let s := tickTo s w.now
    match buildVx s w.v with
    | none => none
    | some x =>
      if tget (buildOf x.st).firsts port.val 0 + shbFlush x.vert.cfg ≤ s.fclk then
        some (publishEvents s x port.val)
      else none) s

/-- SHE_INTAKE_RESUME (R560): rows held back are appended, and the fragment that waited
is tried again while a Shepherd serves the vertex. -/
def execSheIntakeResume (v : VertexRef) (now : Nat) (s : State) : Result :=
  attempt (fun s =>
    let s := tickTo s now
    match buildVx s v with
    | none => none
    | some x =>
      let s := appendRows s x
      match (vx? s v).bind (sheNext s) with
      | some (s', gap, f) =>
        let waits := (buildOf x.st).openStall || (buildOf x.st).storeStall
        let served := s.engines.any (fun p => p.2.serving == some v)
        some (if waits && served && mayStart s x.job.kennel && rfxType f.bytes = 1
              then takeData s' x gap f else s)
      | none => some s) s

end Sys2Proof.Machine
end

