-- ==== Sys2Proof/Machine/Sort.lean ====
section
/-! DEFINITION. Meanings of the sort engines' commands (R169 to R176). -/

namespace Sys2Proof.Machine

open Sys2Proof

/-- Adds to the counters of a sort engine, and of the vertex (R192, R452). -/
def cntSort (s : State) (x : Vx) (ns : List Nat) : State :=
  cntBoth s (0x70010 + 0x1000 * x.vert.inst) x.job.kennel x.job.plan x.vid ns

/-- The SORT vertex that an engine serves. -/
def servedSort (s : State) (srt : Fin 4) : Option Vx :=
  match servedIdle s (.srt srt) with
  | some x => if x.vert.kind = kSort then some x else none
  | none => none

/-- SORT_INPUT_TILE (R169 to R175). The order of equal keys without STABLE is open:
free values break the ties (R172). -/
def execSortInputTile (srt : Fin 4) (s : State) : Result :=
  attempt (fun s =>
    match servedSort s srt with
    | none => none
    | some x =>
      match headSkip x 0, headTile x 0 with
      | some _, _ => some (engineFree (popIn s x 0) (.srt srt))
      | none, some b =>
        let s' := popIn s x 0
        match readTile s x b with
        | .error e => some (finishFail s' x (.srt srt) e)
        | .ok t =>
          let st := sortOf x.st
          match sortTake x.vert.cfg (fun i => Config.freeNat (s.free + i)) st t (tileTotal b) with
          | .error e => some (finishFail s' x (.srt srt) e)
          | .ok st' =>
            let s' := if sortStable x.vert.cfg then s' else { s' with free := s'.free + t.rows }
            let s' := cntSort (noteDicts s' x t) x [t.rows, st'.runs.length - st.runs.length]
            some (finishOrigin (setEng s' x (.sort st')) x (.srt srt) [])
      | none, none => none) s

/-- The runs of a SORT vertex whose input has ended, and whether the last was made now. -/
def sortRuns (x : Vx) : SortSt × Nat :=
  let st := sortOf x.st
  let st' := sortClose x.vert.cfg st
  (st', st'.runs.length - st.runs.length)

/-- SORT_MERGE_PASS (R176): more than FANIN runs are left. (DEDUCED, unsafe: log entry 16.) -/
def execSortMergePass (srt : Fin 4) (s : State) : Result :=
  attempt (fun s =>
    match servedSort s srt with
    | none => none
    | some x =>
      let (st, made) := sortRuns x
      if !portEnded x 0 || (sortOf x.st).finished || st.runs.length ≤ sortFanin x.vert.cfg then none
      else some (cntSort (setEng s x (.sort (mergePass x.vert.cfg st))) x [0, made, 1])) s

/-- SORT_FINAL_PASS (R172, R174, R176). -/
def execSortFinalPass (srt : Fin 4) (s : State) : Result :=
  attempt (fun s =>
    match servedSort s srt with
    | none => none
    | some x =>
      let cfg := x.vert.cfg
      let (st, made) := sortRuns x
      if !portEnded x 0 || (sortOf x.st).finished || sortFanin cfg < st.runs.length then none
      else
        let outs := sortEmit cfg x.job.kennel (outCap x.plan x.vid 0) st
        let rows := sumOf outs (fun b => le b 4 4)
        let s := setEng s x (.sort { st with cur := [], runs := [], finished := true })
        some (finishOrigin (cntSort s x [0, made, b2n (!st.runs.isEmpty), rows]) x (.srt srt) outs)) s

end Sys2Proof.Machine
end

