-- ==== Sys2Proof/Machine/SrcSink.lean ====
section
/-! DEFINITION. Meanings of the commands of table-space sources and of sinks (R106,
R112, R115). -/

namespace Sys2Proof.Machine

open Sys2Proof

/-- One tile of a range in three steps (R106): the bytes, or why the job fails. -/
def tsNextTile (s : State) (t : TSpace) (off len pos : Nat) : Except Nat Bytes :=
  let (h, bad) := tsRead s t (off + pos) 64
  if bad then .error eDdrUe
  else if !tileHeaderOk h then .error eTileFormat
  else if pos + tileTotal h > len then .error eJobRange
  else
    let (b, bad) := tsRead s t (off + pos) (tileTotal h)
    if bad then .error eDdrUe else .ok b

/-- SRC_TS_TILE (R106). -/
def execSrcTsTile (v : VertexRef) (s : State) : Result :=
  attempt (fun s =>
    match liveVx s v with
    | none => none
    | some x =>
      if x.vert.kind ≠ kSrcTs ∨ !x.st.outq.isEmpty ∨ !moverUp s then none
      else
        match tsRange x with
        | none => none
        | some (n, off, len) =>
          match ownSpace s x.job.kennel n with
          | none => some (failVx s x eJobRange)
          | some t =>
            let pos := (tsOf x.st).pos
            match tsNextTile s t off len pos with
            | .error e => some (failVx s x e)
            | .ok b =>
              match readWhole s x b with
              | .error e => some (failVx s x e)
              | .ok p =>
                let next := pos + b.length
                let ts : TsSrc := if next = len then { range := (tsOf x.st).range + 1, pos := 0 }
                  else { tsOf x.st with pos := next }
                some (putOrigin (setEng (noteDicts s x p) x (.ts ts)) x 0 [b])) s

/-- SINK_WRITE (R112, R115, R164). -/
def execSinkWrite (v : VertexRef) (port : Fin 8) (s : State) : Result :=
  attempt (fun s =>
    match liveVx s v with
    | none => none
    | some x =>
      if !isSink x.vert.kind || !sinkUp s x || deferHolds x port.val then none
      else
        match (if x.vert.kind = kSinkVerdict then verdictTake s x port.val else sinkTake s x port.val) with
        | some s => some s
        | none => some (sinkClose s x)) s

end Sys2Proof.Machine
end

