-- ==== Sys2Proof/Machine/Timing.lean ====
section
/-! DEFINITION. Meanings of the epoch counter's commands (R46 to R52). -/

namespace Sys2Proof.Machine

open Sys2Proof

/-- EPOCH_BOUNDARY (R46): time passes to the tick after EP_LEN − 1. -/
def execEpochBoundary (s : State) : Result :=
  attempt (fun s =>
    if !epRunning s then none
    else
      let s := passTicks s (s.timing.len - s.timing.count)
      let (n, s) := nextNumber s
      some (boundaryEffects (startEpoch s n false) true)) s

/-- EP_LEN_WRITE (R46). (DEDUCED, safe: log entry 78.) -/
def execEpLenWrite (val : BitVec 32) (s : State) : Result := 
  .next (hostAccess (writeEpLen · val.toNat) s)

/-- ESYNC_EDGE (R47, R48): the edge tick comes after `dt` ticks, its outward effects
appear one tick later. -/
def execEsyncEdge (dt : Nat) (s : State) : Result :=
  attempt (fun s =>
    if !epRunning s || !esyncEn s || !ticksFit s dt then none
    else
      let (s, began, pins) := esyncJudge (passTicks s dt)
      let s := passTicks s 1
      some (if began then boundaryEffects s pins else s)) s

/-- EPOCH_WINDOW_MISS (R48): time passes to the tick after the window's last. -/
def execEpochWindowMiss (s : State) : Result :=
  attempt (fun s =>
    if !epRunning s || !esyncEn s || s.timing.startUsed || s.timing.startClosed ||
        epWindow s < s.timing.count then none
    else some (passTicks s (epWindow s + 1 - s.timing.count))) s

/-- RESYNC_NOW (R49): a write of EP_CTRL with RESYNC_NOW = 1. -/
def execResyncNow (val : BitVec 32) (s : State) : Result :=
  .next (hostAccess (writeEpCtrl · (setField val.toNat 8 1 1)) s)

/-- EPOCH_COUNTER_START (R52): a write of EP_CTRL with EN = 1. -/
def execEpochCounterStart (val : BitVec 32) (s : State) : Result :=
  .next (hostAccess (writeEpCtrl · (setField val.toNat 0 1 1)) s)

/-- EPOCH_COUNTER_STOP (R52): a write of EP_CTRL with EN = 0. -/
def execEpochCounterStop (val : BitVec 32) (s : State) : Result :=
  .next (hostAccess (writeEpCtrl · (setField val.toNat 0 1 0)) s)

/-- TCLK_LOST (R51). -/
def execTclkLost (s : State) : Result :=
  attempt (fun s =>
    if tclkLost s then none
    else
      let s := dropPins (epFlag (epFlag s 7 1) 6 1)
      some (defaultAll s (inDet s))) s

/-- TCLK_RETURN (R51). -/
def execTclkReturn (s : State) : Result :=
  attempt (fun s => if tclkLost s then some (armResync (epFlag s 7 0)) else none) s

end Sys2Proof.Machine
end

