-- ==== Sys2Proof/Machine/Verdicts.lean ====
section
/-! DEFINITION. Meanings of the verdict commands (R54 to R59). -/

namespace Sys2Proof.Machine

open Sys2Proof

/-- TEV_RESULT_ARRIVE (R54 to R56): a result reaches the timing unit after `dt` TCLK. -/
def execTevResultArrive (dt : Nat) (ev : EventRef) (lines : BitVec 64) (s : State) : Result :=
  attempt (fun s =>
    if !ticksFit s dt then none
    else
      let k := ev.kennel.val
      let s := takeVerdictRow (passTicks s dt) k ev.epoch.toNat ev.event.toNat
      some (tevArrive s k ev.epoch.toNat ev.event.toNat ev.toffset.toNat lines.toNat)) s

/-- The event whose verdict falls due: as the timing unit holds it, or one that has
reached it with nothing (R55). -/
def dueEvent (s : State) (ev : EventRef) : Option (VEvent × Nat) :=
  let k := ev.kennel.val
  if !inDet s k || (evIssued s k ev.epoch.toNat ev.event.toNat).isSome then none
  else
    let e := (evFind s k ev.epoch.toNat ev.event.toNat).getD
      { kennel := k, epoch := ev.epoch.toNat, event := ev.event.toNat, toffset := ev.toffset.toNat }
    match e.due with
    | some d => some (e, d)
    | none =>
      match dueTick s k e.epoch e.toffset with
      | some d => if nowTick s ≤ d then some ({ e with due := some d.toNat }, d.toNat) else none
      | none => none

/-- VERDICT_DUE (R55 to R58): time passes to the due tick, in which the verdict is
issued. -/
def execVerdictDue (ev : EventRef) (s : State) : Result :=
  attempt (fun s =>
    match dueEvent s ev with
    | none => none
    | some (e, d) =>
      if !epRunning s || d < s.timing.tick || !ticksFit s (d - s.timing.tick) then none
      else some (issueVerdict (passTicks s (d - s.timing.tick)) e (if e.dead then none else e.result))) s

/-- VERDICT_MESSAGE_SEND (R59): `quanta` of flow control run out first. -/
def execVerdictMessageSend (quanta : Nat) (s : State) : Result :=
  let s := passQuanta s quanta
  match sendFirst s s.timing.txq with
  | none => .next s
  | some (s', txq) => .next { s' with timing := { s'.timing with txq } }

end Sys2Proof.Machine
end

