-- ==== Sys2Proof/Machine/Dispatch.lean ====
section
/-! DEFINITION. The dispatch of the commands: one arm for each constructor. -/

namespace Sys2Proof.Machine

open Sys2Proof

def exec (i : Instr) (s : State) : Host.Outcome State Fault Refusal :=
  match i with
  | .registerWrite off size val env => Sys2Proof.Machine.execRegisterWrite off size val env s
  | .counterReadClear off size hwInc => Sys2Proof.Machine.execCounterReadClear off size hwInc s
  | .unitClockGate u reqSameTick => Sys2Proof.Machine.execUnitClockGate u reqSameTick s
  | .packPllStop p => Sys2Proof.Machine.execPackPllStop p s
  | .unitWake u => Sys2Proof.Machine.execUnitWake u s
  | .slotGrant kind => Sys2Proof.Machine.execSlotGrant kind s
  | .groupModeWrite g val => Sys2Proof.Machine.execGroupModeWrite g val s
  | .ethFrameReceive g port frame fecBad => Sys2Proof.Machine.execEthFrameReceive g port frame fecBad s
  | .rawlinkFrameReceive g lane sof blocks => Sys2Proof.Machine.execRawlinkFrameReceive g lane sof blocks s
  | .rawlinkStrayBlock g lane => Sys2Proof.Machine.execRawlinkStrayBlock g lane s
  | .fragmentForward g port c => Sys2Proof.Machine.execFragmentForward g port c s
  | .flowControlRepeat g port cls => Sys2Proof.Machine.execFlowControlRepeat g port cls s
  | .epochBoundary => Sys2Proof.Machine.execEpochBoundary s
  | .epLenWrite val => Sys2Proof.Machine.execEpLenWrite val s
  | .esyncEdge dt => Sys2Proof.Machine.execEsyncEdge dt s
  | .epochWindowMiss => Sys2Proof.Machine.execEpochWindowMiss s
  | .resyncNow val => Sys2Proof.Machine.execResyncNow val s
  | .epochCounterStart val => Sys2Proof.Machine.execEpochCounterStart val s
  | .epochCounterStop val => Sys2Proof.Machine.execEpochCounterStop val s
  | .tclkLost => Sys2Proof.Machine.execTclkLost s
  | .tclkReturn => Sys2Proof.Machine.execTclkReturn s
  | .tevResultArrive dt ev lines => Sys2Proof.Machine.execTevResultArrive dt ev lines s
  | .verdictDue ev => Sys2Proof.Machine.execVerdictDue ev s
  | .verdictMessageSend quanta => Sys2Proof.Machine.execVerdictMessageSend quanta s
  | .setDeterministic mb m tclkKhz => Sys2Proof.Machine.execSetDeterministic mb m tclkKhz s
  | .planLoad mb m img => Sys2Proof.Machine.execPlanLoad mb m img s
  | .planUnload mb m => Sys2Proof.Machine.execPlanUnload mb m s
  | .planStatus mb m => Sys2Proof.Machine.execPlanStatus mb m s
  | .jobStart q e => Sys2Proof.Machine.execJobStart q e s
  | .nop q e => Sys2Proof.Machine.execNop q e s
  | .engineSchedule e => Sys2Proof.Machine.execEngineSchedule e s
  | .srcTsTile v => Sys2Proof.Machine.execSrcTsTile v s
  | .tilePublish v port => Sys2Proof.Machine.execTilePublish v port s
  | .spillReadback v port => Sys2Proof.Machine.execSpillReadback v port s
  | .endMarkSend v => Sys2Proof.Machine.execEndMarkSend v s
  | .sinkWrite v port => Sys2Proof.Machine.execSinkWrite v port s
  | .jobComplete j => Sys2Proof.Machine.execJobComplete j s
  | .jobFailRetire j => Sys2Proof.Machine.execJobFailRetire j s
  | .jobTimeout j => Sys2Proof.Machine.execJobTimeout j s
  | .unitStop v => Sys2Proof.Machine.execUnitStop v s
  | .fragmentBlockPublish w => Sys2Proof.Machine.execFragmentBlockPublish w s
  | .sheDataFragment she now => Sys2Proof.Machine.execSheDataFragment she now s
  | .sheCloseFragment she now => Sys2Proof.Machine.execSheCloseFragment she now s
  | .sheHeartbeat she => Sys2Proof.Machine.execSheHeartbeat she s
  | .eventWindowTimeout v now => Sys2Proof.Machine.execEventWindowTimeout v now s
  | .tombstoneExpire v now => Sys2Proof.Machine.execTombstoneExpire v now s
  | .eventTileFlush w port => Sys2Proof.Machine.execEventTileFlush w port s
  | .sheIntakeResume v now => Sys2Proof.Machine.execSheIntakeResume v now s
  | .joinBuildTile she => Sys2Proof.Machine.execJoinBuildTile she s
  | .joinProbeTile she => Sys2Proof.Machine.execJoinProbeTile she s
  | .winjoinTile she port => Sys2Proof.Machine.execWinjoinTile she port s
  | .facetTile fe => Sys2Proof.Machine.execFacetTile fe s
  | .gateRelease v port => Sys2Proof.Machine.execGateRelease v port s
  | .sortInputTile srt => Sys2Proof.Machine.execSortInputTile srt s
  | .sortMergePass srt => Sys2Proof.Machine.execSortMergePass srt s
  | .sortFinalPass srt => Sys2Proof.Machine.execSortFinalPass srt s
  | .aggInputTile agg => Sys2Proof.Machine.execAggInputTile agg s
  | .aggEmit agg => Sys2Proof.Machine.execAggEmit agg s
  | .scentSearchTile v ecc => Sys2Proof.Machine.execScentSearchTile v ecc s
  | .scentPatrol b ecc => Sys2Proof.Machine.execScentPatrol b ecc s
  | .scnLoad q e host => Sys2Proof.Machine.execScnLoad q e host s
  | .scnInval q e => Sys2Proof.Machine.execScnInval q e s
  | .add h rd rs1 rs2 => Sys2Proof.Machine.execAdd h rd rs1 rs2 s
  | .sub h rd rs1 rs2 => Sys2Proof.Machine.execSub h rd rs1 rs2 s
  | .and h rd rs1 rs2 => Sys2Proof.Machine.execAnd h rd rs1 rs2 s
  | .or h rd rs1 rs2 => Sys2Proof.Machine.execOr h rd rs1 rs2 s
  | .xor h rd rs1 rs2 => Sys2Proof.Machine.execXor h rd rs1 rs2 s
  | .sll h rd rs1 rs2 => Sys2Proof.Machine.execSll h rd rs1 rs2 s
  | .srl h rd rs1 rs2 => Sys2Proof.Machine.execSrl h rd rs1 rs2 s
  | .sra h rd rs1 rs2 => Sys2Proof.Machine.execSra h rd rs1 rs2 s
  | .slt h rd rs1 rs2 => Sys2Proof.Machine.execSlt h rd rs1 rs2 s
  | .sltu h rd rs1 rs2 => Sys2Proof.Machine.execSltu h rd rs1 rs2 s
  | .min h rd rs1 rs2 => Sys2Proof.Machine.execMin h rd rs1 rs2 s
  | .max h rd rs1 rs2 => Sys2Proof.Machine.execMax h rd rs1 rs2 s
  | .minu h rd rs1 rs2 => Sys2Proof.Machine.execMinu h rd rs1 rs2 s
  | .maxu h rd rs1 rs2 => Sys2Proof.Machine.execMaxu h rd rs1 rs2 s
  | .mul h rd rs1 rs2 => Sys2Proof.Machine.execMul h rd rs1 rs2 s
  | .mulh h rd rs1 rs2 => Sys2Proof.Machine.execMulh h rd rs1 rs2 s
  | .mulhu h rd rs1 rs2 => Sys2Proof.Machine.execMulhu h rd rs1 rs2 s
  | .div h rd rs1 rs2 => Sys2Proof.Machine.execDiv h rd rs1 rs2 s
  | .divu h rd rs1 rs2 => Sys2Proof.Machine.execDivu h rd rs1 rs2 s
  | .rem h rd rs1 rs2 => Sys2Proof.Machine.execRem h rd rs1 rs2 s
  | .remu h rd rs1 rs2 => Sys2Proof.Machine.execRemu h rd rs1 rs2 s
  | .clz h rd rs1 rs2 => Sys2Proof.Machine.execClz h rd rs1 rs2 s
  | .ctz h rd rs1 rs2 => Sys2Proof.Machine.execCtz h rd rs1 rs2 s
  | .popc h rd rs1 rs2 => Sys2Proof.Machine.execPopc h rd rs1 rs2 s
  | .bswap h rd rs1 rs2 => Sys2Proof.Machine.execBswap h rd rs1 rs2 s
  | .addi h rd rs1 imm => Sys2Proof.Machine.execAddi h rd rs1 imm s
  | .andi h rd rs1 imm => Sys2Proof.Machine.execAndi h rd rs1 imm s
  | .ori h rd rs1 imm => Sys2Proof.Machine.execOri h rd rs1 imm s
  | .xori h rd rs1 imm => Sys2Proof.Machine.execXori h rd rs1 imm s
  | .slti h rd rs1 imm => Sys2Proof.Machine.execSlti h rd rs1 imm s
  | .sltiu h rd rs1 imm => Sys2Proof.Machine.execSltiu h rd rs1 imm s
  | .slli h rd rs1 imm => Sys2Proof.Machine.execSlli h rd rs1 imm s
  | .srli h rd rs1 imm => Sys2Proof.Machine.execSrli h rd rs1 imm s
  | .srai h rd rs1 imm => Sys2Proof.Machine.execSrai h rd rs1 imm s
  | .lui h rd rs1 imm => Sys2Proof.Machine.execLui h rd rs1 imm s
  | .jalr h rd rs1 imm => Sys2Proof.Machine.execJalr h rd rs1 imm s
  | .csrSwap h rd rs1 rsv num => Sys2Proof.Machine.execCsrSwap h rd rs1 rsv num s
  | .csrSet h rd rs1 rsv num => Sys2Proof.Machine.execCsrSet h rd rs1 rsv num s
  | .csrClear h rd rs1 rsv num => Sys2Proof.Machine.execCsrClear h rd rs1 rsv num s
  | .csrRead h rd rs1 rsv num => Sys2Proof.Machine.execCsrRead h rd rs1 rsv num s
  | .syscall h rd rs1 arg => Sys2Proof.Machine.execSyscall h rd rs1 arg s
  | .eret h rd rs1 arg => Sys2Proof.Machine.execEret h rd rs1 arg s
  | .fence h rd rs1 arg => Sys2Proof.Machine.execFence h rd rs1 arg s
  | .wfi h rd rs1 arg => Sys2Proof.Machine.execWfi h rd rs1 arg s
  | .breaknz h rd rs1 arg => Sys2Proof.Machine.execBreaknz h rd rs1 arg s
  | .lexit h rd rs1 arg => Sys2Proof.Machine.execLexit h rd rs1 arg s
  | .beq h rs1 rs2 off => Sys2Proof.Machine.execBeq h rs1 rs2 off s
  | .bne h rs1 rs2 off => Sys2Proof.Machine.execBne h rs1 rs2 off s
  | .blt h rs1 rs2 off => Sys2Proof.Machine.execBlt h rs1 rs2 off s
  | .bge h rs1 rs2 off => Sys2Proof.Machine.execBge h rs1 rs2 off s
  | .bltu h rs1 rs2 off => Sys2Proof.Machine.execBltu h rs1 rs2 off s
  | .bgeu h rs1 rs2 off => Sys2Proof.Machine.execBgeu h rs1 rs2 off s
  | .lb h rd rs1 imm => Sys2Proof.Machine.execLb h rd rs1 imm s
  | .lbu h rd rs1 imm => Sys2Proof.Machine.execLbu h rd rs1 imm s
  | .lh h rd rs1 imm => Sys2Proof.Machine.execLh h rd rs1 imm s
  | .lhu h rd rs1 imm => Sys2Proof.Machine.execLhu h rd rs1 imm s
  | .lw h rd rs1 imm => Sys2Proof.Machine.execLw h rd rs1 imm s
  | .lwu h rd rs1 imm => Sys2Proof.Machine.execLwu h rd rs1 imm s
  | .ld h rd rs1 imm => Sys2Proof.Machine.execLd h rd rs1 imm s
  | .sb h rs2 rs1 imm => Sys2Proof.Machine.execSb h rs2 rs1 imm s
  | .sh h rs2 rs1 imm => Sys2Proof.Machine.execSh h rs2 rs1 imm s
  | .sw h rs2 rs1 imm => Sys2Proof.Machine.execSw h rs2 rs1 imm s
  | .sd h rs2 rs1 imm => Sys2Proof.Machine.execSd h rs2 rs1 imm s
  | .loop h rdf rs1 len => Sys2Proof.Machine.execLoop h rdf rs1 len s
  | .loopi h rdf rs1 aux imm => Sys2Proof.Machine.execLoopi h rdf rs1 aux imm s
  | .j h off => Sys2Proof.Machine.execJ h off s
  | .jal h off => Sys2Proof.Machine.execJal h off s
  | .li h rd rs1 aux imm => Sys2Proof.Machine.execLi h rd rs1 aux imm s
  | .liu h rd rs1 aux imm => Sys2Proof.Machine.execLiu h rd rs1 aux imm s
  | .lih h rd rs1 aux imm => Sys2Proof.Machine.execLih h rd rs1 aux imm s
  | .addil h rd rs1 aux imm => Sys2Proof.Machine.execAddil h rd rs1 aux imm s
  | .vadd h scal f => Sys2Proof.Machine.execVadd h scal f s
  | .vsub h scal f => Sys2Proof.Machine.execVsub h scal f s
  | .vand h scal f => Sys2Proof.Machine.execVand h scal f s
  | .vor h scal f => Sys2Proof.Machine.execVor h scal f s
  | .vxor h scal f => Sys2Proof.Machine.execVxor h scal f s
  | .vandn h scal f => Sys2Proof.Machine.execVandn h scal f s
  | .vsll h scal f => Sys2Proof.Machine.execVsll h scal f s
  | .vsrl h scal f => Sys2Proof.Machine.execVsrl h scal f s
  | .vsra h scal f => Sys2Proof.Machine.execVsra h scal f s
  | .vmin h scal f => Sys2Proof.Machine.execVmin h scal f s
  | .vmax h scal f => Sys2Proof.Machine.execVmax h scal f s
  | .vminu h scal f => Sys2Proof.Machine.execVminu h scal f s
  | .vmaxu h scal f => Sys2Proof.Machine.execVmaxu h scal f s
  | .vmul h scal f => Sys2Proof.Machine.execVmul h scal f s
  | .vmulh h scal f => Sys2Proof.Machine.execVmulh h scal f s
  | .vmulhu h scal f => Sys2Proof.Machine.execVmulhu h scal f s
  | .vrsub h scal f => Sys2Proof.Machine.execVrsub h scal f s
  | .sadd h rm f => Sys2Proof.Machine.execSadd h rm f s
  | .ssub h rm f => Sys2Proof.Machine.execSsub h rm f s
  | .uadd h rm f => Sys2Proof.Machine.execUadd h rm f s
  | .usub h rm f => Sys2Proof.Machine.execUsub h rm f s
  | .avg h rm f => Sys2Proof.Machine.execAvg h rm f s
  | .sabs h rm f => Sys2Proof.Machine.execSabs h rm f s
  | .sneg h rm f => Sys2Proof.Machine.execSneg h rm f s
  | .sshl h rm f => Sys2Proof.Machine.execSshl h rm f s
  | .vcmp h fn f => Sys2Proof.Machine.execVcmp h fn f s
  | .vqmul h rm sh f => Sys2Proof.Machine.execVqmul h rm sh f s
  | .vqshr h rm sh f => Sys2Proof.Machine.execVqshr h rm sh f s
  | .vqnrw h rm sh f => Sys2Proof.Machine.execVqnrw h rm sh f s
  | .vmv h f => Sys2Proof.Machine.execVmv h f s
  | .vmerge h f => Sys2Proof.Machine.execVmerge h f s
  | .vbcast h f => Sys2Proof.Machine.execVbcast h f s
  | .vid h f => Sys2Proof.Machine.execVid h f s
  | .vext h f => Sys2Proof.Machine.execVext h f s
  | .vins h f => Sys2Proof.Machine.execVins h f s
  | .mand h f => Sys2Proof.Machine.execMand h f s
  | .mor h f => Sys2Proof.Machine.execMor h f s
  | .mxor h f => Sys2Proof.Machine.execMxor h f s
  | .mandn h f => Sys2Proof.Machine.execMandn h f s
  | .mnot h f => Sys2Proof.Machine.execMnot h f s
  | .mpop h f => Sys2Proof.Machine.execMpop h f s
  | .mfirst h f => Sys2Proof.Machine.execMfirst h f s
  | .mfromx h f => Sys2Proof.Machine.execMfromx h f s
  | .mtox h f => Sys2Proof.Machine.execMtox h f s
  | .vld h kind low f => Sys2Proof.Machine.execVld h kind low f s
  | .vst h kind low f => Sys2Proof.Machine.execVst h kind low f s
  | .vgather h isc low f => Sys2Proof.Machine.execVgather h isc low f s
  | .vscatter h isc low f => Sys2Proof.Machine.execVscatter h isc low f s
  | .vredSum h f => Sys2Proof.Machine.execVredSum h f s
  | .vredSumu h f => Sys2Proof.Machine.execVredSumu h f s
  | .vredSsum h f => Sys2Proof.Machine.execVredSsum h f s
  | .vredMin h f => Sys2Proof.Machine.execVredMin h f s
  | .vredMax h f => Sys2Proof.Machine.execVredMax h f s
  | .vredMinu h f => Sys2Proof.Machine.execVredMinu h f s
  | .vredMaxu h f => Sys2Proof.Machine.execVredMaxu h f s
  | .vsldn h f => Sys2Proof.Machine.execVsldn h f s
  | .vslup h f => Sys2Proof.Machine.execVslup h f s
  | .vperm h f => Sys2Proof.Machine.execVperm h f s
  | .vcompress h f => Sys2Proof.Machine.execVcompress h f s
  | .fadd h f => Sys2Proof.Machine.execFadd h f s
  | .fsub h f => Sys2Proof.Machine.execFsub h f s
  | .fmul h f => Sys2Proof.Machine.execFmul h f s
  | .fmin h f => Sys2Proof.Machine.execFmin h f s
  | .fmax h f => Sys2Proof.Machine.execFmax h f s
  | .fabs h f => Sys2Proof.Machine.execFabs h f s
  | .fneg h f => Sys2Proof.Machine.execFneg h f s
  | .feq h f => Sys2Proof.Machine.execFeq h f s
  | .flt h f => Sys2Proof.Machine.execFlt h f s
  | .fle h f => Sys2Proof.Machine.execFle h f s
  | .i2f h rm f => Sys2Proof.Machine.execI2f h rm f s
  | .f2i h rm f => Sys2Proof.Machine.execF2i h rm f s
  | .swlo h rm f => Sys2Proof.Machine.execSwlo h rm f s
  | .swhi h rm f => Sys2Proof.Machine.execSwhi h rm f s
  | .uwlo h rm f => Sys2Proof.Machine.execUwlo h rm f s
  | .uwhi h rm f => Sys2Proof.Machine.execUwhi h rm f s
  | .interruptTake h raised => Sys2Proof.Machine.execInterruptTake h raised s
  | .niWindowExpire h raised => Sys2Proof.Machine.execNiWindowExpire h raised s
  | .houndReset h => Sys2Proof.Machine.execHoundReset h s
  | .houndAbortTimeout h => Sys2Proof.Machine.execHoundAbortTimeout h s
  | .houndJobStart h => Sys2Proof.Machine.execHoundJobStart h s
  | .houndStageTile h port => Sys2Proof.Machine.execHoundStageTile h port s
  | .take h => Sys2Proof.Machine.execTake h s
  | .release h => Sys2Proof.Machine.execRelease h s
  | .alloc h => Sys2Proof.Machine.execAlloc h s
  | .publish h => Sys2Proof.Machine.execPublish h s
  | .skip h => Sys2Proof.Machine.execSkip h s
  | .done h => Sys2Proof.Machine.execDone h s
  | .fail h => Sys2Proof.Machine.execFail h s
  | .czeCompressTile cze verifyOk => Sys2Proof.Machine.execCzeCompressTile cze verifyOk s
  | .czeDecompressTile cze => Sys2Proof.Machine.execCzeDecompressTile cze s
  | .czeEndMark v => Sys2Proof.Machine.execCzeEndMark v s
  | .czeStateRestore v => Sys2Proof.Machine.execCzeStateRestore v s
  | .czeStateSave v => Sys2Proof.Machine.execCzeStateSave v s
  | .dgeInit q e => Sys2Proof.Machine.execDgeInit q e s
  | .dgeUpdate q e host => Sys2Proof.Machine.execDgeUpdate q e host s
  | .dgeRead q e => Sys2Proof.Machine.execDgeRead q e s
  | .dgeVerify q e => Sys2Proof.Machine.execDgeVerify q e s
  | .dgeClose q e => Sys2Proof.Machine.execDgeClose q e s
  | .dgeKey q e key cust => Sys2Proof.Machine.execDgeKey q e key cust s
  | .dgeInitGrant => Sys2Proof.Machine.execDgeInitGrant s
  | .dgeBlock pipe => Sys2Proof.Machine.execDgeBlock pipe s
  | .dgeVertexTile v => Sys2Proof.Machine.execDgeVertexTile v s
  | .dramRead line who ecc dev => Sys2Proof.Machine.execDramRead line who ecc dev s
  | .dramWrite line mask w => Sys2Proof.Machine.execDramWrite line mask w s
  | .dramWqIssue ch sub => Sys2Proof.Machine.execDramWqIssue ch sub s
  | .dramPatrolRead ch ecc dev => Sys2Proof.Machine.execDramPatrolRead ch ecc dev s
  | .rowActivate ch sub bank row => Sys2Proof.Machine.execRowActivate ch sub bank row s
  | .refreshWindowEnd ch => Sys2Proof.Machine.execRefreshWindowEnd ch s
  | .ddrRetune mb m => Sys2Proof.Machine.execDdrRetune mb m s
  | .ddrRetuneAuto ch dTemp dCe => Sys2Proof.Machine.execDdrRetuneAuto ch dTemp dCe s
  | .dramZeroingDone => Sys2Proof.Machine.execDramZeroingDone s
  | .shcLookup port k line rq ecc => Sys2Proof.Machine.execShcLookup port k line rq ecc s
  | .shcFill port => Sys2Proof.Machine.execShcFill port s
  | .shcEvictWrite => Sys2Proof.Machine.execShcEvictWrite s
  | .shcDisable val => Sys2Proof.Machine.execShcDisable val s
  | .shcEnable val => Sys2Proof.Machine.execShcEnable val s
  | .shcFlushDone e => Sys2Proof.Machine.execShcFlushDone e s
  | .shcPortDrain port => Sys2Proof.Machine.execShcPortDrain port s
  | .wqCreate mb m => Sys2Proof.Machine.execWqCreate mb m s
  | .wqDestroy mb m => Sys2Proof.Machine.execWqDestroy mb m s
  | .cqCreate mb m => Sys2Proof.Machine.execCqCreate mb m s
  | .cqDestroy mb m => Sys2Proof.Machine.execCqDestroy mb m s
  | .queueReset mb m => Sys2Proof.Machine.execQueueReset mb m s
  | .queueResetComplete q => Sys2Proof.Machine.execQueueResetComplete q s
  | .cqReset c => Sys2Proof.Machine.execCqReset c s
  | .wqDoorbell q => Sys2Proof.Machine.execWqDoorbell q s
  | .pushDoorbell q data full => Sys2Proof.Machine.execPushDoorbell q data full s
  | .wqShadowRead q pi => Sys2Proof.Machine.execWqShadowRead q pi s
  | .wqFetch q e host cust => Sys2Proof.Machine.execWqFetch q e host cust s
  | .wqCiWrite q => Sys2Proof.Machine.execWqCiWrite q s
  | .cqDoorbell c ci => Sys2Proof.Machine.execCqDoorbell c ci s
  | .cqCiPoll c ci => Sys2Proof.Machine.execCqCiPoll c ci s
  | .cqOverflowDrain c => Sys2Proof.Machine.execCqOverflowDrain c s
  | .cqModTimer c => Sys2Proof.Machine.execCqModTimer c s
  | .msixSend v => Sys2Proof.Machine.execMsixSend v s
  | .hostDStateChange d3 busMaster pmeEn linkUp => Sys2Proof.Machine.execHostDStateChange d3 busMaster pmeEn linkUp s
  | .pmeRepeat linkUp => Sys2Proof.Machine.execPmeRepeat linkUp s
  | .kennelCreate mb m => Sys2Proof.Machine.execKennelCreate mb m s
  | .kennelDestroy mb m => Sys2Proof.Machine.execKennelDestroy mb m s
  | .setShare mb m => Sys2Proof.Machine.execSetShare mb m s
  | .getShare mb m => Sys2Proof.Machine.execGetShare mb m s
  | .kennelReset mb m => Sys2Proof.Machine.execKennelReset mb m s
  | .kennelResetDone k => Sys2Proof.Machine.execKennelResetDone k s
  | .kennelDrainOverrun k => Sys2Proof.Machine.execKennelDrainOverrun k s
  | .tsRead q e => Sys2Proof.Machine.execTsRead q e s
  | .tsWrite q e => Sys2Proof.Machine.execTsWrite q e s
  | .tsFill q e => Sys2Proof.Machine.execTsFill q e s
  | .tsFlush q e => Sys2Proof.Machine.execTsFlush q e s
  | .tsIssue order => Sys2Proof.Machine.execTsIssue order s
  | .tsPieceComplete order off host => Sys2Proof.Machine.execTsPieceComplete order off host s
  | .tsCreate mb m => Sys2Proof.Machine.execTsCreate mb m s
  | .tsZeroDone k => Sys2Proof.Machine.execTsZeroDone k s
  | .tsDelete mb m => Sys2Proof.Machine.execTsDelete mb m s
  | .tsInfo mb m => Sys2Proof.Machine.execTsInfo mb m s
  | .tsSelftest mb m => Sys2Proof.Machine.execTsSelftest mb m s
  | .tsSelftestStop mb m => Sys2Proof.Machine.execTsSelftestStop mb m s
  | .tsSelftestStatus mb m => Sys2Proof.Machine.execTsSelftestStatus mb m s
  | .selftestUnit ch unit bad ueAfter aclk => Sys2Proof.Machine.execSelftestUnit ch unit bad ueAfter aclk s
  | .selftestSuspend ch => Sys2Proof.Machine.execSelftestSuspend ch s
  | .selftestResume ch => Sys2Proof.Machine.execSelftestResume ch s
  | .boot env => Sys2Proof.Machine.execBoot env s
  | .hello mb m => Sys2Proof.Machine.execHello mb m s
  | .getVersion mb m => Sys2Proof.Machine.execGetVersion mb m s
  | .getEnvironment mb m fresh => Sys2Proof.Machine.execGetEnvironment mb m fresh s
  | .getLog mb m => Sys2Proof.Machine.execGetLog mb m s
  | .getMlog mb m => Sys2Proof.Machine.execGetMlog mb m s
  | .getIdentity mb m => Sys2Proof.Machine.execGetIdentity mb m s
  | .attest mb m => Sys2Proof.Machine.execAttest mb m s
  | .bindQuarantine mb m => Sys2Proof.Machine.execBindQuarantine mb m s
  | .bindVerdict mb m => Sys2Proof.Machine.execBindVerdict mb m s
  | .fwWrite mb m host => Sys2Proof.Machine.execFwWrite mb m host s
  | .fwVerify mb m => Sys2Proof.Machine.execFwVerify mb m s
  | .fwActivate mb m => Sys2Proof.Machine.execFwActivate mb m s
  | .fwActivateDrainDone runtime => Sys2Proof.Machine.execFwActivateDrainDone runtime s
  | .fwActivateTimeout => Sys2Proof.Machine.execFwActivateTimeout s
  | .fwReadyTimeout => Sys2Proof.Machine.execFwReadyTimeout s
  | .fwSetBoot mb m => Sys2Proof.Machine.execFwSetBoot mb m s
  | .environmentMeasure report => Sys2Proof.Machine.execEnvironmentMeasure report s
  | .herderWatchdogExpire => Sys2Proof.Machine.execHerderWatchdogExpire s
  | .leashLinkUp p tof lanes => Sys2Proof.Machine.execLeashLinkUp p tof lanes s
  | .leashLinkDown p => Sys2Proof.Machine.execLeashLinkDown p s
  | .leashLinkRetrain p => Sys2Proof.Machine.execLeashLinkRetrain p s
  | .leashFrameReceive p fseq crcOk f => Sys2Proof.Machine.execLeashFrameReceive p fseq crcOk f s
  | .leashAckTimer p => Sys2Proof.Machine.execLeashAckTimer p s
  | .ack p fseq => Sys2Proof.Machine.execAck p fseq s
  | .nack p fseq => Sys2Proof.Machine.execNack p fseq s
  | .probe p num t1 t2 t3 => Sys2Proof.Machine.execProbe p num t1 t2 t3 s
  | .echo p num t1 t2 t3 t4 => Sys2Proof.Machine.execEcho p num t1 t2 t3 t4 s
  | .cap p record => Sys2Proof.Machine.execCap p record s
  | .tofMeasure p raw => Sys2Proof.Machine.execTofMeasure p raw s
  | .walk p w => Sys2Proof.Machine.execWalk p w s
  | .walkTimeout => Sys2Proof.Machine.execWalkTimeout s
  | .chainDone p gen count ring => Sys2Proof.Machine.execChainDone p gen count ring s
  | .chainAbort p gen => Sys2Proof.Machine.execChainAbort p gen s
  | .chainBreak p id => Sys2Proof.Machine.execChainBreak p id s
  | .chainMend p => Sys2Proof.Machine.execChainMend p s
  | .epochMark p num delay epLen dt hold period => Sys2Proof.Machine.execEpochMark p num delay epLen dt hold period s
  | .leashVerdict p dt msg lat => Sys2Proof.Machine.execLeashVerdict p dt msg lat s
  | .xdata p hdr jobkey off total seq data => Sys2Proof.Machine.execXdata p hdr jobkey off total seq data s
  | .xcredit p hdr jobkey n => Sys2Proof.Machine.execXcredit p hdr jobkey n s
  | .xend p hdr jobkey => Sys2Proof.Machine.execXend p hdr jobkey s
  | .xabort p hdr jobkey status => Sys2Proof.Machine.execXabort p hdr jobkey status s
  | .chainStatus mb m => Sys2Proof.Machine.execChainStatus mb m s
  | .chainWalk mb m => Sys2Proof.Machine.execChainWalk mb m s
  | .chainSetHead mb m => Sys2Proof.Machine.execChainSetHead mb m s
  | .linkReset mb m => Sys2Proof.Machine.execLinkReset mb m s
  | .setVfan mb m => Sys2Proof.Machine.execSetVfan mb m s
  | .pwrEnterP1 mb m => Sys2Proof.Machine.execPwrEnterP1 mb m s
  | .pwrEnterP2 mb m => Sys2Proof.Machine.execPwrEnterP2 mb m s
  | .pwrEnterP3 mb m => Sys2Proof.Machine.execPwrEnterP3 mb m s
  | .pwrEnterP4 mb m => Sys2Proof.Machine.execPwrEnterP4 mb m s
  | .pwrExit mb m => Sys2Proof.Machine.execPwrExit mb m s
  | .pwrStatus mb m => Sys2Proof.Machine.execPwrStatus mb m s
  | .warmReset mb m tagError => Sys2Proof.Machine.execWarmReset mb m tagError s
  | .coldReset mb m => Sys2Proof.Machine.execColdReset mb m s
  | .perst strap => Sys2Proof.Machine.execPerst strap s
  | .powerOn strap => Sys2Proof.Machine.execPowerOn strap s
  | .powerLimitCheck mA mW temp16 => Sys2Proof.Machine.execPowerLimitCheck mA mW temp16 s
  | .railOutOfRange rail => Sys2Proof.Machine.execRailOutOfRange rail s
  | .pmbAlert words => Sys2Proof.Machine.execPmbAlert words s
  | .thermalTrip temp16 => Sys2Proof.Machine.execThermalTrip temp16 s
  | .evtTest val => Sys2Proof.Machine.execEvtTest val s
  | .evtStatusClear idx val raised => Sys2Proof.Machine.execEvtStatusClear idx val raised s
  | .evtMaskWrite idx val => Sys2Proof.Machine.execEvtMaskWrite idx val s
  | .evtRouteWrite src val => Sys2Proof.Machine.execEvtRouteWrite src val s
  | .knEventClear k val raised => Sys2Proof.Machine.execKnEventClear k val raised s
  | .msixUnmask t => Sys2Proof.Machine.execMsixUnmask t s
  | .tapInstruction ir released => Sys2Proof.Machine.execTapInstruction ir released s
  | .ingestLinkUp g port => Sys2Proof.Machine.execIngestLinkUp g port s
  | .ingestLinkDown g port => Sys2Proof.Machine.execIngestLinkDown g port s
  | .pauseFrameReceive g port classes quanta => Sys2Proof.Machine.execPauseFrameReceive g port classes quanta s
  | .rawlinkIdleBlock g lane => Sys2Proof.Machine.execRawlinkIdleBlock g lane s
  | .reservedInstruction h word => Sys2Proof.Machine.execReservedInstruction h word s
  | .mailboxBadOpcode mb opcode m => Sys2Proof.Machine.execMailboxBadOpcode mb opcode m s
  | .mailboxBusyWrite mb => Sys2Proof.Machine.execMailboxBusyWrite mb s
  | .herderCoreLockup core => Sys2Proof.Machine.execHerderCoreLockup core s
  | .gridLinkRetryFail die => Sys2Proof.Machine.execGridLinkRetryFail die s
  | .powerDown aon => Sys2Proof.Machine.execPowerDown aon s
  | .leashExchTile v => Sys2Proof.Machine.execLeashExchTile v s

end Sys2Proof.Machine
end

