-- ==== Sys2Proof/Safety.lean ====
section
/-! DEFINITION. The terms in which claims about runs are stated: the invariant of the
state, the condition in which a Hound issues, and what an instruction may change. -/

namespace Sys2Proof.Machine

open Sys2Proof

/-! ### The invariant -/

/-- The register file of a Hound has its registers, and VLEN is one that R241 admits. -/
def HoundRegs.shaped (r : HoundRegs) : Bool :=
  r.x.length == 32 && r.v.length == 32 && r.m.length == 8 &&
  r.vlen.toNat % 512 == 0 && 512 ≤ r.vlen.toNat && r.vlen.toNat ≤ 4096

/-- A Hound is shaped so, and its scratchpad is canonical. -/
def HoundSt.shaped (x : HoundSt) : Bool := x.regs.shaped && x.spad.wf

/-- The invariant: every store of bytes that outlasts a job is in canonical form, and
every Hound has its registers. -/
def State.inv (s : State) : Bool :=
  s.dram.mem.wf && s.herder.slotA.wf && s.herder.slotB.wf && s.hounds.all (fun e => e.2.shaped)

/-! ### Outcomes and frames -/

/-- The command has the effect `t`. -/
abbrev Goes (c : Instr) (s t : State) : Prop := exec c s = .next t

/-- A plan, and a kennel, but for what plans have counted (R452). -/
def Plan.bare (p : Plan) : Plan := { p with counts := [] }
def Kennel.bare (x : Kennel) : Kennel := { x with plans := x.plans.map (fun e => (e.1, e.2.bare)) }
def forgetCounts (ks : Tbl Kennel) : Tbl Kennel := ks.map (fun e => (e.1, e.2.bare))

/-- The kennels differ at most in what their plans have counted. -/
def sameKennels (s t : State) : Prop := forgetCounts t.kennels = forgetCounts s.kennels

/-! ### A Hound issues (R217, R229) -/

/-- The Hound runs a job, is not held, and can fetch the instruction at its PC. -/
def canIssue (s : State) (h : Nat) (long : Bool) : Bool :=
  houndRuns s h && (fetchTrap s h long).isNone && (!long || (hregs s h).pc.toNat % 8 == 0)

/-- A counter has counted `n` more, saturating at all ones of 32 bits. -/
def counted (s t : State) (off n : Nat) : Prop :=
  regVal t off = if n = 0 then regVal s off else min (2 ^ 32 - 1) (regVal s off + n)

/-- Nothing but the Hound, the counters, what plans count, and the free numbers used. -/
def onlyHound (s t : State) (h : Nat) : Prop :=
  t = { s with regs := t.regs, kennels := t.kennels, hounds := t.hounds, free := t.free } ∧
  sameKennels s t ∧ (∀ g, g ≠ h → hound t g = hound s g)

/-- The Hound has issued an instruction that leaves its registers as `r`, and nothing
else but the code lines in its L1I changed. -/
def ranRegs (s t : State) (h : Nat) (r : HoundRegs) : Prop :=
  onlyHound s t h ∧ hound t h = { hound s h with regs := r, l1i := (hound t h).l1i } ∧
  counted s t (houndCounter h 0) 1

/-- The same, where the branch took `n` HCLK more (R222). -/
def ranBranch (s t : State) (h : Nat) (r : HoundRegs) (n : Nat) : Prop :=
  ranRegs s t h r ∧ counted s t (houndCounter h 1) n

/-- The address of the instruction after one of `len` bytes. -/
def pcAfter (s : State) (h len : Nat) : Nat := (hregs s h).pc.toNat + len

end Sys2Proof.Machine
end

