-- ==== Sys2Proof/Certificates/Slice0/Obligations.lean ====
section
/-! DEFINITION. The statements about the model, for the provers. -/

namespace Sys2Proof.Claims

/-- Where a statement's own tables and terms stand. -/
abbrev Rows (α : Type) := List α

end Sys2Proof.Claims

section

open Sys2Proof Sys2Proof.Machine Sys2Proof.Claims

/-! ### Hounds: scalar instructions -/

/-- R219's table of two operands, from the words of the rule. -/
def Sys2Proof.Claims.aluTable : List ((Fin 128 → Fin 32 → Fin 32 → Fin 32 → Instr) × (Word → Word → Word)) :=
  [(.add, fun a b => a + b), (.sub, fun a b => a - b), (.and, fun a b => a &&& b),
   (.or, fun a b => a ||| b), (.xor, fun a b => a ^^^ b),
   (.sll, fun a b => a <<< (b.toNat % 64)), (.srl, fun a b => a >>> (b.toNat % 64)),
   (.sra, fun a b => a.sshiftRight (b.toNat % 64)),
   (.slt, fun a b => if a.slt b then 1 else 0), (.sltu, fun a b => if a.ult b then 1 else 0),
   (.min, fun a b => if b.slt a then b else a), (.max, fun a b => if a.slt b then b else a),
   (.minu, fun a b => if b.ult a then b else a), (.maxu, fun a b => if a.ult b then b else a),
   (.mul, fun a b => a * b),
   (.mulh, fun a b => (a.signExtend 128 * b.signExtend 128).extractLsb' 64 64),
   (.mulhu, fun a b => (a.zeroExtend 128 * b.zeroExtend 128).extractLsb' 64 64),
   (.div, fun a b => if b = 0 then BitVec.allOnes 64 else a.sdiv b),
   (.divu, fun a b => if b = 0 then BitVec.allOnes 64 else a.udiv b),
   (.rem, fun a b => if b = 0 then a else a.srem b),
   (.remu, fun a b => if b = 0 then a else a.umod b)]

/-- R219's table of one operand: each result by what is true of its bits. -/
def Sys2Proof.Claims.aluOneTable : List ((Fin 128 → Fin 32 → Fin 32 → Fin 32 → Instr) × (Word → Word → Prop)) :=
  [(.clz, fun a v => v.toNat ≤ 64 ∧ (∀ i, i < v.toNat → a.getLsbD (63 - i) = false) ∧
      (v.toNat < 64 → a.getLsbD (63 - v.toNat) = true)),
   (.ctz, fun a v => v.toNat ≤ 64 ∧ (∀ i, i < v.toNat → a.getLsbD i = false) ∧
      (v.toNat < 64 → a.getLsbD v.toNat = true)),
   (.popc, fun a v => v.toNat = (List.range 64).countP (fun i => a.getLsbD i)),
   (.bswap, fun a v => ∀ i, i < 8 → v.extractLsb' (8 * i) 8 = a.extractLsb' (8 * (7 - i)) 8)]

/-- ADD to REMU, CLZ, CTZ, POPC and BSWAP write RD and go on (R210, R219). -/
def Sys2Proof.Claims.houndAluResults : Prop :=
  (∀ p ∈ aluTable, ∀ (h : Fin 128) (rd rs1 rs2 : Fin 32) (s : State), canIssue s h.val false = true →
    ∃ t, exec (p.1 h rd rs1 rs2) s = .next t ∧
      ranRegs s t h.val (advance ((hregs s h.val).wx rd.val
        (p.2 ((hregs s h.val).rx rs1.val) ((hregs s h.val).rx rs2.val))) (pcAfter s h.val 4))) ∧
  (∀ p ∈ aluOneTable, ∀ (h : Fin 128) (rd rs1 : Fin 32) (s : State), canIssue s h.val false = true →
    ∃ t v, exec (p.1 h rd rs1 0) s = .next t ∧ p.2 ((hregs s h.val).rx rs1.val) v ∧
      ranRegs s t h.val (advance ((hregs s h.val).wx rd.val v) (pcAfter s h.val 4)))

/-- The format I instructions with their functions (R218). -/
def Sys2Proof.Claims.immTable : List ((Fin 128 → Fin 32 → Fin 32 → BitVec 16 → Instr) × (Word → BitVec 16 → Word)) :=
  [(.addi, fun a i => a + i.signExtend 64), (.andi, fun a i => a &&& i.signExtend 64),
   (.ori, fun a i => a ||| i.zeroExtend 64), (.xori, fun a i => a ^^^ i.zeroExtend 64),
   (.slti, fun a i => if a.slt (i.signExtend 64) then 1 else 0),
   (.sltiu, fun a i => if a.ult (i.signExtend 64) then 1 else 0)]

/-- The immediate shifts: IMM16[7:6] is part of the opcode, IMM16[15:8] is 0 (R218). -/
def Sys2Proof.Claims.shiftTable : List ((Fin 128 → Fin 32 → Fin 32 → BitVec 16 → Instr) × (Word → Nat → Word)) :=
  [(.slli, fun a n => a <<< n), (.srli, fun a n => a >>> n), (.srai, fun a n => a.sshiftRight n)]

/-- The long forms: RD's old value, RS1 and IMM32 (R221). -/
def Sys2Proof.Claims.longTable : List ((Fin 128 → Fin 32 → Fin 32 → BitVec 11 → BitVec 32 → Instr) × Bool ×
    (Word → Word → BitVec 32 → Word)) :=
  [(.li, true, fun _ _ i => i.signExtend 64), (.liu, true, fun _ _ i => i.zeroExtend 64),
   (.lih, true, fun old _ i => i ++ old.extractLsb' 0 32),
   (.addil, false, fun _ a i => a + i.signExtend 64)]

/-- ADDI to SLTIU, the immediate shifts, LUI and the long forms write RD and go on (R218,
R221). -/
def Sys2Proof.Claims.houndImmediateResults : Prop :=
  (∀ p ∈ immTable, ∀ (h : Fin 128) (rd rs1 : Fin 32) (imm : BitVec 16) (s : State),
    canIssue s h.val false = true →
    ∃ t, exec (p.1 h rd rs1 imm) s = .next t ∧
      ranRegs s t h.val (advance ((hregs s h.val).wx rd.val (p.2 ((hregs s h.val).rx rs1.val) imm))
        (pcAfter s h.val 4))) ∧
  (∀ p ∈ shiftTable, ∀ (h : Fin 128) (rd rs1 : Fin 32) (imm : BitVec 16) (s : State),
    canIssue s h.val false = true → imm.extractLsb' 8 8 = 0 →
    ∃ t, exec (p.1 h rd rs1 imm) s = .next t ∧
      ranRegs s t h.val (advance ((hregs s h.val).wx rd.val
        (p.2 ((hregs s h.val).rx rs1.val) (imm.toNat % 64))) (pcAfter s h.val 4))) ∧
  (∀ (h : Fin 128) (rd : Fin 32) (imm : BitVec 16) (s : State), canIssue s h.val false = true →
    ∃ t, exec (.lui h rd 0 imm) s = .next t ∧
      ranRegs s t h.val (advance ((hregs s h.val).wx rd.val ((imm ++ (0 : BitVec 16)).signExtend 64))
        (pcAfter s h.val 4))) ∧
  (∀ p ∈ longTable, ∀ (h : Fin 128) (rd rs1 : Fin 32) (imm : BitVec 32) (s : State),
    canIssue s h.val true = true → (p.2.1 = true → rs1 = 0) →
    ∃ t, exec (p.1 h rd rs1 0 imm) s = .next t ∧
      ranRegs s t h.val (advance ((hregs s h.val).wx rd.val
        (p.2.2 ((hregs s h.val).rx rd.val) ((hregs s h.val).rx rs1.val) imm)) (pcAfter s h.val 8)))

/-- The conditions of the branches (R218). -/
def Sys2Proof.Claims.branchTable : List ((Fin 128 → Fin 32 → Fin 32 → BitVec 16 → Instr) × (Word → Word → Bool)) :=
  [(.beq, fun a b => a == b), (.bne, fun a b => a != b), (.blt, fun a b => a.slt b),
   (.bge, fun a b => !a.slt b), (.bltu, fun a b => a.ult b), (.bgeu, fun a b => !a.ult b)]

/-- A branch goes to its own address plus 4 × OFF16 where its condition holds, and on
otherwise; J and JAL go there always, JALR to RS1 + IMM16 with bits [1:0] cleared, and the
link is the address after (R217, R218, R222). -/
def Sys2Proof.Claims.houndBranchTargets : Prop :=
  (∀ p ∈ branchTable, ∀ (h : Fin 128) (rs1 rs2 : Fin 32) (off : BitVec 16) (s : State),
    canIssue s h.val false = true →
    let r := hregs s h.val
    ∃ t, exec (p.1 h rs1 rs2 off) s = .next t ∧
      ranBranch s t h.val (if p.2 (r.rx rs1.val) (r.rx rs2.val)
        then { r with pc := r.pc + 4 * off.signExtend 64 } else advance r (pcAfter s h.val 4)) 3) ∧
  (∀ (h : Fin 128) (off : BitVec 26) (s : State), canIssue s h.val false = true →
    let r := hregs s h.val
    (∃ t, exec (.j h off) s = .next t ∧
      ranRegs s t h.val { r with pc := r.pc + 4 * off.signExtend 64 }) ∧
    (∃ t, exec (.jal h off) s = .next t ∧
      ranRegs s t h.val { r.wx 1 (r.pc + 4) with pc := r.pc + 4 * off.signExtend 64 })) ∧
  (∀ (h : Fin 128) (rd rs1 : Fin 32) (imm : BitVec 16) (s : State), canIssue s h.val false = true →
    let r := hregs s h.val
    ∃ t, exec (.jalr h rd rs1 imm) s = .next t ∧
      ranBranch s t h.val { r.wx rd.val (r.pc + 4) with
        pc := (r.rx rs1.val + imm.signExtend 64) &&& 0xFFFFFFFFFFFFFFFC } 3)

/-- What opens a loop of COUNT and LEN whose body starts at byte `next` (R223, R226, R227). -/
def Sys2Proof.Claims.loopLegal (s : State) (h n len next : Nat) : Bool :=
  let r := hregs s h
  let base := loopBase r.smode
  len != 0 && !r.loopOn n && base ≤ next && next + 4 * len ≤ base + loopSection s h r.smode &&
  !lastOfBody r ((next - base) / 4 - 1) &&
  !(n == 1 && r.loopOn 0 && r.loopStart 0 + r.loopLen 0 < (next - base) / 4 + len)

/-- The registers with a loop of level `n` opened, or passed over where COUNT is 0 (R223). -/
def Sys2Proof.Claims.loopOpened (r : HoundRegs) (n count len next : Nat) : HoundRegs :=
  let base := loopBase r.smode
  if count = 0 then { r with pc := BitVec.ofNat 64 (base + 4 * ((next - base) / 4 + len)) }
  else { (r.setLcnt n (((next - base) / 4 % 2 ^ 24) * 2 ^ 40 + len * 2 ^ 24 + min count 0xFFFFFF)).setLoop n true
    with pc := BitVec.ofNat 64 next }

/-- LOOP and LOOPI open a loop, BREAKNZ leaves one where RS1 is not 0, and LEXIT closes one
with no jump (R220, R223, R225). -/
def Sys2Proof.Claims.houndLoops : Prop :=
  (∀ (h : Fin 128) (n : Fin 2) (rs1 : Fin 32) (len : BitVec 16) (s : State),
    canIssue s h.val false = true → loopLegal s h.val n.val len.toNat (pcAfter s h.val 4) = true →
    ∃ t, exec (.loop h (Fin.ofNat 32 (16 * n.val)) rs1 len) s = .next t ∧
      ranRegs s t h.val (loopOpened (hregs s h.val) n.val ((hregs s h.val).rx rs1.val).toNat len.toNat
        (pcAfter s h.val 4))) ∧
  (∀ (h : Fin 128) (n : Fin 2) (len : BitVec 11) (count : BitVec 24) (s : State),
    canIssue s h.val true = true → loopLegal s h.val n.val len.toNat (pcAfter s h.val 8) = true →
    ∃ t, exec (.loopi h (Fin.ofNat 32 n.val) 0 len (count.zeroExtend 32)) s = .next t ∧
      ranRegs s t h.val (loopOpened (hregs s h.val) n.val count.toNat len.toNat (pcAfter s h.val 8))) ∧
  (∀ (h : Fin 128) (rs1 : Fin 32) (n : Fin 2) (s : State),
    canIssue s h.val false = true → atBodyEnd (hregs s h.val) = false →
    let r := hregs s h.val
    ∃ t, exec (.breaknz h 0 rs1 (BitVec.ofNat 12 n.val)) s = .next t ∧
      (r.rx rs1.val = 0 → ranRegs s t h.val (advance r (pcAfter s h.val 4))) ∧
      (r.rx rs1.val ≠ 0 → ranBranch s t h.val { r.setLoop n.val false with
        pc := BitVec.ofNat 64 (loopBase r.smode + 4 * (r.loopStart n.val + r.loopLen n.val)) } 4)) ∧
  (∀ (h : Fin 128) (n : Fin 2) (s : State), canIssue s h.val false = true →
    ∃ t, exec (.lexit h 0 0 (BitVec.ofNat 12 n.val)) s = .next t ∧
      ranRegs s t h.val (advance ((hregs s h.val).setLoop n.val false) (pcAfter s h.val 4)))

def Obligations.HoundArithmetic : Prop := houndAluResults ∧ houndImmediateResults

def Obligations.HoundControlFlow : Prop := houndBranchTargets ∧ houndLoops


/-! ### Hounds: control registers, system instructions, exceptions -/

/-- The instruction with word 0 `word` has been fetched and counted, and has trapped. -/
def Sys2Proof.Claims.tookTrap (s t : State) (h word : Nat) (tr : Trap) : Prop :=
  ∃ u, onlyHound s u h ∧ hound u h = { hound s h with l1i := (hound u h).l1i } ∧
    counted s u (houndCounter h 0) 1 ∧ t = enterTrap u h word tr

/-- R211's table: number, register, and whether U mode may read it. -/
def Sys2Proof.Claims.csrTable : List (BitVec 12 × (HoundSt → Word) × Bool) :=
  [(0x000, fun x => x.regs.status, true), (0x001, fun x => x.regs.estatus, false),
   (0x002, fun x => x.regs.epc, false), (0x003, fun x => x.regs.ecause, false),
   (0x004, fun x => x.regs.eaddr, false), (0x005, fun x => x.regs.einfo, false),
   (0x010, fun x => x.regs.vlen, true), (0x011, fun x => x.regs.vprog, true),
   (0x020, fun x => x.regs.ssp, false), (0x021, fun x => x.regs.sstkBase, false),
   (0x022, fun x => x.regs.sstkLimit, false), (0x023, fun x => x.privCeil.zeroExtend 64, false),
   (0x030, fun x => x.regs.lcnt0, true), (0x031, fun x => x.regs.lcnt1, true)]

/-- A write of a control register: its number, whether U mode may write it, the values it
takes, and the registers after. STATUS stands apart. -/
def Sys2Proof.Claims.csrWrites : List (BitVec 12 × Bool × (Word → Bool) × (HoundRegs → Word → HoundRegs)) :=
  [(0x001, false, fun _ => true, fun r v => { r with estatus := v &&& 0x3F }),
   (0x002, false, fun _ => true, fun r v => { r with epc := v }),
   (0x003, false, fun _ => true, fun r v => { r with ecause := v &&& 0xFF }),
   (0x004, false, fun _ => true, fun r v => { r with eaddr := v }),
   (0x005, false, fun _ => true, fun r v => { r with einfo := v &&& 0xFFFFFFFF00FFC3FF }),
   (0x010, true, fun v => v.toNat % 512 == 0 && 512 ≤ v.toNat % 8192 && v.toNat % 8192 ≤ 4096,
     fun r v => { r with vlen := v &&& 0x1FFF }),
   (0x011, true, fun _ => true, fun r v => { r with vprog := v &&& 0x107 }),
   (0x020, false, fun _ => true, fun r v => { r with ssp := v }),
   (0x021, false, fun _ => true, fun r v => { r with sstkBase := v }),
   (0x022, false, fun _ => true, fun r v => { r with sstkLimit := v }),
   (0x030, true, fun v => v.extractLsb' 24 16 != 0, fun r v => { r with lcnt0 := v }),
   (0x031, true, fun v => v.extractLsb' 24 16 != 0, fun r v => { r with lcnt1 := v })]

/-- The writing CSR instructions: operation number, and the value from the old one and RS1. -/
def Sys2Proof.Claims.csrOps : List (Nat × (Fin 128 → Fin 32 → Fin 32 → BitVec 2 → BitVec 12 → Instr) ×
    (Word → Word → Word)) :=
  [(0, .csrSwap, fun _ a => a), (1, .csrSet, fun old a => old ||| a),
   (2, .csrClear, fun old a => old &&& ~~~a)]

/-- The word of a CSR instruction (R218). -/
def Sys2Proof.Claims.csrWord (op : Nat) (rd rs1 : Fin 32) (rsv : BitVec 2) (num : BitVec 12) : Nat :=
  0x0A * 2 ^ 26 + rd.val * 2 ^ 21 + rs1.val * 2 ^ 16 + op * 2 ^ 14 + rsv.toNat * 2 ^ 12 + num.toNat

/-- CSR_READ gives the register that R211 names; where the privilege does not permit the
read it raises PRIV_INSTR, and for a number outside the table ILLEGAL_INSTR. -/
def Sys2Proof.Claims.houndCsrReads : Prop :=
  (∀ c ∈ csrTable, ∀ (h : Fin 128) (rd rs1 : Fin 32) (s : State), canIssue s h.val false = true →
    ∃ t, exec (.csrRead h rd rs1 0 c.1) s = .next t ∧
      (((hregs s h.val).smode || c.2.2) = true →
        ranRegs s t h.val (advance ((hregs s h.val).wx rd.val (c.2.1 (hound s h.val)))
          (pcAfter s h.val 4))) ∧
      (((hregs s h.val).smode || c.2.2) = false →
        tookTrap s t h.val (csrWord 3 rd rs1 0 c.1) { cause := 2 })) ∧
  (∀ (h : Fin 128) (rd rs1 : Fin 32) (rsv : BitVec 2) (num : BitVec 12) (s : State),
    canIssue s h.val false = true → (∀ c ∈ csrTable, c.1 ≠ num) →
    ∃ t, exec (.csrRead h rd rs1 rsv num) s = .next t ∧
      tookTrap s t h.val (csrWord 3 rd rs1 rsv num) { cause := 1 })

/-- CSR_SWAP, CSR_SET and CSR_CLEAR give RD the old value and write the new one; a value
that R227 or R241 does not admit raises ILLEGAL_INSTR, and a register that the privilege
may not write PRIV_INSTR (R211, R218). -/
def Sys2Proof.Claims.houndCsrWrites : Prop :=
  (∀ c ∈ csrWrites, ∀ o ∈ csrOps, ∀ g ∈ csrTable, g.1 = c.1 →
    ∀ (h : Fin 128) (rd rs1 : Fin 32) (s : State), canIssue s h.val false = true →
    let r := hregs s h.val
    let old := g.2.1 (hound s h.val)
    let v := o.2.2 old (r.rx rs1.val)
    ∃ t, exec (o.2.1 h rd rs1 0 c.1) s = .next t ∧
      ((r.smode || c.2.1) = true → c.2.2.1 v = true →
        ranRegs s t h.val (advance ((c.2.2.2 r v).wx rd.val old) (pcAfter s h.val 4))) ∧
      ((r.smode || c.2.1) = true → c.2.2.1 v = false →
        tookTrap s t h.val (csrWord o.1 rd rs1 0 c.1) { cause := 1 }) ∧
      ((r.smode || c.2.1) = false →
        tookTrap s t h.val (csrWord o.1 rd rs1 0 c.1) { cause := 2 })) ∧
  (∀ o ∈ csrOps, ∀ (h : Fin 128) (rd rs1 : Fin 32) (s : State), canIssue s h.val false = true →
    ∃ t, exec (o.2.1 h rd rs1 0 0x023) s = .next t ∧
      tookTrap s t h.val (csrWord o.1 rd rs1 0 0x023) { cause := 2 })

/-- A write of STATUS in S mode keeps PRV and the reserved bits, takes IE and the loop bits,
and opens or ends a window by the change of IE (R212, R284). -/
def Sys2Proof.Claims.houndStatusWrites : Prop :=
  ∀ o ∈ csrOps, ∀ (h : Fin 128) (rd rs1 : Fin 32) (s : State), canIssue s h.val false = true →
    let x := hound s h.val
    let r := x.regs
    let v := o.2.2 r.status (r.rx rs1.val)
    ∃ t, exec (o.2.1 h rd rs1 0 0x000) s = .next t ∧
      (r.smode = false → tookTrap s t h.val (csrWord o.1 rd rs1 0 0x000) { cause := 2 }) ∧
      (r.smode = true → onlyHound s t h.val ∧ counted s t (houndCounter h.val 0) 1 ∧ ∃ st,
        hound t h.val = { x with
          regs := advance ({ r with status := st }.wx rd.val r.status) (pcAfter s h.val 4),
          window := if v.getLsbD 2 then 0 else if r.ie then regVal s 0xA2000 % 8192 else x.window,
          l1i := (hound t h.val).l1i } ∧
        ∀ i, i < 64 → st.getLsbD i =
          if i = 2 ∨ i = 4 ∨ i = 5 then v.getLsbD i
          else if i = 3 then !v.getLsbD 2 && (r.ie || r.niw)
          else r.status.getLsbD i)

/-- SYSCALL traps with its service number in its word; FENCE, WFI and ERET are as R216,
R283 and R287 state, and ERET and WFI are privileged (R220). -/
def Sys2Proof.Claims.houndSystemInstructions : Prop :=
  (∀ (h : Fin 128) (arg : BitVec 12) (s : State), canIssue s h.val false = true →
    ∃ t, exec (.syscall h 0 0 arg) s = .next t ∧
      tookTrap s t h.val (0x0B * 2 ^ 26 + arg.toNat) { cause := 7 }) ∧
  (∀ (h : Fin 128) (wb inv : Bool) (s : State), canIssue s h.val false = true →
    let x := hound s h.val
    ∃ t, exec (.fence h 0 0 (BitVec.ofNat 12 (b2n wb + 2 * b2n inv))) s = .next t ∧
      (wb = false → inv = false → ranRegs s t h.val (advance x.regs (pcAfter s h.val 4))) ∧
      (wb = false → inv = true → onlyHound s t h.val ∧ counted s t (houndCounter h.val 0) 1 ∧
        hound t h.val = { x with
          regs := advance x.regs (pcAfter s h.val 4), l1i := (hound t h.val).l1i,
          l1d := x.l1d.filter (fun e => e.2.dirty) }) ∧
      (wb = true → ∃ u, onlyHound s u h.val ∧ counted s u (houndCounter h.val 0) 1 ∧
        (hound u h.val).l1d = x.l1d ∧
        t = setHound (l1WriteBack u h.val) h.val { x with
          regs := advance x.regs (pcAfter s h.val 4), l1i := (hound t h.val).l1i,
          l1d := if inv then [] else x.l1d.map (fun e => (e.1, { e.2 with dirty := false })) })) ∧
  (∀ (h : Fin 128) (s : State), canIssue s h.val false = true →
    let x := hound s h.val
    ∃ t, exec (.wfi h 0 0 0) s = .next t ∧
      (x.regs.smode = false → tookTrap s t h.val (0x0B * 2 ^ 26 + 0x3000) { cause := 2 }) ∧
      (x.regs.smode = true → (x.ipend &&& x.ien) = 0 → onlyHound s t h.val ∧
        hound t h.val = { x with wfi := true, l1i := (hound t h.val).l1i }) ∧
      (x.regs.smode = true → (x.ipend &&& x.ien) ≠ 0 →
        ranRegs s t h.val (advance x.regs (pcAfter s h.val 4))))

/-- Word `i` of the frame at SSP in the scratchpad (R275). -/
def Sys2Proof.Claims.frameWord (x : HoundSt) (i : Nat) : Nat := leNat (x.spad.read (x.regs.ssp.toNat + 8 * i) 8)

/-- ERET restores PC, STATUS, VPROG and SSP from the frame at SSP, and goes on with the
window that it saved; U mode takes PRIV_INSTR, and a frame of a privilege that may not be
restored ILLEGAL_RETURN (R220, R286, R287). -/
def Sys2Proof.Claims.houndReturns : Prop :=
  ∀ (h : Fin 128) (s : State), canIssue s h.val false = true →
    let x := hound s h.val
    let r := x.regs
    let st := frameWord x 1 % 64
    let left := frameWord x 6 % 8192
    let back := { r with
      pc := BitVec.ofNat 64 (frameWord x 0), vprog := BitVec.ofNat 64 (frameWord x 5) &&& 0x107,
      ssp := r.ssp + 64 }
    ∃ t, exec (.eret h 0 0 0) s = .next t ∧
      (r.smode = false → tookTrap s t h.val (0x0B * 2 ^ 26 + 0x1000) { cause := 2 }) ∧
      (r.smode = true → r.ssp.toNat % 64 = 0 → r.sstkBase.toNat ≤ r.ssp.toNat →
        r.ssp.toNat + 64 ≤ r.sstkLimit.toNat → r.ssp.toNat + 64 ≤ 0xC0000 →
        (2 ≤ st % 4 ∨ x.privCeil.toNat < st % 4 →
          tookTrap s t h.val (0x0B * 2 ^ 26 + 0x1000) { cause := 8 }) ∧
        (st % 4 ≤ 1 → st % 4 ≤ x.privCeil.toNat → bitAt st 2 = true → onlyHound s t h.val ∧
          hound t h.val = { x with
            regs := { back with status := BitVec.ofNat 64 st &&& 0x37 }, window := 0,
            waiting := false, l1i := (hound t h.val).l1i }) ∧
        (st % 4 ≤ 1 → st % 4 ≤ x.privCeil.toNat → bitAt st 2 = false → 1 ≤ left → onlyHound s t h.val ∧
          hound t h.val = { x with
            regs := { back with status := BitVec.ofNat 64 st ||| 8 }, window := left,
            waiting := false, l1i := (hound t h.val).l1i }) ∧
        (st % 4 ≤ 1 → st % 4 ≤ x.privCeil.toNat → bitAt st 2 = false → left = 0 →
          (x.ipend &&& x.ien) = 0 → onlyHound s t h.val ∧
          hound t h.val = { x with
            regs := { back with status := (BitVec.ofNat 64 st &&& 0x33) ||| 4 }, window := 0,
            waiting := false, l1i := (hound t h.val).l1i }))

/-- Words that R217 to R221 reserve. -/
def Sys2Proof.Claims.reservedWord (w : Nat) : Bool :=
  let major := w / 2 ^ 26
  (0x3A ≤ major && major ≤ 0x3E) || (major == 0x0B && 5 < w / 2 ^ 12 % 16) ||
  (major == 0x00 && (w % 2 ^ 11 == 0x0E || w % 2 ^ 11 == 0x0F || w % 2 ^ 11 == 0x13 || (0x18 ≤ w % 2 ^ 11 && w % 2 ^ 11 < 0x20) ||
    0x24 ≤ w % 2 ^ 11))

/-- A reserved word raises ILLEGAL_INSTR with the word in EINFO (R217, R270, R276). -/
def Sys2Proof.Claims.houndReservedWords : Prop :=
  ∀ (h : Fin 128) (w : BitVec 32) (s : State), reservedWord w.toNat = true →
    canIssue s h.val false = true →
    ∃ t, exec (.reservedInstruction h w) s = .next t ∧ tookTrap s t h.val w.toNat { cause := 1 }

/-- An exception or interrupt is entered: the frame of R275 at SSP − 64, the registers and
STATUS as R274 and R284 say, and the window of its entry. Where the stack or the entry will
not take it, the core locks up with its reason and its job fails (R277, R407). -/
def Sys2Proof.Claims.houndExceptionEntry : Prop :=
  ∀ (s : State) (h cause eaddr info epc at' : Nat), h < 128 → cause < 64 → epc < 2 ^ 64 →
    let x := hound s h
    let r := x.regs
    let v := (tget x.vec cause 0).toNat
    let ni := min (v / 2 ^ 51) (regVal s 0xA2000 % 8192)
    let handler := v % 2 ^ 48 / 4 * 4
    (r.ssp.toNat % 64 = 0 → r.sstkBase.toNat + 64 ≤ r.ssp.toNat → r.ssp.toNat ≤ r.sstkLimit.toNat →
      r.ssp.toNat ≤ 0xC0000 → v % 2 = 1 → rtBase ≤ handler →
      handler + 4 ≤ rtBase + s.herder.runtime.length → s.herder.runtime.length ≤ rtEnd - rtBase →
      ∃ u nic, enterExc s h cause eaddr info epc at' = runtimeJudge u h (r.prv == 0) cause eaddr info epc ∧
        onlyHound s u h ∧ counted s u (houndCounter h 7) 1 ∧
        (if r.niw && 0 < x.window then 1 ≤ nic ∧ nic ≤ x.window else nic = 0) ∧
        hound u h = { x with
          regs := { r with
            epc := BitVec.ofNat 64 epc, ecause := BitVec.ofNat 64 cause,
            eaddr := BitVec.ofNat 64 eaddr, einfo := BitVec.ofNat 64 info, estatus := r.status,
            status := if ni = 0 then 5 else 9, vprog := r.vprog &&& 0xFFFFFFFFFFFFFFF8,
            ssp := r.ssp - 64, pc := BitVec.ofNat 64 handler },
          window := ni, waiting := false,
          spad := x.spad.write (r.ssp.toNat - 64) (toLe 8 epc ++ toLe 8 r.status.toNat ++
            toLe 8 cause ++ toLe 8 eaddr ++ toLe 8 info ++ toLe 8 r.vprog.toNat ++ toLe 8 nic ++
            toLe 8 0) }) ∧
    (∀ reason, (reason = 1 ∧ (r.ssp.toNat % 64 ≠ 0 ∨ r.ssp.toNat < r.sstkBase.toNat + 64 ∨
        r.sstkLimit.toNat < r.ssp.toNat)) ∨
      (reason = 2 ∧ r.ssp.toNat % 64 = 0 ∧ r.sstkBase.toNat + 64 ≤ r.ssp.toNat ∧
        r.ssp.toNat ≤ r.sstkLimit.toNat ∧ v % 2 = 0) →
      let t := enterExc s h cause eaddr info epc at'
      hound t h = { x with
        lockup := true,
        lockInfo := BitVec.ofNat 64 (cause * 2 ^ 56 + reason * 2 ^ 52 + at' % 2 ^ 48) } ∧
      evtPending t (128 + h) = true ∧ (∀ g, g ≠ h → hound t g = hound s g) ∧
      ∀ j k p vid i b, x.job = some j → x.serves = some (k, p, vid, i) → job? s j = some b →
        (vx? s { job := j, vid }).isSome = true → b.failed = none → b.abandoned = false →
        b.retired = false → (job? t j).map (·.failed) = some (some (0x0912, vid)))

/-- A job of plan code that faults fails with E_HND_FAULT, one with a reserved or
privileged instruction with E_HND_ILLEGAL; code of the runtime fails no job (R289). -/
def Sys2Proof.Claims.houndJudgement : Prop :=
  ∀ (s : State) (h j k p vid i cause eaddr info epc : Nat) (b : Job),
    (hound s h).job = some j → (hound s h).serves = some (k, p, vid, i) → job? s j = some b →
    (vx? s { job := j, vid }).isSome = true → b.failed = none → b.abandoned = false → b.retired = false →
    let t := runtimeJudge s h true cause eaddr info epc
    (cause = 3 ∨ cause = 4 ∨ cause = 5 ∨ cause = 6 → (job? t j).map (·.failed) = some (some (0x0910, vid))) ∧
    (cause = 1 ∨ cause = 2 → (job? t j).map (·.failed) = some (some (0x0911, vid))) ∧
    (cause = 7 → info / 2 ^ 32 % 4096 ≤ 6 → (job? t j).map (·.failed) = some none) ∧
    (cause = 7 → 6 < info / 2 ^ 32 % 4096 → (job? t j).map (·.failed) = some (some (0x0901, vid))) ∧
    (∀ g, hound t g = hound s g) ∧ runtimeJudge s h false cause eaddr info epc = s

/-- Line `n` is the lowest that is pending and enabled. -/
def Sys2Proof.Claims.lowestLine (ip en : BitVec 3) (n : Nat) : Prop :=
  n < 3 ∧ (ip &&& en).getLsbD n = true ∧ ∀ m, m < n → (ip &&& en).getLsbD m = false

/-- Line `n` has been entered in the state `u`, with EPC at its PC (R282). Line 0 is the
ABORT line: its handler abandons the program (R237). -/
def Sys2Proof.Claims.lineTaken (u t : State) (h n : Nat) : Prop :=
  let pc := (hregs u h).pc.toNat
  let e := enterExc u h (0x20 + n) 0 (n * 2 ^ 16) pc pc
  t = if n = 0 ∧ (hound e h).lockup = false then abandonProgram e h else e

/-- INTERRUPT_TAKE makes the lines pending and, with interrupts open, enters the lowest line
that is pending and enabled; NI_WINDOW_EXPIRE opens interrupts at the end of a window
(R281, R282, R285, R291). -/
def Sys2Proof.Claims.houndInterrupts : Prop :=
  ∀ (h : Fin 128) (raised : BitVec 3) (s : State), interruptible s h.val = true →
    (hound s h.val).wfi = false → (∀ j b, (hound s h.val).job = some j → job? s j = some b → jobLive b = true) →
    let x := hound s h.val
    let ip := x.ipend ||| (raised &&& 6)
    let u := setHound s h.val { x with ipend := ip }
    (∃ t, exec (.interruptTake h raised) s = .next t ∧
      (x.regs.ie = false ∨ (ip &&& x.ien) = 0 → t = u) ∧
      (∀ n, x.regs.ie = true → lowestLine ip x.ien n → lineTaken u t h.val n)) ∧
    (x.regs.niw = true → ∃ t, exec (.niWindowExpire h raised) s = .next t ∧
      let open' := setHound s h.val { x with
        ipend := ip, window := 0, regs := { x.regs with status := (x.regs.status ||| 4) &&& ~~~8 } }
      ((ip &&& x.ien) = 0 → t = open') ∧
      (∀ n, lowestLine ip x.ien n → lineTaken open' t h.val n))

/-- A Hound that the Herder resets has its registers and scratchpad cleared and its caches
empty, holds no program, and keeps HND_LOCKINFO (R237, R278, R290). -/
def Sys2Proof.Claims.houndResets : Prop :=
  ∀ (h : Fin 128) (s : State),
    let x := hound s h.val
    let gone := { x with
      regs := {}, window := 0, ipend := 0, ien := 7, vec := [], wfi := false, waiting := false,
      spad := [], l1d := [], l1i := [], job := none, past := x.past ++ x.job.toList, inbufs := [],
      outbufs := [], pubSeq := none, lockup := false, setUp := false }
    (x.lockup = true → exec (.houndReset h) s = .next (setHound s h.val gone)) ∧
    (x.lockup = false → x.job.isSome = true → x.ipend.getLsbD 0 = true →
      exec (.houndAbortTimeout h) s = .next (setHound s h.val gone))

/-- What R226 forbids of a loop of level `n` and `len` words whose body starts at byte `next`: the
level is in use, it ends after the level-0 body, it is opened at the end of a body, or it is
empty. -/
def Sys2Proof.Claims.loopForbidden (r : HoundRegs) (n len next : Nat) : Prop :=
  let start := (next - loopBase r.smode) / 4
  r.loopOn n = true ∨ (n = 1 ∧ r.loopOn 0 = true ∧ r.loopStart 0 + r.loopLen 0 < start + len) ∨
  (∃ m, m < 2 ∧ r.loopOn m = true ∧ start = r.loopStart m + r.loopLen m) ∨ len = 0

/-- R226: LOOP, LOOPI and BREAKNZ raise ILLEGAL_INSTR, with no effect, at a level in use, past the
end of the level-0 body, as the last instruction of a body, and with LEN = 0. -/
def Obligations.LoopsRefused : Prop :=
  (∀ (h : Fin 128) (n : Fin 2) (rs1 : Fin 32) (len : BitVec 16) (s : State), canIssue s h.val false = true →
    loopForbidden (hregs s h.val) n.val len.toNat (pcAfter s h.val 4) →
    ∃ t, exec (.loop h (Fin.ofNat 32 (16 * n.val)) rs1 len) s = .next t ∧
      tookTrap s t h.val (0x17 * 2 ^ 26 + 16 * n.val * 2 ^ 21 + rs1.val * 2 ^ 16 + len.toNat) { cause := 1 }) ∧
  (∀ (h : Fin 128) (n : Fin 2) (len : BitVec 11) (count : BitVec 24) (s : State), canIssue s h.val true = true →
    loopForbidden (hregs s h.val) n.val len.toNat (pcAfter s h.val 8) →
    ∃ t, exec (.loopi h (Fin.ofNat 32 n.val) 0 len (count.zeroExtend 32)) s = .next t ∧
      tookTrap s t h.val (0x3F * 2 ^ 26 + n.val * 2 ^ 21 + 4 * 2 ^ 11 + len.toNat) { cause := 1 }) ∧
  (∀ (h : Fin 128) (rs1 : Fin 32) (n : Fin 2) (s : State), canIssue s h.val false = true →
    (∃ m, m < 2 ∧ (hregs s h.val).loopOn m = true ∧
      (pcAfter s h.val 4 - loopBase (hregs s h.val).smode) / 4 =
        (hregs s h.val).loopStart m + (hregs s h.val).loopLen m) →
    ∃ t, exec (.breaknz h 0 rs1 (BitVec.ofNat 12 n.val)) s = .next t ∧
      tookTrap s t h.val (0x0B * 2 ^ 26 + rs1.val * 2 ^ 16 + 4 * 2 ^ 12 + n.val) { cause := 1 })

/-- The Hound has taken ILLEGAL_INSTR for a word, and the instruction had no other effect. -/
def Sys2Proof.Claims.illegalHere (c : Instr) (s : State) (h : Nat) : Prop :=
  ∃ t w, exec c s = .next t ∧ tookTrap s t h w { cause := 1 }

/-- An instruction of which a field that must be 0 is not raises ILLEGAL_INSTR, with no effect
(R218 to R221). -/
def Sys2Proof.Claims.houndReservedFields : Prop :=
  ∀ (h : Fin 128) (rd rs1 : Fin 32) (s : State),
    (canIssue s h.val false = true →
      (∀ p ∈ aluOneTable, ∀ rs2 : Fin 32, rs2 ≠ 0 → illegalHere (p.1 h rd rs1 rs2) s h.val) ∧
      (∀ p ∈ shiftTable, ∀ imm : BitVec 16, imm.extractLsb' 8 8 ≠ 0 → illegalHere (p.1 h rd rs1 imm) s h.val) ∧
      (∀ imm : BitVec 16, rs1 ≠ 0 → illegalHere (.lui h rd rs1 imm) s h.val) ∧
      (∀ (rsv : BitVec 2) (num : BitVec 12), rsv ≠ 0 → illegalHere (.csrSwap h rd rs1 rsv num) s h.val ∧
        illegalHere (.csrSet h rd rs1 rsv num) s h.val ∧ illegalHere (.csrClear h rd rs1 rsv num) s h.val ∧
        illegalHere (.csrRead h rd rs1 rsv num) s h.val) ∧
      (∀ len : BitVec 16, rd.val % 16 ≠ 0 → illegalHere (.loop h rd rs1 len) s h.val) ∧
      (∀ arg : BitVec 12,
        (rd ≠ 0 ∨ rs1 ≠ 0 → illegalHere (.syscall h rd rs1 arg) s h.val) ∧
        (rd ≠ 0 ∨ rs1 ≠ 0 ∨ arg ≠ 0 → illegalHere (.eret h rd rs1 arg) s h.val ∧ illegalHere (.wfi h rd rs1 arg) s h.val) ∧
        (rd ≠ 0 ∨ rs1 ≠ 0 ∨ 4 ≤ arg.toNat → illegalHere (.fence h rd rs1 arg) s h.val) ∧
        (rd ≠ 0 ∨ rs1 ≠ 0 ∨ 2 ≤ arg.toNat → illegalHere (.lexit h rd rs1 arg) s h.val) ∧
        (rd ≠ 0 ∨ 2 ≤ arg.toNat → illegalHere (.breaknz h rd rs1 arg) s h.val))) ∧
    (canIssue s h.val true = true →
      (∀ p ∈ longTable, ∀ (aux : BitVec 11) (imm : BitVec 32), (aux ≠ 0 ∨ (p.2.1 = true ∧ rs1 ≠ 0)) →
        illegalHere (p.1 h rd rs1 aux imm) s h.val) ∧
      (∀ (aux : BitVec 11) (imm : BitVec 32), (2 ≤ rd.val ∨ rs1 ≠ 0 ∨ 2 ^ 24 ≤ imm.toNat) →
        illegalHere (.loopi h rd rs1 aux imm) s h.val))

def Obligations.HoundCsrs : Prop := houndCsrReads ∧ houndCsrWrites ∧ houndStatusWrites

def Obligations.HoundSystem : Prop := houndSystemInstructions ∧ houndReturns ∧ houndReservedWords ∧ houndReservedFields

def Obligations.HoundExceptions : Prop := houndExceptionEntry ∧ houndJudgement

def Obligations.HoundInterruptsAndResets : Prop := houndInterrupts ∧ houndResets


/-! ### Hounds: loads and stores -/

/-- R218's loads: MAJOR, bytes, and the extension. -/
def Sys2Proof.Claims.loadTable : List (Nat × Nat × (Fin 128 → Fin 32 → Fin 32 → BitVec 16 → Instr) × (Nat → Word)) :=
  [(0x10, 1, .lb, fun v => (BitVec.ofNat 8 v).signExtend 64), (0x11, 1, .lbu, fun v => BitVec.ofNat 64 v),
   (0x12, 2, .lh, fun v => (BitVec.ofNat 16 v).signExtend 64), (0x13, 2, .lhu, fun v => BitVec.ofNat 64 v),
   (0x14, 4, .lw, fun v => (BitVec.ofNat 32 v).signExtend 64), (0x15, 4, .lwu, fun v => BitVec.ofNat 64 v),
   (0x16, 8, .ld, fun v => BitVec.ofNat 64 v)]

/-- R218's stores. -/
def Sys2Proof.Claims.storeTable : List (Nat × Nat × (Fin 128 → Fin 32 → Fin 32 → BitVec 16 → Instr)) :=
  [(0x18, 1, .sb), (0x19, 2, .sh), (0x1A, 4, .sw), (0x1B, 8, .sd)]

/-- The address of a scalar access (R218). -/
def Sys2Proof.Claims.addrOf (r : HoundRegs) (base : Fin 32) (imm : BitVec 16) : Nat :=
  (r.rx base.val + imm.signExtend 64).toNat

/-- Scratchpad bytes that the privilege reaches (R213). -/
def Sys2Proof.Claims.spadLimit (r : HoundRegs) : Nat := if r.smode then 0xC0000 else 0xBC000

/-- LB to LD give RD the bytes of the scratchpad, SB to SD store the low bytes of RS2 there
and change no other byte; a misaligned access raises MISALIGNED, and one that R213 does not
permit LOAD_FAULT or STORE_FAULT, with its address (R213, R214, R218, R276). -/
def Sys2Proof.Claims.houndScratchpadAccesses : Prop :=
  (∀ l ∈ loadTable, ∀ (h : Fin 128) (rd rs1 : Fin 32) (imm : BitVec 16) (s : State),
    canIssue s h.val false = true →
    let x := hound s h.val
    let a := addrOf x.regs rs1 imm
    let w := l.1 * 2 ^ 26 + rd.val * 2 ^ 21 + rs1.val * 2 ^ 16 + imm.toNat
    ∃ t, exec (l.2.2.1 h rd rs1 imm) s = .next t ∧
      (a % l.2.1 ≠ 0 → tookTrap s t h.val w { cause := 6, eaddr := a }) ∧
      (a % l.2.1 = 0 → a < spadLimit x.regs → ranRegs s t h.val
        (advance (x.regs.wx rd.val (l.2.2.2 (leNat (x.spad.read a l.2.1)))) (pcAfter s h.val 4))) ∧
      (a % l.2.1 = 0 → accessOk s h.val x.regs.smode false .load a l.2.1 = false →
        tookTrap s t h.val w { cause := 4, eaddr := a })) ∧
  (∀ w ∈ storeTable, ∀ (h : Fin 128) (rs2 rs1 : Fin 32) (imm : BitVec 16) (s : State),
    canIssue s h.val false = true →
    let x := hound s h.val
    let a := addrOf x.regs rs1 imm
    let word := w.1 * 2 ^ 26 + rs2.val * 2 ^ 21 + rs1.val * 2 ^ 16 + imm.toNat
    ∃ t, exec (w.2.2 h rs2 rs1 imm) s = .next t ∧
      (a % w.2.1 ≠ 0 → tookTrap s t h.val word { cause := 6, eaddr := a, info := 2 ^ 15 }) ∧
      (a % w.2.1 = 0 → a < spadLimit x.regs → onlyHound s t h.val ∧
        counted s t (houndCounter h.val 0) 1 ∧
        hound t h.val = { x with
          regs := advance x.regs (pcAfter s h.val 4), l1i := (hound t h.val).l1i,
          spad := (hound t h.val).spad } ∧
        (x.spad.wf = true → ∀ b, (hound t h.val).spad.get b =
          if a ≤ b ∧ b < a + w.2.1 then ((x.regs.rx rs2.val).extractLsb' (8 * (b - a)) 8)
          else x.spad.get b)) ∧
      (a % w.2.1 = 0 → accessOk s h.val x.regs.smode false .store a w.2.1 = false →
        tookTrap s t h.val word { cause := 5, eaddr := a, info := 2 ^ 15 }))

/-- The address is served by the L1D: CODE, CONST, the spill area, a table space, or the
runtime (R213, R215). -/
def Sys2Proof.Claims.cached (a : Nat) : Prop :=
  (0x08000000 ≤ a ∧ a < 0x0C000000) ∨ (0x10000000 ≤ a ∧ a < 0x14000000) ∨
  (0x20000000 ≤ a ∧ a < 0x30000000) ∨ (0x1000000000 ≤ a ∧ a < 0x2000000000) ∨
  (0x10000000000000 ≤ a ∧ a < 0x20000000000000)

/-- Nothing but the Hound, the counters, what plans count, the free numbers used, and the SHC,
which is `shc`. -/
def Sys2Proof.Claims.onlyHoundAndShc (s t : State) (h : Nat) (shc : ShcSt) : Prop :=
  t = { s with regs := t.regs, kennels := t.kennels, hounds := t.hounds, free := t.free, shc } ∧
  sameKennels s t ∧ (∀ g, g ≠ h → hound t g = hound s g)

/-- A line in the L1D answers the load, and takes the store and becomes dirty; a line that
is not there is first read from the SHC (a line of a lost eighth has no contents: its
bytes are free values, log entry 2), and counted in L1MISS beside a miss of the code. The
SHC changes as a read of the line at the Hound's port changes it, for a line of a table space
alone (that the other lines' hits are open is the model's choice, log entry 112). In S
mode LD and SD reach the vector table, IPEND and IEN (R213, R215, R218, R272, R273). -/
def Sys2Proof.Claims.houndCachedAccesses : Prop :=
  (∀ l ∈ loadTable, ∀ (h : Fin 128) (rd rs1 : Fin 32) (imm : BitVec 16) (s : State),
    canIssue s h.val false = true →
    let x := hound s h.val
    let a := addrOf x.regs rs1 imm
    cached a → a % l.2.1 = 0 → accessOk s h.val x.regs.smode false .load a l.2.1 = true →
    ∃ t, exec (l.2.2.1 h rd rs1 imm) s = .next t ∧
      (∀ d, tfind? x.l1d (a / 64) = some d → ranRegs s t h.val
        (advance (x.regs.wx rd.val (l.2.2.2 (leNat (slice d.data (a % 64) l.2.1)))) (pcAfter s h.val 4))) ∧
      (tfind? x.l1d (a / 64) = none → (l1Set x.l1d (a / 64)).length < 4 →
        (∀ f, (houndLine { s with free := f } h.val (a / 64)).2 = false) →
        ∃ f, let d := (houndLine { s with free := f } h.val (a / 64)).1
        onlyHoundAndShc s t h.val (houndReach { s with free := f } h.val (a / 64) .read).shc ∧
        (a < 0x10000000000000 → onlyHound s t h.val) ∧ hound t h.val = { x with
          regs := advance (x.regs.wx rd.val (l.2.2.2 (leNat (slice d (a % 64) l.2.1)))) (pcAfter s h.val 4),
          l1i := (hound t h.val).l1i, l1d := tset x.l1d (a / 64) { data := d, dirty := false } } ∧
        counted s t (houndCounter h.val 2) (if x.l1i.contains (x.regs.pc.toNat / 64) then 1 else 2))) ∧
  (∀ w ∈ storeTable, ∀ (h : Fin 128) (rs2 rs1 : Fin 32) (imm : BitVec 16) (s : State) (d : L1Line),
    canIssue s h.val false = true →
    let x := hound s h.val
    let a := addrOf x.regs rs1 imm
    cached a → a % w.2.1 = 0 → accessOk s h.val x.regs.smode false .store a w.2.1 = true →
    tfind? x.l1d (a / 64) = some d → d.data.length = 64 →
    ∃ t e, exec (w.2.2 h rs2 rs1 imm) s = .next t ∧ onlyHound s t h.val ∧
      hound t h.val = { x with
        regs := advance x.regs (pcAfter s h.val 4), l1i := (hound t h.val).l1i,
        l1d := (hound t h.val).l1d } ∧
      (∀ n, n ≠ a / 64 → tfind? (hound t h.val).l1d n = tfind? x.l1d n) ∧
      tfind? (hound t h.val).l1d (a / 64) = some e ∧ e.dirty = true ∧ e.data.length = 64 ∧
      ∀ i, i < 64 → e.data[i]? = if a % 64 ≤ i ∧ i < a % 64 + w.2.1
        then some ((x.regs.rx rs2.val).extractLsb' (8 * (i - a % 64)) 8) else d.data[i]?) ∧
  (∀ (h : Fin 128) (r rs1 : Fin 32) (imm : BitVec 16) (s : State), canIssue s h.val false = true →
    let x := hound s h.val
    let a := addrOf x.regs rs1 imm
    let off := a - 0xFFFFFF0000000000
    let v := x.regs.rx r.val
    let next := pcAfter s h.val 4
    x.regs.smode = true → 0xFFFFFF0000000000 ≤ a → a < 0xFFFFFF0000010000 → a % 8 = 0 →
    ∃ t u, exec (.ld h r rs1 imm) s = .next t ∧ exec (.sd h r rs1 imm) s = .next u ∧
      ranRegs s t h.val (advance (x.regs.wx r.val (if off < 0x200 then tget x.vec (off / 8) 0
        else if off = 0x200 then x.ipend.zeroExtend 64
        else if off = 0x208 then x.ien.zeroExtend 64 else 0)) next) ∧
      onlyHound s u h.val ∧
      hound u h.val = { x with
        regs := advance x.regs next, l1i := (hound u h.val).l1i,
        vec := if off < 0x200 then tset x.vec (off / 8) (v &&& 0xFFF8FFFFFFFFFFFD) else x.vec,
        ipend := if off = 0x200 then x.ipend &&& ~~~(v.truncate 3) else x.ipend,
        ien := if off = 0x208 then v.truncate 3 else x.ien })

/-- R214: a scalar load or store of 2, 4 or 8 bytes whose address is not a multiple of its size
raises MISALIGNED and is not performed. -/
def Obligations.MisalignedAccesses : Prop :=
  (∀ l ∈ loadTable, 2 ≤ l.2.1 → ∀ (h : Fin 128) (rd rs1 : Fin 32) (imm : BitVec 16) (s : State),
    canIssue s h.val false = true → addrOf (hregs s h.val) rs1 imm % l.2.1 ≠ 0 →
    ∃ t, exec (l.2.2.1 h rd rs1 imm) s = .next t ∧
      tookTrap s t h.val (l.1 * 2 ^ 26 + rd.val * 2 ^ 21 + rs1.val * 2 ^ 16 + imm.toNat)
        { cause := 6, eaddr := addrOf (hregs s h.val) rs1 imm }) ∧
  (∀ w ∈ storeTable, 2 ≤ w.2.1 → ∀ (h : Fin 128) (rs2 rs1 : Fin 32) (imm : BitVec 16) (s : State),
    canIssue s h.val false = true → addrOf (hregs s h.val) rs1 imm % w.2.1 ≠ 0 →
    ∃ t, exec (w.2.2 h rs2 rs1 imm) s = .next t ∧
      tookTrap s t h.val (w.1 * 2 ^ 26 + rs2.val * 2 ^ 21 + rs1.val * 2 ^ 16 + imm.toNat)
        { cause := 6, eaddr := addrOf (hregs s h.val) rs1 imm, info := 2 ^ 15 })

def Obligations.HoundMemory : Prop := houndScratchpadAccesses ∧ houndCachedAccesses


/-! ### Hounds: vector instructions -/

/-- Element `e` of the group at register `v`, of `w` bits (R240, R242). -/
def Sys2Proof.Claims.vAt (v : List (BitVec 512)) (base w e : Nat) : BitVec w :=
  ((v[base + e / (512 / w)]?).getD 0).extractLsb' (w * (e % (512 / w))) w

/-- The element width of an instruction (R251). -/
abbrev Sys2Proof.Claims.wOf (f : VFields) : Nat := 8 * 2 ^ f.ew.val

/-- The registers of an operand (R241, R242). -/
def Sys2Proof.Claims.kOf (r : HoundRegs) : Nat := r.vlen.toNat / 512

/-- The bit of element `e` in the mask group at `m` (R244). -/
def Sys2Proof.Claims.maskAt (m : List (BitVec 64)) (base w e : Nat) : Bool :=
  ((m[base + e / (512 / w)]?).getD 0).getLsbD (e % (512 / w))

/-- The element is active, and its pass is not among those already done (R244, R250). -/
def Sys2Proof.Claims.takes (r : HoundRegs) (f : VFields) (w e : Nat) : Bool :=
  (!f.men || maskAt r.m f.msk.val w e) && r.vprog.toNat % 8 ≤ e / (512 / w)

/-- Operands of the element-wise form (R242, R243): the groups fit, and the destination
equals a source or does not meet it. -/
def Sys2Proof.Claims.groupsOk (r : HoundRegs) (f : VFields) (two : Bool) : Bool :=
  let k := kOf r
  let ok := fun (v : Nat) => v + k ≤ 32 && (f.vd.val == v || f.vd.val + k ≤ v || v + k ≤ f.vd.val)
  f.vd.val + k ≤ 32 && ok f.vs1.val && (!two || ok f.vs2.val) && (!f.men || f.msk.val + k ≤ 8)

/-- The registers with vector registers `v`, mask registers `m` and X registers `x`: SAT
gathers, and DONE is `done` (R247, R250). -/
def Sys2Proof.Claims.vectorRegs (r : HoundRegs) (v : List (BitVec 512)) (m x : List Word) (sat : Bool) (done : Nat) : HoundRegs :=
  { r with
    v, m, x,
    vprog := ((if sat then r.vprog ||| 0x100 else r.vprog) &&& 0xFFFFFFFFFFFFFFF8) ||| BitVec.ofNat 64 done }

/-- A vector instruction has left the registers as `r'`, and `passes` have been performed (R269). -/
def Sys2Proof.Claims.leftRegs (s t : State) (h : Nat) (r' : HoundRegs) (passes : Nat) (sat : Bool) : Prop :=
  onlyHound s t h ∧ hound t h = { hound s h with regs := r', l1i := (hound t h).l1i } ∧
  counted s t (houndCounter h 0) 1 ∧ counted s t (houndCounter h 4) passes ∧
  counted s t (houndCounter h 5) (b2n sat)

/-- A vector instruction has run to its end. -/
def Sys2Proof.Claims.ranVectorX (s t : State) (h : Nat) (v : List (BitVec 512)) (m x : List Word) (passes : Nat)
    (sat : Bool) : Prop :=
  leftRegs s t h (advance (vectorRegs (hregs s h) v m x sat 0) (pcAfter s h 4)) passes sat

/-- Where a vector instruction stands: after its first `j` passes, at its own PC with
DONE = j, or at its end with DONE 0 (R250). -/
def Sys2Proof.Claims.stopped (s : State) (h : Nat) (v : List (BitVec 512)) (m : List Word) (sat : Bool) :
    Option Nat → HoundRegs
  | some j => vectorRegs (hregs s h) v m (hregs s h).x sat j
  | none => advance (vectorRegs (hregs s h) v m (hregs s h).x sat 0) (pcAfter s h 4)

/-- The outcome of a vector instruction whose passes an interrupt can part: `ran none` holds of
the state after it, or, with a line pending and enabled and interrupts open, the line has been
taken in a state of which `ran (some m)` holds, of `m` passes among those that `cut` admits
(R248, R280, R282). Which of the two it is then is open. -/
def Sys2Proof.Claims.partedBy (s t : State) (h : Nat) (cut : Nat → Bool) (ran : State → Option Nat → Prop) : Prop :=
  let x := hound s h
  (x.regs.ie = false ∨ (x.ipend &&& x.ien) = 0 → ran t none) ∧
  (x.regs.ie = true → (x.ipend &&& x.ien) ≠ 0 → ran t none ∨
    ∃ m u n, cut m = true ∧ m < kOf x.regs ∧ ran u (some m) ∧ lowestLine x.ipend x.ien n ∧ lineTaken u t h n)

/-- An element-wise instruction is parted between two issue HCLK, of which each runs two
passes (R245, R248). -/
def Sys2Proof.Claims.issueEdge (r : HoundRegs) (m : Nat) : Bool := r.vprog.toNat % 8 < m && m % 2 == 0

/-- Passes of an element-wise instruction have run on destination elements of `wd` bits: each
takes the value that `val` gives where `on` holds, and keeps its own where not; no other
register changed. The Boolean of `val` says that it clamped. -/
def Sys2Proof.Claims.wiseTo (s t : State) (h : Nat) (f : VFields) (wd : Nat) (on : Nat → Bool)
    (val : Nat → BitVec wd × Bool) (m : Option Nat) : Prop :=
  let r := hregs s h
  let k := m.getD (kOf r)
  ∃ v sat, leftRegs s t h (stopped s h v r.m sat m) (k - r.vprog.toNat % 8) sat ∧ v.length = 32 ∧
    (∀ j, j < f.vd.val ∨ f.vd.val + k ≤ j → v[j]? = r.v[j]?) ∧
    (∀ e, e < k * (512 / wd) → vAt v f.vd.val wd e = if on e then (val e).1 else vAt r.v f.vd.val wd e) ∧
    (sat = true ↔ ∃ e, e < k * (512 / wd) ∧ on e = true ∧ (val e).2 = true)

/-- An element-wise instruction has run, or has been parted by an interrupt. -/
def Sys2Proof.Claims.ranWise (s t : State) (h : Nat) (f : VFields) (wd : Nat) (on : Nat → Bool)
    (val : Nat → BitVec wd × Bool) : Prop :=
  partedBy s t h (issueEdge (hregs s h)) (fun u m => wiseTo s u h f wd on val m)

/-- The word of a vector instruction (R251, R252). -/
def Sys2Proof.Claims.vWord (major : Nat) (f : VFields) (fn : Nat) : Nat :=
  major * 2 ^ 26 + f.vd.val * 2 ^ 21 + f.vs1.val * 2 ^ 16 + f.vs2.val * 2 ^ 11 + b2n f.men * 2 ^ 10 +
  f.msk.val * 2 ^ 7 + f.ew.val * 2 ^ 5 + fn

/-- R253's table: FN is the place in the list. -/
def Sys2Proof.Claims.valuTable : List ((Fin 128 → Bool → VFields → Instr) × ((w : Nat) → BitVec w → BitVec w → BitVec w)) :=
  [(.vadd, fun _ a b => a + b), (.vsub, fun _ a b => a - b), (.vand, fun _ a b => a &&& b),
   (.vor, fun _ a b => a ||| b), (.vxor, fun _ a b => a ^^^ b), (.vandn, fun _ a b => a &&& ~~~b),
   (.vsll, fun w a b => a <<< (b.toNat % w)), (.vsrl, fun w a b => a >>> (b.toNat % w)),
   (.vsra, fun w a b => a.sshiftRight (b.toNat % w)), (.vmin, fun _ a b => if b.slt a then b else a),
   (.vmax, fun _ a b => if a.slt b then b else a), (.vminu, fun _ a b => if b.ult a then b else a),
   (.vmaxu, fun _ a b => if a.ult b then b else a), (.vmul, fun _ a b => a * b),
   (.vmulh, fun w a b => (a.signExtend (2 * w) * b.signExtend (2 * w)).extractLsb' w w),
   (.vmulhu, fun w a b => (a.zeroExtend (2 * w) * b.zeroExtend (2 * w)).extractLsb' w w),
   (.vrsub, fun _ a b => b - a)]

/-- The second operand of VALU and of the compares: an element, or the low bits of X[VS2]. -/
def Sys2Proof.Claims.secondOf (r : HoundRegs) (f : VFields) (scal : Bool) (w e : Nat) : BitVec w :=
  if scal then (r.rx f.vs2.val).setWidth w else vAt r.v f.vs2.val w e

/-- Each instruction of R253 gives every active element its function of the two operands;
groups that R242 or R243 forbids raise ILLEGAL_INSTR. -/
def Sys2Proof.Claims.vectorAlu : Prop :=
  ∀ p ∈ valuTable.zip (List.range 17), ∀ (h : Fin 128) (scal : Bool) (f : VFields) (s : State),
    canIssue s h.val false = true → (hregs s h.val).shaped = true →
    let r := hregs s h.val
    let w := wOf f
    ∃ t, exec (p.1.1 h scal f) s = .next t ∧
      (groupsOk r f (!scal) = true → ranWise s t h.val f w (takes r f w)
        (fun e => (p.1.2 w (vAt r.v f.vs1.val w e) (secondOf r f scal w e), false))) ∧
      (groupsOk r f (!scal) = false → tookTrap s t h.val (vWord (0x20 + b2n scal) f p.2) { cause := 1 })

/-- An exact value, clamped to `lo` to `hi`, as a pattern; and whether it was clamped (R255). -/
def Sys2Proof.Claims.clampTo (w : Nat) (lo hi y : Int) : BitVec w × Bool :=
  (BitVec.ofInt w (max lo (min hi y)), y < lo || hi < y)

/-- Clamped to the signed range. -/
def Sys2Proof.Claims.clampSigned (w : Nat) (y : Int) : BitVec w × Bool := clampTo w (-(2 ^ (w - 1))) (2 ^ (w - 1) - 1) y

/-- x / 2^s rounded by mode RM, from R254's words: `q` is the floor. -/
def Sys2Proof.Claims.roundShift (rm : Nat) (x : Int) (s : Nat) : Int :=
  let q := x.fdiv (2 ^ s)
  let f := 2 * (x - q * 2 ^ s)
  let one : Int := 2 ^ s
  if (rm = 0 ∧ one ≤ f) ∨ (rm = 1 ∧ (one < f ∨ (f = one ∧ q % 2 = 1))) ∨ (rm = 3 ∧ x < 0 ∧ f ≠ 0) then q + 1
  else q

/-- R256's table: FN, VS2 is an operand, RM may be other than 0, and the exact result with
its clamp. -/
def Sys2Proof.Claims.vsatTable : List (Bool × Bool × (Fin 128 → BitVec 2 → VFields → Instr) ×
    ((w rm : Nat) → BitVec w → BitVec w → BitVec w × Bool)) :=
  [(true, false, .sadd, fun w _ a b => clampSigned w (a.toInt + b.toInt)),
   (true, false, .ssub, fun w _ a b => clampSigned w (a.toInt - b.toInt)),
   (true, false, .uadd, fun w _ a b => clampTo w 0 (2 ^ w - 1) ((a.toNat : Int) + b.toNat)),
   (true, false, .usub, fun w _ a b => clampTo w 0 (2 ^ w - 1) ((a.toNat : Int) - b.toNat)),
   (true, true, .avg, fun w rm a b => clampSigned w (roundShift rm (a.toInt + b.toInt) 1)),
   (false, false, .sabs, fun w _ a _ => clampSigned w (if a.toInt < 0 then -a.toInt else a.toInt)),
   (false, false, .sneg, fun w _ a _ => clampSigned w (-a.toInt)),
   (true, false, .sshl, fun w _ a b => clampSigned w (a.toInt * 2 ^ min b.toNat w))]

/-- The saturating and Q-format instructions give every active element the exact value,
rounded by R254 and clamped by R255, and set VPROG.SAT where one was clamped (R256, R257). -/
def Sys2Proof.Claims.vectorSaturating : Prop :=
  (∀ p ∈ vsatTable, ∀ (h : Fin 128) (rm : BitVec 2) (f : VFields) (s : State),
    canIssue s h.val false = true → (hregs s h.val).shaped = true →
    let r := hregs s h.val
    let w := wOf f
    f.ew.val < 3 → (p.2.1 = true ∨ rm = 0) → (p.1 = true ∨ f.vs2 = 0) → groupsOk r f p.1 = true →
    ∃ t, exec (p.2.2.1 h rm f) s = .next t ∧ ranWise s t h.val f w (takes r f w)
      (fun e => p.2.2.2 w rm.toNat (vAt r.v f.vs1.val w e) (vAt r.v f.vs2.val w e))) ∧
  (∀ (h : Fin 128) (rm : BitVec 2) (sh : BitVec 5) (f : VFields) (s : State),
    canIssue s h.val false = true → (hregs s h.val).shaped = true →
    let r := hregs s h.val
    let w := wOf f
    let k := kOf r
    f.ew.val < 3 →
    (groupsOk r f true = true → ∃ t, exec (.vqmul h rm sh f) s = .next t ∧
      ranWise s t h.val f w (takes r f w) (fun e => clampSigned w (roundShift rm.toNat
        ((vAt r.v f.vs1.val w e).toInt * (vAt r.v f.vs2.val w e).toInt) sh.toNat))) ∧
    (f.vs2 = 0 → groupsOk r f false = true → ∃ t, exec (.vqshr h rm sh f) s = .next t ∧
      ranWise s t h.val f w (takes r f w) (fun e => clampSigned w (roundShift rm.toNat
        (vAt r.v f.vs1.val w e).toInt sh.toNat))) ∧
    (f.vs2 = 0 → f.vd.val + k ≤ 32 → f.vs1.val + 2 * k ≤ 32 →
      (f.vd.val + k ≤ f.vs1.val ∨ f.vs1.val + 2 * k ≤ f.vd.val) → (f.men = true → f.msk.val + k ≤ 8) →
      ∃ t, exec (.vqnrw h rm sh f) s = .next t ∧
        ranWise s t h.val f w (takes r f w) (fun e => clampSigned w (roundShift rm.toNat
          (vAt r.v f.vs1.val (2 * w) e).toInt sh.toNat))))

/-- Passes of a compare have run: bit `e` of the mask group at `md` is 1 where the element is
active and `c` holds, bits above the elements are 0, and the mask registers of passes already
done are as they were. -/
def Sys2Proof.Claims.compareTo (s t : State) (h : Nat) (f : VFields) (md w : Nat) (c : Nat → Bool) (j : Option Nat) : Prop :=
  let r := hregs s h
  let k := j.getD (kOf r)
  let done := r.vprog.toNat % 8
  ∃ m, leftRegs s t h (stopped s h r.v m false j) (k - done) false ∧ m.length = 8 ∧
    (∀ i, i < md + done ∨ md + k ≤ i → m[i]? = r.m[i]?) ∧
    (∀ e, e < k * (512 / w) → done ≤ e / (512 / w) → maskAt m md w e = (takes r f w e && c e)) ∧
    (∀ p i, done ≤ p → p < k → 512 / w ≤ i → ((m[md + p]?).getD 0).getLsbD i = false)

/-- A compare has run, or has been parted by an interrupt. -/
def Sys2Proof.Claims.ranCompare (s t : State) (h : Nat) (f : VFields) (md w : Nat) (c : Nat → Bool) : Prop :=
  partedBy s t h (issueEdge (hregs s h)) (fun u j => compareTo s u h f md w c j)

/-- Operands of a compare (R252, R258): VD holds SCAL in bit 4, 0 in bit 3 and MD below. -/
def Sys2Proof.Claims.compareOk (r : HoundRegs) (f : VFields) : Bool :=
  let k := kOf r
  let md := f.vd.val % 8
  f.vd.val / 8 % 2 == 0 && md + k ≤ 8 && f.vs1.val + k ≤ 32 && (16 ≤ f.vd.val || f.vs2.val + k ≤ 32) &&
  (!f.men || (f.msk.val + k ≤ 8 && (md == f.msk.val || md + k ≤ f.msk.val || f.msk.val + k ≤ md)))

/-- R258's conditions, by FN. -/
def Sys2Proof.Claims.vcmpTable : List ((w : Nat) → BitVec w → BitVec w → Bool) :=
  [fun _ a b => a == b, fun _ a b => a != b, fun _ a b => a.slt b, fun _ a b => !a.slt b,
   fun _ a b => a.ult b, fun _ a b => !a.ult b, fun _ a b => b.slt a, fun _ a b => !b.slt a]

/-- VCMP, and FEQ, FLT and FLE by the IEEE comparison of R150, set the mask bits of the
elements (R258, R267). -/
def Obligations.VectorCompares : Prop :=
  (∀ (fn : Nat) (hfn : fn < vcmpTable.length) (h : Fin 128) (f : VFields) (s : State),
    canIssue s h.val false = true → (hregs s h.val).shaped = true →
    let r := hregs s h.val
    let w := wOf f
    compareOk r f = true → ∃ t, exec (.vcmp h (BitVec.ofNat 5 fn) f) s = .next t ∧
      ranCompare s t h.val f (f.vd.val % 8) w (fun e => vcmpTable[fn] w (vAt r.v f.vs1.val w e)
        (secondOf r f (16 ≤ f.vd.val) w e))) ∧
  (∀ p ∈ [(Instr.feq, fEq), (Instr.flt, fLt), (Instr.fle, fLe)], ∀ (h : Fin 128) (f : VFields) (s : State),
    canIssue s h.val false = true → (hregs s h.val).shaped = true →
    let r := hregs s h.val
    let w := wOf f
    2 ≤ f.ew.val → compareOk r f = true → ∃ t, exec (p.1 h f) s = .next t ∧
      ranCompare s t h.val f (f.vd.val % 8) w (fun e => p.2 w (vAt r.v f.vs1.val w e).toNat
        (secondOf r f (16 ≤ f.vd.val) w e).toNat))

/-- VMV, VMERGE, VBCAST and VID give each element its source; VEXT and VINS move the one
element that X[VS2] names, and beyond the operand give 0 or change nothing (R259). -/
def Sys2Proof.Claims.vectorMoves : Prop :=
  ∀ (h : Fin 128) (f : VFields) (s : State), canIssue s h.val false = true →
    (hregs s h.val).shaped = true →
    let r := hregs s h.val
    let w := wOf f
    let k := kOf r
    let i := (r.rx f.vs2.val).toNat
    let masked := f.men = true ∨ f.msk = 0
    (f.vs2 = 0 → masked → groupsOk r f false = true → ∃ t, exec (.vmv h f) s = .next t ∧
      ranWise s t h.val f w (takes r f w) (fun e => (vAt r.v f.vs1.val w e, false))) ∧
    (f.men = true → groupsOk r f true = true → ∃ t, exec (.vmerge h f) s = .next t ∧
      ranWise s t h.val f w (takes r { f with men := false } w) (fun e =>
        (if maskAt r.m f.msk.val w e then vAt r.v f.vs1.val w e else vAt r.v f.vs2.val w e, false))) ∧
    (f.vs2 = 0 → masked → f.vd.val + k ≤ 32 → (f.men = true → f.msk.val + k ≤ 8) →
      ∃ t, exec (.vbcast h f) s = .next t ∧
      ranWise s t h.val f w (takes r f w) (fun _ => ((r.rx f.vs1.val).setWidth w, false))) ∧
    (f.vs1 = 0 → f.vs2 = 0 → masked → f.vd.val + k ≤ 32 → (f.men = true → f.msk.val + k ≤ 8) →
      ∃ t, exec (.vid h f) s = .next t ∧
      ranWise s t h.val f w (takes r f w) (fun e => (BitVec.ofNat w e, false))) ∧
    (f.men = false → f.msk = 0 → f.vs1.val + k ≤ 32 → ∃ t, exec (.vext h f) s = .next t ∧
      ranVectorX s t h.val r.v r.m (r.wx f.vd.val (if i < r.vlen.toNat / w
        then (vAt r.v f.vs1.val w i).signExtend 64 else 0)).x 1 false) ∧
    (f.men = false → f.msk = 0 → f.vd.val + k ≤ 32 → ∃ t v, exec (.vins h f) s = .next t ∧
      ranVectorX s t h.val v r.m r.x 1 false ∧
      (∀ j, j < f.vd.val ∨ f.vd.val + k ≤ j → v[j]? = r.v[j]?) ∧
      ∀ e, e < r.vlen.toNat / w → vAt v f.vd.val w e =
        if e = i then (r.rx f.vs1.val).setWidth w else vAt r.v f.vd.val w e)

/-- The fields of the VM format (R252). -/
def Sys2Proof.Claims.vmFields (vd vs1 vs2 : Fin 32) : VFields := { vd, vs1, vs2, men := false, msk := 0, ew := 0 }

/-- R260's logic on whole mask registers. -/
def Sys2Proof.Claims.maskTable : List ((Fin 128 → VFields → Instr) × Bool × (Word → Word → Word)) :=
  [(.mand, true, fun a b => a &&& b), (.mor, true, fun a b => a ||| b), (.mxor, true, fun a b => a ^^^ b),
   (.mandn, true, fun a b => a &&& ~~~b), (.mnot, false, fun a _ => ~~~a)]

/-- The mask instructions work on whole registers of 64 bits: logic, the count and the first
1 bit, and moves from and to X registers (R260). -/
def Sys2Proof.Claims.maskInstructions : Prop :=
  (∀ p ∈ maskTable, ∀ (h : Fin 128) (md m1 m2 : Fin 8) (s : State), canIssue s h.val false = true →
    let r := hregs s h.val
    let f : VFields := vmFields (Fin.ofNat 32 md.val) (Fin.ofNat 32 m1.val) (if p.2.1 then Fin.ofNat 32 m2.val else 0)
    ∃ t, exec (p.1 h f) s = .next t ∧ ranVectorX s t h.val r.v
      (r.m.set md.val (p.2.2 ((r.m[m1.val]?).getD 0) ((r.m[m2.val]?).getD 0))) r.x 1 false) ∧
  (∀ (h : Fin 128) (rd : Fin 32) (m1 : Fin 8) (s : State), canIssue s h.val false = true →
    let r := hregs s h.val
    let a := (r.m[m1.val]?).getD 0
    let f : VFields := vmFields rd (Fin.ofNat 32 m1.val) 0
    ∃ t u v n, exec (.mpop h f) s = .next t ∧ exec (.mfirst h f) s = .next u ∧ exec (.mtox h f) s = .next v ∧
      ranVectorX s t h.val r.v r.m (r.wx rd.val
        (BitVec.ofNat 64 ((List.range 64).countP (fun i => a.getLsbD i)))).x 1 false ∧
      ranVectorX s u h.val r.v r.m (r.wx rd.val (BitVec.ofNat 64 n)).x 1 false ∧ n ≤ 64 ∧
      (∀ i, i < n → a.getLsbD i = false) ∧ (n < 64 → a.getLsbD n = true) ∧
      ranVectorX s v h.val r.v r.m (r.wx rd.val a).x 1 false) ∧
  (∀ (h : Fin 128) (md : Fin 8) (rs : Fin 32) (s : State), canIssue s h.val false = true →
    let r := hregs s h.val
    let f : VFields := vmFields (Fin.ofNat 32 md.val) rs 0
    ∃ t, exec (.mfromx h f) s = .next t ∧
      ranVectorX s t h.val r.v (r.m.set md.val (r.rx rs.val)) r.x 1 false)

/-- R265's table: the start value, the fold of the active elements, and the result with its
clamp. -/
def Sys2Proof.Claims.reduceTable : List ((Fin 128 → VFields → Instr) × ((w : Nat) → List (BitVec w) → Word × Bool)) :=
  [(.vredSum, fun _ l => (l.foldl (fun a x => a + x.signExtend 64) 0, false)),
   (.vredSumu, fun _ l => (l.foldl (fun a x => a + x.zeroExtend 64) 0, false)),
   (.vredSsum, fun _ l => clampSigned 64 (l.foldl (fun a x => a + x.toInt) 0)),
   (.vredMin, fun w l => ((l.foldl (fun a x => if x.slt a then x else a) (BitVec.intMax w)).signExtend 64, false)),
   (.vredMax, fun w l => ((l.foldl (fun a x => if a.slt x then x else a) (BitVec.intMin w)).signExtend 64, false)),
   (.vredMinu, fun w l => ((l.foldl (fun a x => if x.ult a then x else a) (BitVec.allOnes w)).zeroExtend 64, false)),
   (.vredMaxu, fun w l => ((l.foldl (fun a x => if a.ult x then x else a) (0 : BitVec w)).zeroExtend 64, false))]

/-- A reduction combines the active elements of VS1 in X[VD], and gives the value of the
table's last column where none is active (R265). -/
def Sys2Proof.Claims.vectorReductions : Prop :=
  ∀ p ∈ reduceTable, ∀ (h : Fin 128) (f : VFields) (s : State), canIssue s h.val false = true →
    (hregs s h.val).shaped = true →
    let r := hregs s h.val
    let w := wOf f
    let l := ((List.range (r.vlen.toNat / w)).filter (fun e => !f.men || maskAt r.m f.msk.val w e)).map
      (fun e => vAt r.v f.vs1.val w e)
    f.vs2 = 0 → f.vs1.val + kOf r ≤ 32 → (f.men = true → f.msk.val + kOf r ≤ 8) →
    ∃ t, exec (p.1 h f) s = .next t ∧
      ranVectorX s t h.val r.v r.m (r.wx f.vd.val (p.2 w l).1).x (kOf r) (p.2 w l).2

/-- An instruction across the whole operand has run: element `e` of VD, of `wd` bits, is `val e`. -/
def Sys2Proof.Claims.ranAcross (s t : State) (h : Nat) (f : VFields) (wd passes : Nat) (val : Nat → BitVec wd) : Prop :=
  let r := hregs s h
  ∃ v, ranVectorX s t h v r.m r.x passes false ∧ v.length = 32 ∧
    (∀ j, j < f.vd.val ∨ f.vd.val + kOf r ≤ j → v[j]? = r.v[j]?) ∧
    ∀ e, e < r.vlen.toNat / wd → vAt v f.vd.val wd e = val e

/-- The slides, VPERM and VCOMPRESS (R266). -/
def Sys2Proof.Claims.vectorPermutes : Prop :=
  ∀ (h : Fin 128) (f : VFields) (s : State), canIssue s h.val false = true →
    (hregs s h.val).shaped = true →
    let r := hregs s h.val
    let w := wOf f
    let k := kOf r
    let count := r.vlen.toNat / w
    let n := (r.rx f.vs2.val).toNat
    let src := fun e => vAt r.v f.vs1.val w e
    let old := fun e => vAt r.v f.vd.val w e
    let on := fun e => !f.men || maskAt r.m f.msk.val w e
    let kept := (List.range count).filter on
    f.vd.val + k ≤ 32 → f.vs1.val + k ≤ 32 → (f.vd.val + k ≤ f.vs1.val ∨ f.vs1.val + k ≤ f.vd.val) →
    (f.men = true → f.msk.val + k ≤ 8) →
    (∃ t, exec (.vsldn h f) s = .next t ∧ ranAcross s t h.val f w k (fun e =>
      if on e then (if e + n < count then src (e + n) else 0) else old e)) ∧
    (∃ t, exec (.vslup h f) s = .next t ∧ ranAcross s t h.val f w k (fun e =>
      if on e && decide (n ≤ e) then src (e - n) else old e)) ∧
    (f.vs2.val + k ≤ 32 → (f.vd.val + k ≤ f.vs2.val ∨ f.vs2.val + k ≤ f.vd.val) →
      ∃ t, exec (.vperm h f) s = .next t ∧ ranAcross s t h.val f w k (fun e =>
        let i := (vAt r.v f.vs2.val w e).toNat
        if on e then (if i < count then src i else 0) else old e)) ∧
    (f.men = true → f.vs2 = 0 → ∃ t, exec (.vcompress h f) s = .next t ∧
      ranAcross s t h.val f w k (fun e => if e < kept.length then src ((kept[e]?).getD 0) else 0))

/-- The widening conversions: constructor, the high half, and with sign (R268). -/
def Sys2Proof.Claims.widenTable : List ((Fin 128 → BitVec 2 → VFields → Instr) × Bool × Bool) :=
  [(.swlo, false, true), (.swhi, true, true), (.uwlo, false, false), (.uwhi, true, false)]

/-- A widening conversion extends the low or high half of each register of VS1 into the
register of VD. That an element is active by the mask bit of its source is the model's
reading (log entry 41). -/
def Obligations.VectorWidening : Prop :=
  ∀ p ∈ widenTable, ∀ (h : Fin 128) (f : VFields) (s : State), canIssue s h.val false = true →
    (hregs s h.val).shaped = true →
    let r := hregs s h.val
    let w := wOf f
    let half := 256 / w
    let src := fun (e : Nat) => 2 * half * (e / half) + (if p.2.1 then half else 0) + e % half
    f.ew.val < 3 → f.vs2 = 0 → groupsOk r f false = true →
    ∃ t, exec (p.1 h 0 f) s = .next t ∧ ranWise s t h.val f (2 * w) (fun e => takes r f w (src e)) (fun e =>
      (if p.2.2 then (vAt r.v f.vs1.val w (src e)).signExtend (2 * w)
        else (vAt r.v f.vs1.val w (src e)).zeroExtend (2 * w), false))

/-- The floating-point instructions of two operands and of one, by the model's IEEE
operations. -/
def Sys2Proof.Claims.floatTable : List ((Fin 128 → VFields → Instr) × Bool × (Nat → Nat → Nat → Nat)) :=
  [(.fadd, true, fAdd), (.fsub, true, fSub), (.fmul, true, fMul), (.fmin, true, fMin), (.fmax, true, fMax),
   (.fabs, false, fun w a _ => a % 2 ^ (w - 1)),
   (.fneg, false, fun w a _ => if a < 2 ^ (w - 1) then a + 2 ^ (w - 1) else a - 2 ^ (w - 1))]

/-- The floating-point instructions apply the IEEE operation, and FABS and FNEG the sign
change, to every active element of 32 or 64 bits; I2F and F2I convert, F2I by RM and
saturating (R267, R268). -/
def Obligations.VectorFloats : Prop :=
  (∀ p ∈ floatTable, ∀ (h : Fin 128) (f : VFields) (s : State), canIssue s h.val false = true →
    (hregs s h.val).shaped = true →
    let r := hregs s h.val
    let w := wOf f
    2 ≤ f.ew.val → (p.2.1 = true ∨ f.vs2 = 0) → groupsOk r f p.2.1 = true →
    ∃ t, exec (p.1 h f) s = .next t ∧ ranWise s t h.val f w (takes r f w) (fun e =>
      (BitVec.ofNat w (p.2.2 w (vAt r.v f.vs1.val w e).toNat (vAt r.v f.vs2.val w e).toNat), false))) ∧
  (∀ (h : Fin 128) (rm : BitVec 2) (f : VFields) (s : State), canIssue s h.val false = true →
    (hregs s h.val).shaped = true →
    let r := hregs s h.val
    let w := wOf f
    2 ≤ f.ew.val → f.vs2 = 0 → groupsOk r f false = true →
    (∃ t, exec (.i2f h 0 f) s = .next t ∧ ranWise s t h.val f w (takes r f w) (fun e =>
      let x := (vAt r.v f.vs1.val w e).toInt
      (BitVec.ofNat w (fRound w (x < 0) x.natAbs 1 0), false))) ∧
    (∃ t, exec (.f2i h rm f) s = .next t ∧ ranWise s t h.val f w (takes r f w) (fun e =>
      let a := (vAt r.v f.vs1.val w e).toNat
      if fIsNaN w a then (0, false)
      else if fIsInf w a then (if fSign w a then BitVec.intMin w else BitVec.intMax w, true)
      else clampSigned w (let d := fSigned w a
        if 0 ≤ d.2 then d.1 * 2 ^ d.2.toNat else roundShift rm.toNat d.1 (-d.2).toNat))))

def Obligations.VectorArithmetic : Prop := vectorAlu ∧ vectorSaturating

def Obligations.VectorMovesAndMasks : Prop := vectorMoves ∧ maskInstructions

def Obligations.VectorReductionsAndPermutes : Prop := vectorReductions ∧ vectorPermutes


/-! ### Hounds: vector loads and stores -/

/-- The byte address of element `e` in field group `g` of VLD and VST by KIND (R261, R262). -/
def Sys2Proof.Claims.kindAddr (r : HoundRegs) (f : VFields) (kind w e g : Nat) : Nat :=
  let base := (r.rx f.vs1.val).toNat
  (if kind = 1 then base + e * (r.rx f.vs2.val).toNat
   else base + (e * max 1 kind + g) * (w / 8)) % 2 ^ 64

/-- The byte address of element `e` of VGATHER and VSCATTER (R263). -/
def Sys2Proof.Claims.indexAddr (r : HoundRegs) (f : VFields) (isc w e : Nat) : Nat :=
  ((r.rx f.vs1.val).toNat + (vAt r.v f.vs2.val w e).toNat * 2 ^ isc) % 2 ^ 64

/-- Every element that is taken is aligned and in the scratchpad (R213, R261). -/
def Sys2Proof.Claims.inSpad (r : HoundRegs) (f : VFields) (w groups : Nat) (addr : Nat → Nat → Nat) : Prop :=
  ∀ e, e < r.vlen.toNat / w → takes r f w e = true → ∀ g, g < groups →
    addr e g % (w / 8) = 0 ∧ addr e g < spadLimit r

/-- Elements of the passes before pass `k` that an instruction takes (R269). -/
def Sys2Proof.Claims.takenTo (r : HoundRegs) (f : VFields) (w k : Nat) : Nat :=
  (List.range (k * (512 / w))).countP (takes r f w)

/-- Passes of a vector load have run: element `e` of the group at VD + g × k holds the bytes at
its address, where it is taken; no other element changed. Of the pass in which a line was
taken, elements may have been read and counted, with no effect on a register (R261 to R263,
R280). -/
def Sys2Proof.Claims.loadTo (s t : State) (h : Nat) (f : VFields) (w groups : Nat) (addr : Nat → Nat → Nat)
    (count : Bool) (m : Option Nat) : Prop :=
  let x := hound s h
  let r := x.regs
  let k := m.getD (kOf r)
  ∃ v more, leftRegs s t h (stopped s h v r.m false m) (k - r.vprog.toNat % 8) false ∧
    counted s t (houndCounter h 6) (if count then takenTo r f w k + more else 0) ∧
    takenTo r f w k + more ≤ takenTo r f w (if m.isSome then k + 1 else k) ∧
    (∀ j, (∀ g, g < groups → j < f.vd.val + g * kOf r ∨ f.vd.val + g * kOf r + k ≤ j) → v[j]? = r.v[j]?) ∧
    ∀ g, g < groups → ∀ e, e < k * (512 / w) → vAt v (f.vd.val + g * kOf r) w e =
      if takes r f w e then BitVec.ofNat w (leNat (x.spad.read (addr e g) (w / 8)))
      else vAt r.v (f.vd.val + g * kOf r) w e

/-- Passes of a vector store have run: the bytes of an element taken are at its address unless
a later element wrote there, and bytes that no element names are as before (R261 to R264). Of
the pass in which a line was taken, the first accesses up to field group `g₁` of element `e₁`
may have been stored; they are stored again when the instruction goes on (R280). -/
def Sys2Proof.Claims.storeTo (s t : State) (h : Nat) (f : VFields) (w groups : Nat) (addr : Nat → Nat → Nat)
    (count : Bool) (m : Option Nat) : Prop :=
  let x := hound s h
  let r := x.regs
  let n := 512 / w
  let k := m.getD (kOf r)
  ∃ e₁ g₁, g₁ ≤ groups ∧ k * n ≤ e₁ ∧ (if m.isSome then e₁ < (k + 1) * n else e₁ = k * n ∧ g₁ = 0) ∧
  let hit := fun e g b => takes r f w e = true ∧ (e < e₁ ∨ (e = e₁ ∧ g < g₁)) ∧ g < groups ∧
    addr e g ≤ b ∧ b < addr e g + w / 8
  leftRegs s (setHound t h { hound t h with spad := x.spad }) h
    (stopped s h r.v r.m false m) (k - r.vprog.toNat % 8) false ∧
  counted s t (houndCounter h 6) (if count then (List.range (e₁ + g₁)).countP (takes r f w) else 0) ∧
  (∀ b, (∀ e g, ¬hit e g b) → (hound t h).spad.get b = x.spad.get b) ∧
  (∀ e g b, hit e g b → (∀ e' g', hit e' g' b → e' < e ∨ (e' = e ∧ g' ≤ g)) →
    (hound t h).spad.get b = (vAt r.v (f.vd.val + g * kOf r) w e).extractLsb' (8 * (b - addr e g)) 8)

/-- A vector load or store is parted inside any of its passes that are left (R248, R280). -/
def Sys2Proof.Claims.anyPass (r : HoundRegs) (m : Nat) : Bool := r.vprog.toNat % 8 ≤ m

/-- A vector load has run, or has been parted by an interrupt. -/
def Sys2Proof.Claims.ranLoad (s t : State) (h : Nat) (f : VFields) (w groups : Nat) (addr : Nat → Nat → Nat)
    (count : Bool) : Prop :=
  partedBy s t h (anyPass (hregs s h)) (fun u m => loadTo s u h f w groups addr count m)

/-- A vector store has run, or has been parted by an interrupt. -/
def Sys2Proof.Claims.ranStore (s t : State) (h : Nat) (f : VFields) (w groups : Nat) (addr : Nat → Nat → Nat)
    (count : Bool) : Prop :=
  partedBy s t h (anyPass (hregs s h)) (fun u m => storeTo s u h f w groups addr count m)

/-- VLD and VST with KIND 0 unit stride, 1 strided, 2 to 4 segments; VGATHER and VSCATTER
by index (R261 to R264): to and from the scratchpad. -/
def Sys2Proof.Claims.vectorMemory : Prop :=
  ∀ (h : Fin 128) (f : VFields) (s : State), canIssue s h.val false = true →
    (hregs s h.val).shaped = true → (hound s h.val).spad.wf = true →
    let r := hregs s h.val
    let w := wOf f
    let k := kOf r
    (f.men = true → f.msk.val + k ≤ 8) →
    (∀ kind : Nat, kind < 5 → (kind = 1 ∨ f.vs2 = 0) →
      let n := if 2 ≤ kind then kind else 1
      f.vd.val + n * k ≤ 32 → inSpad r f w n (kindAddr r f kind w) →
      (∃ t, exec (.vld h (BitVec.ofNat 3 kind) 0 f) s = .next t ∧
        ranLoad s t h.val f w n (kindAddr r f kind w) (kind == 1)) ∧
      (∃ t, exec (.vst h (BitVec.ofNat 3 kind) 0 f) s = .next t ∧
        ranStore s t h.val f w n (kindAddr r f kind w) (kind == 1))) ∧
    (∀ isc : BitVec 2, f.vd.val + k ≤ 32 → f.vs2.val + k ≤ 32 →
      inSpad r f w 1 (fun e _ => indexAddr r f isc.toNat w e) →
      ((f.vd.val + k ≤ f.vs2.val ∨ f.vs2.val + k ≤ f.vd.val) →
        ∃ t, exec (.vgather h isc 0 f) s = .next t ∧
          ranLoad s t h.val f w 1 (fun e _ => indexAddr r f isc.toNat w e) true) ∧
      (∃ t, exec (.vscatter h isc 0 f) s = .next t ∧
        ranStore s t h.val f w 1 (fun e _ => indexAddr r f isc.toNat w e) true))

/-- The instruction has trapped; or a line that was pending, with interrupts open, has been taken
before its first pass (R280, R282). -/
def Sys2Proof.Claims.trappedOrTaken (s t : State) (h word : Nat) (tr : Trap) : Prop :=
  partedBy s t h (fun m => m == 0) (fun u m =>
    if m.isNone then tookTrap s u h word tr
    else onlyHound s u h ∧ hound u h = { hound s h with l1i := (hound u h).l1i } ∧
      counted s u (houndCounter h 0) 1)

/-- The first faulting element of the first pass decides: a misaligned unit-stride access
raises MISALIGNED with its address, VEC and ELEM, and nothing is written (R249, R261, R276). -/
def Sys2Proof.Claims.vectorFaults : Prop :=
  ∀ (h : Fin 128) (f : VFields) (s : State) (e : Nat), canIssue s h.val false = true →
    (hregs s h.val).shaped = true →
    let r := hregs s h.val
    let w := wOf f
    let a := kindAddr r f 0 w e 0
    (f.men = true → f.msk.val + kOf r ≤ 8) → f.vs2 = 0 → f.vd.val + kOf r ≤ 32 →
    r.vprog.toNat % 8 = 0 → e < 512 / w → takes r f w e = true → (∀ d, d < e → takes r f w d = false) →
    ∃ t u, exec (.vld h 0 0 f) s = .next t ∧ exec (.vst h 0 0 f) s = .next u ∧
      (a % (w / 8) ≠ 0 →
        trappedOrTaken s t h.val (vWord 0x32 f 0) { cause := 6, eaddr := a, info := 2 ^ 14 + e } ∧
        trappedOrTaken s u h.val (vWord 0x33 f 0) { cause := 6, eaddr := a, info := 2 ^ 15 + 2 ^ 14 + e }) ∧
      (a % (w / 8) = 0 → accessOk s h.val r.smode true .load a (w / 8) = false →
        trappedOrTaken s t h.val (vWord 0x32 f 0) { cause := 4, eaddr := a, info := 2 ^ 14 + e }) ∧
      (a % (w / 8) = 0 → accessOk s h.val r.smode true .store a (w / 8) = false →
        trappedOrTaken s u h.val (vWord 0x33 f 0) { cause := 5, eaddr := a, info := 2 ^ 15 + 2 ^ 14 + e })

/-! ### Hounds: the runtime -/

/-- A Hound starts the next job of its plan: its data at address 0 of the scratchpad, the
start registers, U mode with interrupts enabled, and an empty L1D (R232, R234). -/
def Sys2Proof.Claims.houndJobStarts : Prop :=
  ∀ (h : Fin 128) (s : State) (k p vid index j : Nat) (plan : Plan) (v : Vertex),
    let x := hound s h.val
    x.serves = some (k, p, vid, index) → plan? s k p = some plan → plan.verts[vid]? = some v →
    nextHoundJob s h.val = some j → x.job = none → x.lockup = false →
    unitGated s (.hound h) = false → pState s < 2 → mayStart s k = true →
    ∃ t, exec (.houndJobStart h) s = .next t ∧ t = { s with hounds := t.hounds } ∧
      (∀ g, g ≠ h.val → hound t g = hound s g) ∧
      let y := hound t h.val
      y.job = some j ∧ y.serves = x.serves ∧ y.l1d = [] ∧ y.inbufs = [] ∧ y.outbufs = [] ∧
      y.waiting = false ∧ y.wfi = false ∧ y.setUp = true ∧
      y.regs.status = 4 ∧
      y.regs.pc = BitVec.ofNat 64 (0x10000000 + le (vertRec plan.image vid) 20 4 + le v.body 8 4) ∧
      (∀ i, i < 32 → y.regs.rx i = if i = 2 then 0xBC000 else if i = 10 then BitVec.ofNat 64 index
        else if i = 11 then BitVec.ofNat 64 v.nhounds else if i = 12 then 0x1000000000 else 0) ∧
      y.regs.v = List.replicate 32 0 ∧ y.regs.m = List.replicate 8 0 ∧
      (x.spad.wf = true → le v.body 20 4 ≤ 0xBC000 → ∀ a, a < 0xBC000 → y.spad.get a =
        if a < le v.body 20 4 then ((v.body.drop (le v.body 16 4 + a)).head?).getD 0 else 0)

/-- A staged tile stands in a free input buffer, is announced on line 1, and its slot is
released; a skip mark is forwarded on every port unless the vertex is an origin (R114, R236).
Where several Hounds of the vertex wait in TAKE for the port, the one past the vertex's
pointer by Hound index is given the tile, and the pointer moves to it; where none waits, the
Hound that asks is (log entry 109). -/
def Sys2Proof.Claims.houndStaging : Prop :=
  ∀ (h : Fin 128) (port : Fin 8) (s : State) (x : Vx), houndVx s h.val = some x →
    let w := stageWinner s x port.val h.val
    vxLive x = true → portReady x port.val = true → (hound s w).lockup = false → pState s < 2 →
    moverUp s = true →
    (takeWaits s x port.val = [] → w = h.val) ∧
    (takeWaits s x port.val ≠ [] → ∃ i, i ∈ takeWaits s x port.val ∧ x.vert.units[i]? = some w) ∧
    (∀ slot b tile, inHead x port.val = some (.tile slot b) → cycleAllows s x port.val = true →
      (∃ i, i < hcNin x.vert.cfg ∧ tfind? (hound s w).inbufs i = none) →
      (∀ n, readTile { s with free := n } x b = .ok tile) →
      ∃ t i buf, exec (.houndStageTile h port) s = .next t ∧ i < hcNin x.vert.cfg ∧
        tfind? (hound s w).inbufs i = none ∧ tfind? (hound t w).inbufs i = some buf ∧
        buf.port = port.val ∧ buf.seq = tileSeq b ∧ buf.len = tileTotal b ∧ buf.taken = false ∧
        (hound t w).ipend = (hound s w).ipend ||| 2 ∧
        (hound t w).spad = (hound s w).spad.write (inAddr x.vert i) (b.take (tileTotal b)) ∧
        (∀ g, g ≠ w → hound t g = hound s g) ∧
        (∀ i, i ≠ x.j → job? t i = job? s i) ∧
        t = { s with hounds := t.hounds, jobs := t.jobs, kennels := t.kennels, free := t.free } ∧
        sameKennels (stageMoved s x port.val w) t) ∧
    (∀ q, inHead x port.val = some (.skip q) → hcOrigin x.vert.cfg = true →
      ∃ t, exec (.houndStageTile h port) s = .next t ∧ t = popIn s x port.val ∧
        t = { s with jobs := t.jobs } ∧ (∀ i, i ≠ x.j → job? t i = job? s i)) ∧
    (∀ q, inHead x port.val = some (.skip q) → hcOrigin x.vert.cfg = false → x.vert.nout = 0 →
      exec (.houndStageTile h port) s = .next (popIn s x port.val))

/-- The runtime returns to the program with X10 and X11 (R235). -/
def Sys2Proof.Claims.returnedWith (s t : State) (h a b : Nat) : Prop :=
  t = returnExc (setHregs s h (((hregs s h).wx 10 (BitVec.ofNat 64 a)).wx 11 (BitVec.ofNat 64 b))) h
    (wordI 0x0B 0 0 0x1000)

/-- TAKE answers a staged tile of its port, 0 at the end of the port, or waits; RELEASE frees
a buffer; ALLOC binds one; each fails its job where R235 says so. -/
def Sys2Proof.Claims.houndBufferServices : Prop :=
  ∀ (h : Fin 128) (s : State) (x : Vx),
    let y := hound s h.val
    let a := ((hregs s h.val).rx 10).toNat
    (atService s h.val 0 = some x →
      (x.vert.nin ≤ a → exec (.take h) s = .next (serviceFail s h.val x 0x0901)) ∧
      (a < x.vert.nin → y.inbufs.countP (fun e => e.2.taken) = hcNin x.vert.cfg →
        exec (.take h) s = .next (serviceFail s h.val x 0x0902)) ∧
      (∀ i b, a < x.vert.nin → y.inbufs.countP (fun e => e.2.taken) ≠ hcNin x.vert.cfg →
        stagedIn s h.val a = some (i, b) → ∃ t, exec (.take h) s = .next t ∧
          returnedWith (setHound s h.val { y with inbufs := tset y.inbufs i { b with taken := true } })
            t h.val (inAddr x.vert i) b.len) ∧
      (a < x.vert.nin → y.inbufs.countP (fun e => e.2.taken) ≠ hcNin x.vert.cfg →
        stagedIn s h.val a = none → portEnded x a = true → ∃ t n, exec (.take h) s = .next t ∧
          returnedWith { s with free := s.free + 1 } t h.val 0 n) ∧
      (a < x.vert.nin → y.inbufs.countP (fun e => e.2.taken) ≠ hcNin x.vert.cfg →
        stagedIn s h.val a = none → portEnded x a = false →
        exec (.take h) s = .next (setHound s h.val { y with waiting := true }))) ∧
    (atService s h.val 1 = some x →
      (heldIn s h.val x.vert a = none → exec (.release h) s = .next (serviceFail s h.val x 0x0901)) ∧
      (∀ i b, heldIn s h.val x.vert a = some (i, b) →
        exec (.release h) s = .next (returnExc (setHound s h.val { y with inbufs := tdel y.inbufs i })
          h.val (wordI 0x0B 0 0 0x1000)))) ∧
    (atService s h.val 2 = some x →
      (x.vert.nout ≤ a → exec (.alloc h) s = .next (serviceFail s h.val x 0x0901)) ∧
      (a < x.vert.nout → (∀ i, i < hcNout x.vert.cfg → (tfind? y.outbufs i).isSome = true) →
        exec (.alloc h) s = .next (serviceFail s h.val x 0x0902)) ∧
      (a < x.vert.nout → (∃ i, i < hcNout x.vert.cfg ∧ tfind? y.outbufs i = none) →
        ∃ t i n, exec (.alloc h) s = .next t ∧ i < hcNout x.vert.cfg ∧ tfind? y.outbufs i = none ∧
          returnedWith { setHound s h.val { y with outbufs := tset y.outbufs i a } with free := n }
            t h.val (outAddr x.vert i) (hcOutSize x.vert.cfg)))

/-- PUBLISH refuses a buffer that is not bound, a tile beyond its buffer or edge, and one
that breaks R114; otherwise the tile goes out with the SEQ of the input it answers, or waits
and keeps that SEQ. SKIP
sends a skip mark, DONE leaves the job, and FAIL reports its code (R114, R235, R236). -/
def Sys2Proof.Claims.houndOutputServices : Prop :=
  ∀ (h : Fin 128) (s : State) (x : Vx),
    let y := hound s h.val
    let a := ((hregs s h.val).rx 10).toNat
    let x11 := ((hregs s h.val).rx 11).toNat
    let x12 := ((hregs s h.val).rx 12).toNat
    (atService s h.val 3 = some x →
      (boundOut s h.val x.vert a = none → exec (.publish h) s = .next (serviceFail s h.val x 0x0901)) ∧
      (∀ o port, boundOut s h.val x.vert a = some (o, port) →
        x11 ≠ 0 → heldIn s h.val x.vert x11 = none →
        exec (.publish h) s = .next (serviceFail s h.val x 0x0901)) ∧
      (∀ o port i b eid e, boundOut s h.val x.vert a = some (o, port) → x11 ≠ 0 →
        heldIn s h.val x.vert x11 = some (i, b) → outEdge? x.plan x.vid port = some (eid, e) →
        let total := le (y.spad.read (outAddr x.vert o) 64) 24 4
        (hcOutSize x.vert.cfg < total ∨ e.tileBytes < total →
          exec (.publish h) s = .next (serviceFail s h.val x 0x0902)) ∧
        (total ≤ hcOutSize x.vert.cfg → total ≤ e.tileBytes → publishBreaks x port x12 (some (i, b)) = true →
          exec (.publish h) s = .next (serviceFail s h.val x 0x0426)) ∧
        (total ≤ hcOutSize x.vert.cfg → total ≤ e.tileBytes → publishBreaks x port x12 (some (i, b)) = false →
          hcOrigin x.vert.cfg = false → y.l1d = [] →
          let q := y.pubSeq.getD (setField b.seq 0 12 (x12 % 4096))
          let tile := setTileSeq (putAt (y.spad.read (outAddr x.vert o) (max 64 total)) 22
            (toLe 1 x.job.kennel)) q
          (∀ w, publishOn (setHound s h.val y) x port tile = (true, w) → exec (.publish h) s = .next
            (returnExc (setHound w h.val { hound w h.val with
              pubSeq := none, outbufs := tdel (hound w h.val).outbufs o,
              inbufs := tset (hound w h.val).inbufs i { b with
                sent := tset b.sent port ((tget b.sent port (0, false)).1 + 1, bitAt x12 11) } })
              h.val (wordI 0x0B 0 0 0x1000))) ∧
          (∀ u, publishOn (setHound s h.val y) x port tile = (false, u) → exec (.publish h) s = .next
            { setHound s h.val { y with waiting := true, pubSeq := some q } with slots := u.slots })))) ∧
    (atService s h.val 4 = some x →
      (heldIn s h.val x.vert a = none ∨ x.vert.nout ≤ x11 →
        exec (.skip h) s = .next (serviceFail s h.val x 0x0901)) ∧
      (∀ e, heldIn s h.val x.vert a = some e → x11 < x.vert.nout → exec (.skip h) s =
        .next (returnExc (sendSkip s x x11 (e.2.seq ||| 2048)) h.val (wordI 0x0B 0 0 0x1000)))) ∧
    (atService s h.val 5 = some x → ∃ t, exec (.done h) s = .next t ∧
      (hound t h.val).job = none ∧ (hound t h.val).inbufs = [] ∧ (hound t h.val).outbufs = [] ∧
      (hound t h.val).past = y.past ++ y.job.toList ∧
      (∀ v, (vx? t { job := x.j, vid := x.vid }).map (·.st.houndsDone) = some v →
        v = addNew x.st.houndsDone h.val) ∧
      (∀ g, g ≠ h.val → hound t g = hound s g)) ∧
    (atService s h.val 6 = some x → ∃ t, exec (.fail h) s = .next t ∧
      hound t h.val = { y with waiting := true } ∧ (∀ g, g ≠ h.val → hound t g = hound s g) ∧
      (vxLive x = true → (job? t x.j).map (·.failed) = some (some (0x0903, x.vid)) ∧
        (jobPlan t x.job).map (·.details) = some [a % 256, 0, 0, 0]) ∧
      t = { s with hounds := t.hounds, jobs := t.jobs, kennels := t.kennels })

def Obligations.VectorAccesses : Prop := vectorMemory ∧ vectorFaults

def Obligations.HoundJobs : Prop := houndJobStarts ∧ houndStaging

def Obligations.HoundServices : Prop := houndBufferServices ∧ houndOutputServices


/-! ### Registers -/

/-- Registers of BAR0 whose write has an effect of its own. -/
def Sys2Proof.Claims.ownEffect (off : Nat) : Bool :=
  (0x10000 ≤ off && off < 0x10100) || off == 0x10108 || (0x11000 ≤ off && off < 0x12000) ||
  off == 0x20000 || off == 0x21000 || off == 0x22000 || off == 0x23000 || off == 0x30000 ||
  off == 0x30004 || (0x30100 ≤ off && off < 0x30140) || off == 0xD0000 || (0x1000000 ≤ off && off < 0x2000000 && off % 0x10000 == 0x3110) ||
  (0x3F00000 ≤ off && off < 0x3F08000 && off % 16 == 12)

/-- Doorbells among the registers: those of MB0 and of the kennel pages. -/
def Sys2Proof.Claims.isDoor (off : Nat) : Bool :=
  off == 0x2001000 || (0x1000000 ≤ off && off < 0x2000000 &&
    (off % 0x10000 < 0x100 || off % 0x10000 == 0x3000))

/-- A push window of a kennel page (R377). -/
def Sys2Proof.Claims.isPush (off : Nat) : Bool :=
  0x1000000 ≤ off && off < 0x2000000 && 0x1000 ≤ off % 0x10000 && off % 0x10000 < 0x1400

/-- The value of every field that the bit belongs to is one that a write takes (R10). -/
def Sys2Proof.Claims.fieldTaken (f : RegFam) (val i : Nat) : Bool :=
  f.legal.all (fun (lo, w, least, most) => !(lo ≤ i && i < lo + w) ||
    (least ≤ val / 2 ^ lo % 2 ^ w && val / 2 ^ lo % 2 ^ w ≤ most))

/-- A host write changes the bits of its register by their access codes, and no other
register; an access of another width, or to no register, changes nothing; a mailbox window
takes it unless the mailbox is busy, which counts it; a doorbell rings, and a push in parts
is a plain doorbell; a pin that its EP_VMAP disables goes low (R8, R9, R10, R57, R377, R394,
R449). -/
def Obligations.RegisterWrites : Prop :=
  (∀ (off val hwSet : Nat) (door : DoorRead) (f : RegFam) (s : State), barOpen s = true →
    pageThere s off = true → regFam off = some f → windowAt off f.size = none → ownEffect off = false →
    isDoor off = false → ∃ t, exec (.registerWrite off f.size val ⟨hwSet, door⟩) s = .next t ∧ t = { s with regs := t.regs } ∧
      (∀ o, o ≠ off → regVal t o = regVal s o) ∧
      ∀ i, i < 8 * f.size → (regVal t off).testBit i =
        if f.rw.testBit i then (if fieldTaken f val i then val.testBit i else (regVal s off).testBit i)
        else if f.w1c.testBit i then (hwSet.testBit i || ((regVal s off).testBit i && !val.testBit i))
        else (regVal s off).testBit i) ∧
  (∀ (off size val hwSet : Nat) (door : DoorRead) (s : State), windowAt off size = none →
    isPush off = false → (∀ f, regFam off = some f → f.size ≠ size ∧ ¬(0x3F00000 ≤ off ∧ off < 0x3F08000)) →
    exec (.registerWrite off size val ⟨hwSet, door⟩) s = .next s) ∧
  (∀ (k : Fin 256) (w : Fin 16) (val hwSet : Nat) (door : DoorRead) (s : State), barOpen s = true →
    exec (.registerWrite (page k.val + 8 * w.val) 8 val ⟨hwSet, door⟩) s = exec (.wqDoorbell ⟨k, w⟩) s ∧
    exec (.registerWrite (page k.val + 0x80 + 8 * w.val) 8 val ⟨hwSet, door⟩) s = exec (.cqDoorbell ⟨k, w⟩ door.ci) s ∧
    (∀ i size, size = 4 ∨ size = 8 → i % size = 0 → i < 64 →
      exec (.registerWrite (page k.val + 0x1000 + 64 * w.val + i) size val ⟨hwSet, door⟩) s =
        exec (.pushDoorbell ⟨k, w⟩ [] false) s) ∧
    exec (.registerWrite 0x2001000 8 val ⟨hwSet, door⟩) s = .next (ringMailbox s mb0 door) ∧
    ((kennel? s k.val).isSome = true →
      exec (.registerWrite (page k.val + 0x3000) 8 val ⟨hwSet, door⟩) s = .next (ringMailbox s k.val door))) ∧
  (∀ (p : Fin 16) (val hwSet : Nat) (door : DoorRead) (s : State), barOpen s = true →
    ∃ t, exec (.registerWrite (0x30100 + 4 * p.val) 4 val ⟨hwSet, door⟩) s = .next t ∧
      t = { s with regs := t.regs, timing := { s.timing with pulses := t.timing.pulses } } ∧
      (∀ o, o ≠ 0x30100 + 4 * p.val → regVal t o = regVal s o) ∧
      (∀ i, i < 32 → (regVal t (0x30100 + 4 * p.val)).testBit i =
        if (0x3FFBF).testBit i then val.testBit i else (regVal s (0x30100 + 4 * p.val)).testBit i) ∧
      t.timing.pulses = s.timing.pulses.filter (fun q =>
        vmapEn t q.1 && (vmapFunc t q.1 == 3 || inDet s (vmapKennel t q.1)))) ∧
  (∀ (at' size val hwSet : Nat) (door : DoorRead) (s : State), barOpen s = true → size = 4 ∨ size = 8 → at' % size = 0 →
    at' < 4096 →
    (mbBusy s mb0 = true → ∃ t, exec (.registerWrite (0x2000000 + at') size val ⟨hwSet, door⟩) s = .next t ∧
      t = { s with regs := t.regs } ∧ counted s t 0x110014 1) ∧
    (mbBusy s mb0 = false → ∃ t, exec (.registerWrite (0x2000000 + at') size val ⟨hwSet, door⟩) s = .next t ∧
      t = { s with windows := t.windows } ∧
      ∀ i, i < 4096 → (window t mb0)[i]? = if at' ≤ i ∧ i < at' + size
        then some (BitVec.ofNat 8 (val % 2 ^ (8 * size) / 2 ^ (8 * (i - at')))) else (window s mb0)[i]?))

/-- A host read gives out the register's value from before the read, and clears the bits
that a read clears but for what hardware counted in the same cycle; SHE_OPEN_PEAK starts
again at the events open then; the PBA is also read in halves (R9, R148, R515). Bits that show a moment within a step are open (log
entry 7). -/
def Obligations.RegisterReads : Prop :=
  (∀ (off hwInc : Nat) (f : RegFam) (s : State), readOpen s off = true → pageThere s off = true →
    regFam off = some f → windowAt off f.size = none → hwInc < 2 ^ (8 * f.size) →
    ∃ t v, exec (.counterReadClear off f.size hwInc) s = .next t ∧
      t = { s with regs := t.regs, out := s.out ++ [.regRead off v], free := t.free } ∧
      (∀ i, (regShow s off).moment.testBit i = false → v.testBit i = (regShow s off).val.testBit i) ∧
      (∀ o, o ≠ off → regVal t o = regVal s o) ∧
      (f.rc = 0 → regVal t off = regVal s off) ∧
      (f.rc ≠ 0 → shePeak off = false → ∀ i, (regVal t off).testBit i =
        if f.rc.testBit i then hwInc.testBit i else (regVal s off).testBit i) ∧
      (shePeak off = true → ∀ i, (regVal t off).testBit i =
        ((sheOpen s ((off - 0x50000) / 0x1000)).testBit i ||
          (!f.rc.testBit i && (regVal s off).testBit i))) ∧
      (0xE0004 ≤ off → off ≤ 0xE0028 → v = regVal s off)) ∧
  (∀ (i hwInc : Nat) (s : State), i < 64 → readOpen s (0x3F08000 + 4 * i) = true →
    ∃ v, exec (.counterReadClear (0x3F08000 + 4 * i) 4 hwInc) s =
        .next { s with out := s.out ++ [.regRead (0x3F08000 + 4 * i) v] } ∧ v < 2 ^ 32 ∧
      ∀ j, j < 32 → v.testBit j = s.pba.contains (32 * i + j))

/-! ### Events and vectors -/

/-- The vector that EVT_ROUTE gives a source. -/
def Sys2Proof.Claims.vectorOf (s : State) (n : Nat) : Nat := regVal s (0x11000 + 4 * n) % 2048

/-- Only the pending bits of word `i` and the vectors requested differ. -/
def Sys2Proof.Claims.onlyPending (s t : State) (i : Nat) : Prop :=
  t = { s with regs := t.regs, vreq := t.vreq } ∧ (∀ o, o ≠ 0x10000 + 8 * i → regVal t o = regVal s o) ∧
  (∀ v, v ∈ s.vreq → v ∈ t.vreq)

/-- EVT_TEST raises a source: its pending bit is set, and an armed source whose bit was 0
requests its vector (R519, R520, R529). -/
def Sys2Proof.Claims.eventsRaised : Prop :=
  ∀ (val : BitVec 32) (s : State), barOpen s = true →
    let n := val.toNat % 1024
    ∃ t, exec (.evtTest val) s = .next t ∧ (evtListed n = false → t = s) ∧
      (evtListed n = true → onlyPending s t (n / 64) ∧ evtPending t n = true ∧
        (∀ m, m / 64 = n / 64 → m ≠ n → evtPending t m = evtPending s m) ∧
        t.vreq = if evtPending s n = false ∧ evtArmed s n = true
          then addNew s.vreq (vectorOf s n) else s.vreq)

/-- A written 1 clears a pending bit unless its source rises in the same tick, and a source
that rises requests its vector if it is armed (R519, R520, R527). -/
def Sys2Proof.Claims.eventsCleared : Prop :=
  (∀ (i : Fin 16) (val raised : BitVec 64) (s : State), barOpen s = true →
    ∃ t, exec (.evtStatusClear i val raised) s = .next t ∧ onlyPending s t i.val ∧
      ∀ j, j < 64 →
        let n := 64 * i.val + j
        evtPending t n = (if evtListed n then raised.getLsbD j || (evtPending s n && !val.getLsbD j)
          else evtPending s n) ∧
        (evtListed n = true → raised.getLsbD j = true → evtArmed s n = true →
          (evtPending s n = false ∨ val.getLsbD j = true) → vectorOf s n ∈ t.vreq)) ∧
  (∀ (k : Fin 256) (val : BitVec 64) (raised : BitVec 2) (s : State), barOpen s = true →
    (kennel? s k.val).isSome = true →
    ∃ t, exec (.knEventClear k val raised) s = .next t ∧
      t = { s with regs := t.regs, vreq := t.vreq } ∧
      evtPending t (256 + k.val) = (raised.getLsbD 0 || (evtPending s (256 + k.val) && !val.getLsbD 0)) ∧
      evtPending t (512 + k.val) = (raised.getLsbD 1 || (evtPending s (512 + k.val) && !val.getLsbD 1)) ∧
      (∀ m, m ≠ 256 + k.val → m ≠ 512 + k.val → m < 1024 → evtPending t m = evtPending s m))

/-- A write of EVT_MASK or EVT_ROUTE that arms a pending source requests its vector; a route
outside K0's grant is not taken (R520, R523, R529). -/
def Sys2Proof.Claims.eventsArmed : Prop :=
  (∀ (i : Fin 16) (val : BitVec 64) (f : RegFam) (s : State), barOpen s = true →
    regFam (0x10080 + 8 * i.val) = some f →
    ∃ t, exec (.evtMaskWrite i val) s = .next t ∧ t = { s with regs := t.regs, vreq := t.vreq } ∧
      (∀ o, o ≠ 0x10080 + 8 * i.val → regVal t o = regVal s o) ∧
      (∀ j, j < 64 → f.rw.testBit j = true → (regVal t (0x10080 + 8 * i.val)).testBit j = val.getLsbD j) ∧
      ∀ j, j < 64 →
        let n := 64 * i.val + j
        evtListed n = true → evtPending s n = true → evtArmed s n = false → evtArmed t n = true →
          vectorOf s n ∈ t.vreq) ∧
  (∀ (n : Fin 1024) (val : BitVec 32) (s : State), barOpen s = true → evtListed n.val = true →
    (n.val < 256 → vecGranted s 0 (val.toNat % 2048) = true →
      ∃ t, exec (.evtRouteWrite n val) s = .next t ∧ t = { s with regs := t.regs, vreq := t.vreq } ∧
        (∀ o, o ≠ 0x11000 + 4 * n.val → regVal t o = regVal s o) ∧
        vectorOf t n.val = val.toNat % 2048 ∧ (n.val ≠ 0 → bitAt (evtRoute t n.val) 31 = val.getLsbD 31) ∧
        (evtPending s n.val = true → evtArmed s n.val = false → evtArmed t n.val = true →
          val.toNat % 2048 ∈ t.vreq)) ∧
    (256 ≤ n.val ∨ vecGranted s 0 (val.toNat % 2048) = false →
      exec (.evtRouteWrite n val) s = .next s))

/-- A requested vector is sent, or held in the PBA while it cannot be; unmasking sends what
is held; the host's power states open and close the way, a completion that is held as the
host goes to sleep wakes it where it may, and PME repeats (R387, R388, R525). -/
def Obligations.VectorsDelivered : Prop :=
  (∀ (v : Fin 2048) (s : State), s.vreq.contains v.val = true →
    let left := s.vreq.filter (· != v.val)
    (vectorOpen s v.val = true → ∃ t, exec (.msixSend v) s = .next t ∧
      t = { s with regs := t.regs, vreq := left, pba := s.pba.filter (· != v.val), out := s.out ++ [.msix v.val] } ∧
      counted s t 0xE0028 1) ∧
    (vectorOpen s v.val = false →
      exec (.msixSend v) s = .next { s with vreq := left, pba := addNew s.pba v.val })) ∧
  (∀ (v : Fin 2048) (s : State), barOpen s = true →
    ∃ t, exec (.msixUnmask (.vector v)) s = .next t ∧
      t = { s with regs := t.regs, pba := t.pba, out := t.out } ∧
      (regVal t (0x3F0000C + 16 * v.val)).testBit 0 = false ∧
      let sent := s.pba.filter (fun w => (w == v.val || !vectorMasked s w) && !s.pins.functionMask && hostUp s)
      t.out = s.out ++ sent.map .msix ∧ t.pba = s.pba.filter (fun w => !sent.contains w)) ∧
  (∀ s : State, ∃ t, exec (.msixUnmask .function) s = .next t ∧
    t = { s with regs := t.regs, pba := t.pba, out := t.out, pins := { s.pins with functionMask := false } } ∧
    t.out = s.out ++ (s.pba.filter (fun w => !vectorMasked s w && hostUp s)).map .msix) ∧
  (∀ (d3 busMaster pmeEn linkUp : Bool) (s : State),
    let moved := { s with pins := { s.pins with
      d3, busMaster, pmeEn, linkUp, pmeStatus := s.pins.pmeStatus && d3, wakeLow := s.pins.wakeLow && !linkUp } }
    exec (.hostDStateChange d3 busMaster pmeEn linkUp) s = .next
      (if hostUp s = false ∧ d3 = false ∧ busMaster = true ∧ fatal s = false then hostBack moved
       else if d3 = true ∧ pmeEn = true ∧ s.pins.pmeStatus = false ∧
           (∃ e ∈ s.kennels, ∃ c ∈ e.2.cqs, c.2.wake = true ∧ cqBacklog e.2 c.1 = true) then
         { moved with out := s.out ++ [.pme (!linkUp)],
                      pins := { moved.pins with pmeStatus := true, wakeLow := !linkUp } }
       else moved)) ∧
  (∀ (linkUp : Bool) (s : State), s.pins.pmeStatus = true →
    exec (.pmeRepeat linkUp) s = .next { s with
      out := s.out ++ [.pme (!linkUp)],
      pins := { s.pins with linkUp, wakeLow := !linkUp } })

def Obligations.Events : Prop := eventsRaised ∧ eventsCleared ∧ eventsArmed


/-! ### Ingest -/

/-- Only port `p` of group `g` differs among the groups. -/
def Sys2Proof.Claims.onlyPort (s t : State) (g p : Nat) : Prop :=
  t.groups.length = s.groups.length ∧ (∀ g' p', g' ≠ g ∨ p' ≠ p → ingPort t g' p' = ingPort s g' p')

/-- Writing the mode drops every link of the group and makes it retrain; links come up and
go down; flow control is a pause frame or, on a RawLink lane, an XOFF block; pause frames and
idle blocks act on their port alone (R32, R33, R40, R42, R43). That a write which leaves MODE
as it was drops the links too is the model's choice (log entry 114). -/
def Sys2Proof.Claims.ingestLinks : Prop :=
  ∀ (g port : Fin 4) (s : State), s.groups.length = 4 → (∀ x ∈ s.groups, x.ports.length = 4) →
    let q := ingPort s g.val port.val
    let grp := (s.groups[g.val]?).getD {}
    (∀ val : BitVec 32, barOpen s = true → ∃ t, exec (.groupModeWrite g val) s = .next t ∧
      t = { s with regs := t.regs, groups := t.groups, herder := { s.herder with env := t.herder.env } } ∧
      ingMode t g.val = (if val.toNat % 8 ≤ 4 then val.toNat % 8 else ingMode s g.val) ∧
      ((t.groups[g.val]?).map (·.retrain) = some true) ∧
      (∀ p, p < 4 → (ingPort t g.val p).up = false ∧ (ingPort t g.val p).asserted = [] ∧
        (ingPort t g.val p).held = [] ∧ (ingPort t g.val p).fifo = (ingPort s g.val p).fifo) ∧
      (∀ i, i ≠ g.val → t.groups[i]? = s.groups[i]?)) ∧
    (port.val < modePorts (ingMode s g.val) → q.up = false → pState s < 2 →
      (grp.retrain = true → ∀ p ∈ grp.ports, p.fifo = []) →
      ∃ t, exec (.ingestLinkUp g port) s = .next t ∧
        t = { s with groups := t.groups, herder := { s.herder with env := t.herder.env } } ∧
        onlyPort s t g.val port.val ∧
        ingPort t g.val port.val = { q with up := true, prevFseq := none, skipping := false } ∧
        (t.groups[g.val]?).map (·.retrain) = some false) ∧
    (q.up = true → ∃ t, exec (.ingestLinkDown g port) s = .next t ∧
      t = { s with groups := t.groups, herder := { s.herder with env := t.herder.env } } ∧
      onlyPort s t g.val port.val ∧
      ingPort t g.val port.val = { q with up := false, asserted := [], held := [], prevFseq := none, skipping := false }) ∧
    (∀ cls : Fin 8, q.up = true → q.asserted.contains cls.val = true →
      exec (.flowControlRepeat g port cls) s = .next { s with out := s.out ++
        [if ingMode s g.val = 4 then .rawCtl g.val port.val (0x96 :: zeros 7)
         else .flow g.val port.val cls.val true] }) ∧
    (∀ (classes : BitVec 8) (quanta : Nat), isEth s g.val port.val = true → q.up = true →
      (ingPause s g.val = 1 ∨ ingPause s g.val = 2) →
      ∃ t, exec (.pauseFrameReceive g port classes quanta) s = .next t ∧ t = { s with groups := t.groups } ∧
        onlyPort s t g.val port.val ∧ { ingPort t g.val port.val with held := [] } = { q with held := [] } ∧
        ∀ c n, ((c, n) ∈ (ingPort t g.val port.val).held ↔
          if (ingPause s g.val = 1 ∧ c = 0) ∨ (ingPause s g.val = 2 ∧ c < 8 ∧ classes.getLsbD c = true)
          then quanta ≠ 0 ∧ n = quanta else (c, n) ∈ q.held)) ∧
    (isRaw s g.val = true → q.up = true →
      (∃ t, exec (.rawlinkIdleBlock g port) s = .next t ∧ t = { s with groups := t.groups } ∧
        onlyPort s t g.val port.val ∧ ingPort t g.val port.val = { q with skipping := false }) ∧
      (q.skipping = false → ∃ t, exec (.rawlinkStrayBlock g port) s = .next t ∧ t = { s with regs := t.regs } ∧
        counted s t (0x20100 + 0x1000 * g.val + 44) 1))

/-- One discard counter of a group has counted a frame, and nothing else changed. -/
def Sys2Proof.Claims.discarded (s t : State) (g i : Nat) : Prop :=
  t = { s with regs := t.regs } ∧ counted s t (0x20100 + 0x1000 * g + 4 * i) 1

/-- The bytes of the data words of a RawLink frame (R41). -/
def Sys2Proof.Claims.rawBytes (ws : List (BitVec 64)) : Bytes := ws.flatMap (fun w => toLe 8 w.toNat)

/-- A frame is discarded at the first check of R34 that it fails, with its counter; the RFX
bytes of the others go on to the checks of the fragment (R33, R34, R41, R42). -/
def Sys2Proof.Claims.ingestFrames : Prop :=
  (∀ (g port : Fin 4) (frame : Bytes) (fecBad : Bool) (s : State),
    isEth s g.val port.val = true → (ingPort s g.val port.val).up = true →
    let n := frame.length
    let at' := if be frame 12 2 = 0x8100 then 16 else 12
    let whole := fecBad = false ∧ 64 ≤ n ∧ crc32 (frame.take (n - 4)) = le frame (n - 4) 4
    let mine := slice frame 0 6 = toLe 6 (regVal s (0x20010 + 0x1000 * g.val + 8 * port.val)) ∧ be frame 0 1 % 2 = 0
    ∃ t, exec (.ethFrameReceive g port frame fecBad) s = .next t ∧
      (¬whole → discarded s t g.val 0) ∧
      (whole → 9216 < n → discarded s t g.val 1) ∧
      (whole → n ≤ 9216 → ¬mine → discarded s t g.val 2) ∧
      (whole → n ≤ 9216 → mine → be frame at' 2 ≠ 0x0800 → be frame at' 2 ≠ 0x86DD → discarded s t g.val 3) ∧
      (∀ v6 pseudo d, whole → n ≤ 9216 → mine →
        (be frame at' 2 = 0x0800 ∧ v6 = false ∨ be frame at' 2 = 0x86DD ∧ v6 = true) →
        ipView v6 ((frame.take (n - 4)).drop (at' + 2)) = .udp v6 pseudo d →
        (be d 2 2 ≠ field (ingCfg s g.val) 16 16 → discarded s t g.val 6) ∧
        (be d 2 2 = field (ingCfg s g.val) 16 16 → udpSumOk v6 (bitAt (ingCfg s g.val) 11) pseudo d = true →
          40 ≤ d.length → t = rfxReceive s g.val port.val
            (if ingPause s g.val = 2 ∧ be frame 12 2 = 0x8100 then be frame 14 1 / 32 else 0) 0 (d.drop 8)))) ∧
  (∀ (g lane : Fin 4) (sof eof : BitVec 64) (ws : List (BitVec 64)) (s : State),
    isRaw s g.val = true → (ingPort s g.val lane.val).up = true →
    let first := toLe 8 sof.toNat
    let last := toLe 8 eof.toNat
    let fseq := be first 2 2
    let valid := le last 1 1
    let b := (rawBytes ws).take (8 * (ws.length - 1) + valid)
    le first 0 1 = 0x5A → ∃ u, u = modPort { s with regs := u.regs } g.val lane.val
        (fun q => { q with prevFseq := some fseq, skipping := false }) ∧
      (match (ingPort s g.val lane.val).prevFseq with
        | some p => counted s u (0x20100 + 0x1000 * g.val + 60)
            (if (p + 1) % 65536 = fseq then 0 else 1)
        | none => u.regs = s.regs) ∧
      (le last 0 1 = 0xA5 → ws ≠ [] → ws.length ≤ 2048 → 1 ≤ valid → valid ≤ 8 → 32 ≤ b.length →
        crc32 b = be last 4 4 →
        exec (.rawlinkFrameReceive g lane sof (ws.map .data ++ [.control eof])) s =
          .next (rfxReceive u g.val lane.val 0 1 b)) ∧
      (le last 0 1 = 0xC3 → ws.length ≤ 2048 →
        exec (.rawlinkFrameReceive g lane sof (ws.map .data ++ [.control eof])) s =
          .next (rawDiscard u g.val lane.val 13)))

/-- A fragment is discarded for a wrong HCRC or a kennel that the group does not permit,
has no effect where the kennel does not exist (R396), is quarantined with the status of the first check that it fails, and otherwise enters the FIFO
of its class, or is counted in ING_OVF (R34, R36, R45). -/
def Sys2Proof.Claims.ingestFragments : Prop :=
  ∀ (g port : Fin 4) (cls link : Nat) (b : Bytes) (s : State), s.groups.length = 4 →
    (∀ x ∈ s.groups, x.ports.length = 4) → 32 ≤ b.length →
    let t := rfxReceive s g.val port.val cls link b
    let q := ingPort s g.val port.val
    let f : Frag := {
      port := 64 * g.val + 16 * (port.val * modeLanes (ingMode s g.val)), link, tick := s.timing.tick, bytes := b }
    let k := be b 2 1
    (crc32c (b.take 28) ≠ be b 28 4 → discarded s t g.val 9) ∧
    (crc32c (b.take 28) = be b 28 4 → kPermitted s g.val k = false → discarded s t g.val 10) ∧
    (crc32c (b.take 28) = be b 28 4 → kPermitted s g.val k = true → kennel? s k = none → t = s) ∧
    (crc32c (b.take 28) = be b 28 4 → kPermitted s g.val k = true → kennel? s k ≠ none →
      ∀ status, rfxFault s g.val b = some status →
      t = quarantine s k status f) ∧
    (crc32c (b.take 28) = be b 28 4 → kPermitted s g.val k = true → rfxFault s g.val b = none →
      (fifoLevel q cls + b.length ≤ fifoShare s g.val → onlyPort s t g.val port.val ∧
        t = { s with groups := t.groups, out := t.out } ∧
        (ingPort t g.val port.val).fifo = q.fifo ++ [(cls, f)] ∧
        (cls ∉ q.asserted → flowUsed s g.val = true → (cls ∈ (ingPort t g.val port.val).asserted ↔
          fifoShare s g.val ≤ 2 * (fifoLevel q cls + b.length)))) ∧
      (fifoShare s g.val < fifoLevel q cls + b.length →
        counted s t (0x20100 + 0x1000 * g.val + 64) 1 ∧ t = { s with regs := t.regs, vreq := t.vreq } ∧
        evtPending t (5 + g.val) = true))

/-- The oldest fragment of a class that none of its kennel precedes leaves the FIFO once it
is taken, what was due before having taken place: by the job that covers its epoch, by the
pool of its vertex, or, for a kennel in reset, by NOJOB (R43, R107, R408). -/
def Sys2Proof.Claims.ingestForwarding : Prop :=
  ∀ (g port : Fin 4) (cls : Fin 8) (now : Nat) (before s : State) (f : Frag) (rest : List (Nat × Frag)),
    s = tickTo before now → moverUp s = true →
    s.groups.length = 4 → (∀ x ∈ s.groups, x.ports.length = 4) →
    let q := ingPort s g.val port.val
    let k := be f.bytes 2 1
    fifoTake cls.val q.fifo [] = some (f, rest) →
    ∃ t, exec (.fragmentForward g port ⟨cls, now⟩) before = .next t ∧
      (∀ x h vid p, kennel? s k = some x → bindingOf s k g.val (rfxSource f.bytes) = some (h, vid) →
        plan? s k h = some p →
        (x.state = 3 → (ingPort t g.val port.val).fifo = rest ∧
          (plan? t k h).map (·.nojob) = some (p.nojob + 1) ∧ onlyPort s t g.val port.val) ∧
        (x.state ≠ 3 → jobTaking s k h vid (rfxEpoch f.bytes) = none → ∀ eid e,
          outEdge? p vid 0 = some (eid, e) → (tget p.pool vid []).length < e.credits →
          (ingPort t g.val port.val).fifo = rest ∧ onlyPort s t g.val port.val ∧
          (plan? t k h).map (fun p => (tget p.pool vid []).flatten) =
            some ((tget p.pool vid []).flatten ++ [f])) ∧
        (∀ j v u, x.state ≠ 3 → jobTaking s k h vid (rfxEpoch f.bytes) = some j →
          vx? s { job := j, vid } = some v → (ingestOf v.st).early = [] →
          (ingestPut s j vid f = (u, true) → (ingPort t g.val port.val).fifo = rest ∧
            t = { u with groups := t.groups, out := t.out }) ∧
          (ingestPut s j vid f = (u, false) → t = u))) ∧
      (kennel? s k = none → (ingPort t g.val port.val).fifo = rest ∧ t = { s with groups := t.groups, out := t.out })

def Obligations.IngestLinksAndFrames : Prop := ingestLinks ∧ ingestFrames

def Obligations.IngestFragmentsAndForwarding : Prop := ingestFragments ∧ ingestForwarding


/-! ### The timing unit -/

/-- What the counter shows: epoch, count, tick, and whether the starting window is used. -/
def Sys2Proof.Claims.counterAt (s : State) (epoch count tick : Nat) (used : Bool) : Prop :=
  s.timing.epoch = epoch ∧ s.timing.count = count ∧ s.timing.tick = tick % 2 ^ 64 ∧ s.timing.startUsed = used

/-- EP_STATUS bit `i` (R61). -/
def Sys2Proof.Claims.epStatus (s : State) (i : Nat) : Bool := (regVal s 0x30008).testBit i

/-- The verdict that the timing unit issues for an event at its due tick (R55). -/
def Sys2Proof.Claims.verdictOf (s : State) (x : VEvent) : Issued :=
  let det := regVal s (0x31000 + 8 * x.kennel)
  { kennel := x.kennel, epoch := x.epoch, event := x.event, late := x.result.isNone,
    accept := match x.result with
      | some l => l.testBit (det / 2 ^ 24 % 2 ^ 6)
      | none => det.testBit 30 }

/-- A soft boundary starts the next epoch after EP_LEN − 1 and takes the new length; a window
that passes unused is counted; verdicts whose ticks pass on the way are issued (R46, R48,
R55). -/
def Obligations.EpochBoundaries : Prop :=
  ∀ s : State, epRunning s = true →
    let c := s.timing
    let next := (c.epoch + 1) % 2 ^ 48
    (∃ t, exec .epochBoundary s = .next t ∧
      counterAt t next 0 (c.tick + (c.len - c.count)) false ∧ t.timing.len = epLen s ∧
      t.timing.bTable = ((next, (c.tick + (c.len - c.count)) % 2 ^ 64) ::
        c.bTable.filter (fun e => e.1 != next)).take 256 ∧
      (next = 0 → epStatus t 3 = true) ∧
      (esyncEn s = true → c.startUsed = false → c.startClosed = false → 0 < c.len → counted s t 0x30034 1) ∧
      (∀ x ∈ c.events, ∀ d, x.due = some d → x.dead = false → c.tick ≤ d → d < c.tick + (c.len - c.count) →
        verdictOf s x ∈ t.timing.issued)) ∧
    (esyncEn s = true → c.startUsed = false → c.startClosed = false → c.count ≤ c.len / 16 →
      ∃ t, exec .epochWindowMiss s = .next t ∧
        counterAt t c.epoch (c.len / 16 + 1) (c.tick + (c.len / 16 + 1 - c.count)) false ∧
        t.timing.startClosed = true ∧ counted s t 0x30034 1 ∧
        (s.leash.remote = [] →
          (∀ x ∈ c.events, ∀ d, x.due = some d → d < c.tick ∨ c.tick + (c.len / 16 + 1 - c.count) ≤ d) →
          t = { s with
            regs := t.regs,
            timing := { c with tick := t.timing.tick, count := c.len / 16 + 1, startClosed := true } }))

/-- An ESYNC edge is judged by where it falls: an armed resync loads the epoch, the ending
window starts the next epoch, the starting window restarts or confirms this one, and any
other edge is rejected, the third in a row arming a resync (R47, R48, R49). -/
def Obligations.EsyncEdges : Prop :=
  ∀ (dt : Nat) (s : State), epRunning s = true → esyncEn s = true → s.timing.count + dt < s.timing.len →
    let c := s.timing.count + dt
    let w := s.timing.len / 16
    let e := s.timing.epoch
    let tick := s.timing.tick + dt + 1
    let load := regVal s 0x30020
    let run := regVal s 0x30008 % 4
    ∃ t, exec (.esyncEdge dt) s = .next t ∧
      (epStatus s 5 = true →
        counterAt t (if load.testBit 63 then load % 2 ^ 48 else (e + 1) % 2 ^ 48) 1 tick true ∧
        epStatus t 5 = false ∧ epStatus t 4 = true ∧ regVal t 0x30008 % 4 = 0 ∧
        (load.testBit 63 = true → (regVal t 0x30020).testBit 63 = false)) ∧
      (epStatus s 5 = false → c = 0 → s.timing.startUsed = false →
        counterAt t e 1 tick true ∧ regVal t 0x30008 % 4 = 0) ∧
      (epStatus s 5 = false → s.timing.len - w ≤ c → 0 < c →
        counterAt t ((e + 1) % 2 ^ 48) 1 tick true ∧ regVal t 0x30008 % 4 = 0) ∧
      (epStatus s 5 = false → 1 ≤ c → c ≤ w → c < s.timing.len - w → s.timing.startUsed = false →
        counterAt t e 1 tick true ∧ regVal t 0x30008 % 4 = 0) ∧
      (epStatus s 5 = false → c < s.timing.len - w → (w < c ∨ s.timing.startUsed = true) →
        counterAt t e (c + 1) tick s.timing.startUsed ∧ regVal t 0x30008 % 4 = min 3 (run + 1) ∧
        counted s t 0x30030 1 ∧ epStatus t 5 = decide (2 ≤ run))

/-- Writes of EP_LEN and EP_CTRL, and the loss and return of TCLK: a start and RESYNC_NOW arm
a resync, a stop and a loss lower the pins and default what is pending (R46, R49, R51, R52). -/
def Obligations.TimingControl : Prop :=
  (∀ (val : BitVec 32) (s : State), barOpen s = true →
    let len := val.toNat % 2 ^ 25
    (256 ≤ len → len ≤ 16777216 → ∃ t, exec (.epLenWrite val) s = .next t ∧
      t = { s with regs := t.regs, timing := { s.timing with len := if s.timing.tick = 0 then len else s.timing.len } } ∧
      regVal t 0x30004 = len ∧ (∀ o, o ≠ 0x30004 → regVal t o = regVal s o)) ∧
    (len < 256 ∨ 16777216 < len → ∃ t, exec (.epLenWrite val) s = .next t ∧
      t = { s with regs := t.regs, vreq := t.vreq } ∧ regVal t 0x30004 = regVal s 0x30004 ∧ epStatus t 2 = true)) ∧
  (∀ (val : BitVec 32) (s : State), barOpen s = true → s.timing.events = [] →
    let was := (regVal s 0x30000).testBit 0
    (∃ t, exec (.resyncNow val) s = .next t ∧ epStatus t 5 = true ∧
      regVal t 0x30000 = val.toNat &&& 0xE03) ∧
    (∃ t, exec (.epochCounterStart val) s = .next t ∧ regVal t 0x30000 = (val.toNat ||| 1) &&& 0xE03 ∧
      (was = false → epStatus t 5 = true) ∧ t = { s with regs := t.regs }) ∧
    (∃ t, exec (.epochCounterStop val) s = .next t ∧ (regVal t 0x30000).testBit 0 = false ∧
      (was = true → t.timing.pulses = [] ∧ t.out = s.out ++ [.pinsLow]) ∧
      t.timing.epoch = s.timing.epoch ∧ t.timing.count = s.timing.count)) ∧
  (∀ s : State,
    (tclkLost s = false → ∃ t, exec .tclkLost s = .next t ∧ tclkLost t = true ∧ epStatus t 6 = true ∧
      (∀ e ∈ s.timing.events, inDet s e.kennel = true → e ∉ t.timing.events) ∧
      (s.timing.events = [] → t.timing.pulses = [] ∧ t.out = s.out ++ [.pinsLow])) ∧
    (tclkLost s = true → ∃ t, exec .tclkReturn s = .next t ∧ tclkLost t = false ∧ epStatus t 5 = true ∧
      t = { s with regs := t.regs }))

/-- The timing unit holds nothing of the event. -/
def Sys2Proof.Claims.eventFresh (s : State) (k epoch event : Nat) : Prop :=
  inDet s k = true ∧ evIssued s k epoch event = none ∧ evFind s k epoch event = none

/-- A verdict of the event stands issued, and the event waits no more. -/
def Sys2Proof.Claims.issuedNow (t : State) (k epoch event : Nat) (accept late : Bool) : Prop :=
  t.timing.issued.getLast? = some { kennel := k, epoch, event, accept, late } ∧ evFind t k epoch event = none

/-- The count has not left the window of its boundary without the window's being closed. -/
def Sys2Proof.Claims.windowKept (s : State) : Prop := s.timing.startClosed = true ∨ s.timing.count ≤ s.timing.len / 16

/-- A TEV result is held until its due tick; one that comes after it, or after the verdict,
is dropped and counted, and the default is issued with LATE (R54, R55, R56). The verdict of an
event is issued at its due tick, and its message leaves when a way is open (R59). -/
def Obligations.Verdicts : Prop :=
  (∀ (ev : EventRef) (lines : BitVec 64) (s : State), epRunning s = true → 0 < s.timing.len - s.timing.count →
    (∀ j b, (j, b) ∈ s.jobs → b.verts = []) → windowKept s →
    let k := ev.kennel.val
    let e := ev.epoch.toNat
    let n := ev.event.toNat
    (∀ b, eventFresh s k e n → (s.timing.bTable.find? (fun p => p.1 == e)).map (·.2) = some b →
      signedDiff 48 e s.timing.epoch ≤ 0 →
      let due := b + ev.toffset.toNat + regVal s (0x31000 + 8 * k) / 2 ^ 32 % 2 ^ 18
      ∃ t, exec (.tevResultArrive 0 ev lines) s = .next t ∧
        (s.timing.tick ≤ due → s.timing.tick < 2 ^ 64 → t = { s with
          timing := { s.timing with
            events := s.timing.events ++ [{
              kennel := k, epoch := e, event := n, toffset := ev.toffset.toNat, due := some due,
              result := some lines.toNat }] } }) ∧
        (due < s.timing.tick → s.timing.tick < 2 ^ 64 → counted s t (0x31C00 + 4 * k) 1 ∧
          counted s t (0x31800 + 4 * k) 1 ∧
          issuedNow t k e n ((regVal s (0x31000 + 8 * k)).testBit 30) true)) ∧
    (∀ i, inDet s k = true → evIssued s k e n = some i →
      ∃ t, exec (.tevResultArrive 0 ev lines) s = .next t ∧ counted s t (0x31C00 + 4 * k) 1 ∧
        t.timing.issued = s.timing.issued)) ∧
  (∀ (ev : EventRef) (s : State) (x : VEvent) (d : Nat), epRunning s = true →
    let k := ev.kennel.val
    inDet s k = true → evIssued s k ev.epoch.toNat ev.event.toNat = none →
    evFind s k ev.epoch.toNat ev.event.toNat = some x → x.due = some d → x.dead = false →
    s.timing.tick ≤ d → d < 2 ^ 64 → s.timing.count + (d - s.timing.tick) < s.timing.len →
    ∃ t, exec (.verdictDue ev) s = .next t ∧ t.timing.tick = d ∧
      issuedNow t k ev.epoch.toNat ev.event.toNat (verdictOf s x).accept x.result.isNone ∧
      (x.result = none → counted (passTicks s (d - s.timing.tick)) t (0x31800 + 4 * k) 1)) ∧
  (∀ (quanta : Nat) (s : State),
    let u := passQuanta s quanta
    (∀ v q, sendFirst u u.timing.txq = some (v, q) →
      exec (.verdictMessageSend quanta) s = .next { v with timing := { v.timing with txq := q } }) ∧
    (sendFirst u u.timing.txq = none → exec (.verdictMessageSend quanta) s = .next u))


/-! ### Mailboxes and the Herder's messages -/

/-- A request that the Herder serves at once: it is alive, the mailbox is there and idle,
nothing makes the request wait, and it passes the checks that come before its own (R449, R450). -/
def Sys2Proof.Claims.served (s : State) (r : HeldMsg) : Prop :=
  dmpDead s = false ∧ mbExists s r.mb = true ∧ mbBusy s r.mb = false ∧ dmpWaits s r = false ∧
  dmpFault s r = none

/-- The state in which the Herder works on the request: the window, the mailbox's status, the
count of messages and the round robin have changed, and nothing else. -/
def Sys2Proof.Claims.atHerder (s u : State) (r : HeldMsg) : Prop :=
  u = { s with windows := u.windows, regs := u.regs, herder := { s.herder with mbArb := u.herder.mbArb } } ∧
  counted s u 0x110010 1 ∧ (∀ o, o ≠ 0x110010 → o ≠ mbReg r.mb → regVal u o = regVal s o)

/-- The request has the effect `eff`, and its reply is a status and a body. -/
def Sys2Proof.Claims.replied (s t : State) (r : HeldMsg) (status : Nat) (body : Bytes) (eff : State → State) : Prop :=
  ∃ u, atHerder s u r ∧ t = dmpReply (eff u) r.mb status body

/-- A doorbell while BUSY is counted and ignored; a request that must wait is held; one that
fails a check is answered with its status alone. An answer has the opcode + 0x8000, the
SEQ of the request, its status and its body, clears BUSY and sets RESP, and raises the
mailbox's source (R449, R450). -/
def Obligations.MailboxProtocol : Prop :=
  (∀ (h : Handler) (r : HeldMsg) (s : State), dmpDead s = false → mbExists s r.mb = true →
    (mbBusy s r.mb = true → dmpTake h r s = cnt s 0x110014 1) ∧
    (mbBusy s r.mb = false → dmpWaits s r = true → ∃ u, dmpTake h r s = u ∧
      u.herder = { s.herder with held := s.herder.held ++ [r] } ∧ mbBusy u r.mb = true ∧
      u = { s with windows := u.windows, regs := u.regs, herder := u.herder }) ∧
    (∀ e, mbBusy s r.mb = false → dmpWaits s r = false → dmpFault s r = some e →
      replied s (dmpTake h r s) r e [] id)) ∧
  (∀ (s : State) (n status : Nat) (body : Bytes), n ≤ 256 → body.length < 4000 →
    let t := dmpReply s n status body
    let w := tget t.windows n []
    le w 0 2 = (le (tget s.windows n []) 0 2 + 0x8000) % 2 ^ 16 ∧ le w 2 2 = body.length ∧
    w.take 16 = toLe 2 (le (tget s.windows n []) 0 2 + 0x8000) ++ toLe 2 body.length ++
      slice (tget s.windows n []) 4 4 ++ toLe 2 status ++ zeros 6 ∧
    (w.drop 16).take body.length = body ∧ regVal t (mbReg n) = 2 ∧
    t.out = s.out ++ [.response n (w.take (16 + body.length))] ∧
    evtPending t (if n = 256 then 9 else 512 + n) = true ∧ (∀ m, m ≠ n → tget t.windows m [] = tget s.windows m [])) ∧
  (∀ (mb : Mb) (opcode : BitVec 16) (m : Msg) (s : State), dmpRow opcode.toNat = none →
    dmpDead s = false → mbExists s (mbNum mb) = true → mbBusy s (mbNum mb) = false →
    ready s = true → s.herder.act = none → devErr s = false → pState s < 2 →
    ∃ t, exec (.mailboxBadOpcode mb opcode m) s = .next t ∧
      replied s t (dmpMsg mb opcode.toNat m) 0x0F01 [] id) ∧
  (∀ (mb : Mb) (s : State), mbBusy s (mbNum mb) = true →
    ∃ t, exec (.mailboxBusyWrite mb) s = .next t ∧ t = { s with regs := t.regs } ∧ counted s t 0x110014 1)

/-- The log records from an index on, as many as one answer takes (R444, R461). -/
def Sys2Proof.Claims.logAnswer (base : Nat) (log : List Bytes) (first most : Nat) : Bytes :=
  let start := max first base
  let recs := (log.drop (start - base)).take most
  toLe 4 (start + recs.length) ++ toLe 4 recs.length ++ recs.flatten

/-- HELLO names the host's PASID and opens the other messages; the reports answer the
version, the environment, the two logs, the identity, and a signed attestation that holds the
nonce (R397, R451, R458 to R462). -/
def Obligations.HerderReports : Prop :=
  ∀ (mb : Mb) (m : Msg) (s : State),
    let b := m.body
    (served s (dmpMsg mb 1 m) → le b 0 4 < 2 ^ 20 → zeroes b 4 4 = true →
      ∃ t, exec (.hello mb m) s = .next t ∧ replied s t (dmpMsg mb 1 m) 0 [] (fun u =>
        setReg (modKennel { u with herder := { u.herder with hello := true } } 0
          (fun x => { x with pasid := le b 0 4 })) 0xF0000 (2 ^ 63 + le b 0 4))) ∧
    (served s (dmpMsg mb 2 m) → ∃ t, exec (.getVersion mb m) s = .next t ∧
      replied s t (dmpMsg mb 2 m) 0 (versionBody (stepping s) s.herder.header s.herder.slot) id) ∧
    (∀ fresh : Bytes, served s { dmpMsg mb 3 m with fresh } → zeroes b 1 7 = true →
      (le b 0 1 = 0 → ∃ t, exec (.getEnvironment mb m fresh) s = .next t ∧
        replied s t { dmpMsg mb 3 m with fresh } 0 (slice s.herder.env 0 1600) id) ∧
      (le b 0 1 = 1 → ∃ t body, exec (.getEnvironment mb m fresh) s = .next t ∧
        replied s t { dmpMsg mb 3 m with fresh } 0 body
          (fun u => noteEnv u (keepSpd s.herder.env (envForm u fresh))))) ∧
    (served s (dmpMsg mb 4 m) → zeroes b 4 4 = true → ∃ t, exec (.getLog mb m) s = .next t ∧
      replied s t (dmpMsg mb 4 m) 0 (logAnswer s.herder.logBase s.herder.log (le b 0 4) 127) id) ∧
    (served s (dmpMsg mb 5 m) → zeroes b 4 4 = true → ∃ t, exec (.getMlog mb m) s = .next t ∧
      replied s t (dmpMsg mb 5 m) 0 (logAnswer 0 s.herder.mlog (le b 0 4) 42) id) ∧
    (served s (dmpMsg mb 6 m) → ∃ t key cert, exec (.getIdentity mb m) s = .next t ∧
      key.length = 57 ∧ cert.length ≤ 2048 ∧
      replied s t (dmpMsg mb 6 m) 0 (key ++ zeros 7 ++ toLe 2 cert.length ++ cert) id) ∧
    (served s (dmpMsg mb 7 m) → ∃ t head tail sig, exec (.attest mb m) s = .next t ∧
      head = toLe 4 0x54544152 ++ toLe 1 1 ++ toLe 1 (mbKennel (mbNum mb)) ++
        toLe 1 (b2n s.herder.trunc + 2 * b2n (s.herder.slot == 2)) ++ zeros 1 ++ slice b 0 32 ++
        toLe 8 s.herder.coldBoots ∧ sig.length = 114 ∧
      replied s t (dmpMsg mb 7 m) 0 (head ++ tail ++ sig) (fun u => { u with free := u.free + 1 }))

/-- BIND_QUARANTINE, BIND_VERDICT and SET_DETERMINISTIC set what they name for the kennel of
their mailbox, and refuse fields beyond R453, R454 and R53. Where DET becomes 0, the results
held get their defaults and the pins go with them. -/
def Sys2Proof.Claims.herderBindings : Prop :=
  ∀ (mb : Mb) (m : Msg) (s : State),
    let b := m.body
    let k := mbKennel (mbNum mb)
    let q := (kennel? s k).bind (·.quar)
    let used := toLe 8 ((q.map (·.used)).getD 0) ++ toLe 4 ((q.map (·.entries)).getD 0)
    (served s (dmpMsg mb 0x0400 m) → zeroes b 3 5 = true →
      (le b 2 1 = 1 → ∃ t, exec (.bindQuarantine mb m) s = .next t ∧
        replied s t (dmpMsg mb 0x0400 m) 0 used (fun u => modKennel u k (fun x => { x with quar := none }))) ∧
      (le b 2 1 = 2 → ∃ t, exec (.bindQuarantine mb m) s = .next t ∧
        replied s t (dmpMsg mb 0x0400 m) 0 used id) ∧
      (le b 2 1 = 0 → le b 0 2 < 4096 → le b 8 8 % 32 = 0 → 16416 ≤ le b 16 8 →
        (ownSpace s k (le b 0 2)).isSome = true → inSpace s k (le b 0 2) (le b 8 8) (le b 16 8) = true →
        ∃ t, exec (.bindQuarantine mb m) s = .next t ∧
          replied s t (dmpMsg mb 0x0400 m) 0 (zeros 12) (fun u => modKennel u k (fun x => { x with
            quar := some { tspace := le b 0 2, offset := le b 8 8, length := le b 16 8 } })))) ∧
    (served s (dmpMsg mb 0x0401 m) →
      let ds := (List.range (le b 0 1)).map (fun i => slice b (16 + 48 * i) 48)
      (le b 0 1 ≤ 8 → zeroes b 1 15 = true → (∀ d ∈ ds, destOk s k d = true) →
        ∃ t, exec (.bindVerdict mb m) s = .next t ∧
          replied s t (dmpMsg mb 0x0401 m) 0 [] (fun u => modKennel u k (fun x => { x with vdests := ds }))) ∧
      (8 < le b 0 1 → ∃ t, exec (.bindVerdict mb m) s = .next t ∧
        replied s t (dmpMsg mb 0x0401 m) 0x0F03 [] id)) ∧
    (∀ tclkKhz : Nat, served s { dmpMsg mb 0x0402 m with tclkKhz } →
      let lat := le b 4 4
      let reg := 0x31000 + 8 * k
      le b 1 1 < 64 → le b 2 1 < 2 → zeroes b 3 1 = true → lat ≤ 262143 →
      (le b 0 1 = 0 → ∃ t, exec (.setDeterministic mb m tclkKhz) s = .next t ∧
        replied s t { dmpMsg mb 0x0402 m with tclkKhz } 0 []
          (fun u => prunePins (setReg (defaultAll u (fun j => j == k)) reg 0))) ∧
      (le b 0 1 = 1 → epRunning s = false → ∃ t, exec (.setDeterministic mb m tclkKhz) s = .next t ∧
        replied s t { dmpMsg mb 0x0402 m with tclkKhz } 0x0211 [] id) ∧
      (le b 0 1 = 1 → epRunning s = true → (1000 * lat < 2 * tclkKhz ∨ tclkKhz < lat) →
        ∃ t, exec (.setDeterministic mb m tclkKhz) s = .next t ∧
          replied s t { dmpMsg mb 0x0402 m with tclkKhz } 0x0210 [] id) ∧
      (le b 0 1 = 1 → epRunning s = true → 2 * tclkKhz ≤ 1000 * lat → lat ≤ tclkKhz →
        ∃ t, exec (.setDeterministic mb m tclkKhz) s = .next t ∧
          replied s t { dmpMsg mb 0x0402 m with tclkKhz } 0 [] (fun u => setReg u reg
            (lat * 2 ^ 32 + 2 ^ 31 + le b 2 1 * 2 ^ 30 + le b 1 1 * 2 ^ 24)))) ∧
    (∀ report : Bytes, ready s = true → exec (.environmentMeasure report) s =
      .next (noteEnv s (envRails s.herder.env (envForm s report))))

/-- The self-test starts, stops and reports by message; a unit is tested in order, its mismatches
count, the first is kept as the channel's first, the unit's poisoned lines stay out of it, and a channel can be suspended (R433 to R436). -/
def Sys2Proof.Claims.selfTests : Prop :=
  (∀ (mb : Mb) (m : Msg) (s : State),
    let b := m.body
    (served s (dmpMsg mb 0x0503 m) → le b 0 1 < 2 → zeroes b 1 7 = true →
      (s.selfTest.running = true → ∃ t, exec (.tsSelftest mb m) s = .next t ∧
        replied s t (dmpMsg mb 0x0503 m) 0x0E13 [] id) ∧
      (s.selfTest.running = false → ∃ t, exec (.tsSelftest mb m) s = .next t ∧
        t.selfTest = { running := true, extended := le b 0 1 == 1 } ∧ regVal t 0x10F030 = 0 ∧
        (regVal t 0x10F020).testBit 0 = true ∧ (regVal t 0x10F020).testBit 1 = decide (le b 0 1 = 1) ∧
        (∀ i, 16 ≤ i → i < 32 → (regVal t 0x10F020).testBit i = false) ∧ t.dram = s.dram ∧
        ∃ u, t = dmpReply u (mbNum mb) 0 [])) ∧
    (served s (dmpMsg mb 0x0504 m) → ∃ t u, exec (.tsSelftestStop mb m) s = .next t ∧
      t = dmpReply u (mbNum mb) 0 [] ∧ t.dram = s.dram ∧
      t.selfTest = (if s.selfTest.running = false then s.selfTest
        else if testIdle s = true then { s.selfTest with running := false, stopping := false }
        else { s.selfTest with stopping := true })) ∧
    (served s (dmpMsg mb 0x0505 m) → ∃ t, exec (.tsSelftestStatus mb m) s = .next t ∧
      replied s t (dmpMsg mb 0x0505 m) 0 (testReport s) id)) ∧
  (∀ (ch : Fin 16) (unit aclk : Nat) (bad ueAfter : List (Fin 16)) (s : State),
    let c := ch.val
    let x := s.selfTest
    let line := fun (i : Fin 16) => channelLine c (unitFirst s x.extended unit + i.val)
    let found := bad.filter (fun i => !linePoison s (line i))
    x.running = true → testHeld s c = false → channelTested s c = false → tget x.units c 0 = unit →
    bitAt (gstatus s) 2 = true → bitAt (gstatus s) 4 = false →
    ∃ t, exec (.selftestUnit ch unit bad ueAfter aclk) s = .next t ∧
      tget t.selfTest.units c 0 = unit + 1 ∧ (∀ d, d ≠ c → tget t.selfTest.units d 0 = tget x.units d 0) ∧
      regVal t 0x10F030 = (regVal s 0x10F030 + aclk) % 2 ^ 32 ∧
      t = { s with regs := t.regs, vreq := t.vreq, selfTest := t.selfTest, dram := t.dram, free := t.free } ∧
      t.dram = { s.dram with poison := t.dram.poison } ∧
      (∀ l, l ∈ t.dram.poison ↔
        l ∈ s.dram.poison ∨ (found ≠ [] ∧ ∃ i ∈ ueAfter, line i = l ∧ linePoison s l = false)) ∧
      tget t.selfTest.errs c 0 =
        (if found = [] then tget x.errs c 0 else min 0xFFFFFFFF (tget x.errs c 0 + found.length)) ∧
      (tfind? x.fails c = none → tfind? t.selfTest.fails c = found.head?.map (fun i => 64 * line i)) ∧
      (∀ a, tfind? x.fails c = some a → tfind? t.selfTest.fails c = some a) ∧
      (∀ d, d ≠ c → tget t.selfTest.errs d 0 = tget x.errs d 0 ∧ tfind? t.selfTest.fails d = tfind? x.fails d) ∧
      (found ≠ [] → counted s t 0x10F040 found.length ∧ evtPending t (32 + c) = true ∧
        (regVal t 0x10F020).testBit 3 = true) ∧
      (x.stopping = true → t.selfTest.running = false)) ∧
  (∀ (ch : Fin 16) (s : State), s.selfTest.running = true →
    (testHeld s ch.val = false → channelTested s ch.val = false → s.selfTest.stopping = false →
      ∃ t, exec (.selftestSuspend ch) s = .next t ∧ t = { s with regs := t.regs } ∧ testHeld t ch.val = true ∧
        (∀ o, o ≠ 0x10F020 → regVal t o = regVal s o)) ∧
    (testHeld s ch.val = true → ∃ t, exec (.selftestResume ch) s = .next t ∧ t = { s with regs := t.regs } ∧
      testHeld t ch.val = false ∧ (∀ o, o ≠ 0x10F020 → regVal t o = regVal s o)))

def Obligations.BindingsAndSelfTests : Prop := herderBindings ∧ selfTests


/-! ### DRAM and the shared cache -/

/-- Counter `i` of a channel (R363). -/
def Sys2Proof.Claims.channelCounter (c i : Nat) : Nat := 0x100020 + 0x800 * c + 4 * i

/-- DDR_ERRLOG of the line's channel now holds this error. -/
def Sys2Proof.Claims.errorRecorded (s t : State) (line ty dev : Nat) : Prop :=
  ∃ rank, rank < channelRanks s ∧ regVal t (errlogReg (chanOfLine line)) =
    ty * 2 ^ 62 + line % 2 * 2 ^ 61 + rank * 2 ^ 59 + dev % 32 * 2 ^ 54 + line * 64

/-- The line has been found uncorrectable: poisoned, counted, recorded, and raised (R342). -/
def Sys2Proof.Claims.foundUncorrectable (s t : State) (line ty dev : Nat) : Prop :=
  linePoison t line = true ∧ memLine t line = memLine { s with free := t.free } line ∧
  counted s t (channelCounter (chanOfLine line) 1) 1 ∧ errorRecorded s t line ty dev ∧
  evtPending t (32 + chanOfLine line) = true ∧
  (∀ l, l ≠ line → (l ∈ t.dram.poison ↔ l ∈ s.dram.poison))

/-- The request is held at its channel, which pauses (R345). -/
def Sys2Proof.Claims.pauseHolds (s : State) (c : Instr) (r : DramReq) : Prop :=
  exec c s = .next { s with dram := { s.dram with pauseReqs := s.dram.pauseReqs ++ [r] } }

/-- A read is answered by the write queue or by DRAM: a corrected error is counted and
recorded, and an uncorrectable one poisons the line (R341, R342, R349). A channel that pauses
holds it (R345). -/
def Sys2Proof.Claims.dramReads : Prop :=
  ∀ (line : Nat) (dev : BitVec 5) (s : State), dramUp s line = true →
    let c := chanOfLine line
    let d := dev.toNat
    (paused s c = true → ∀ who ecc, pauseHolds s (.dramRead line who ecc dev) (.read line who ecc dev)) ∧
    (paused s c = false →
    (∀ (who : Requester) (ecc : EccOutcome) (e : WqLine), wqFind s line = some e → e.poison = false →
      ∃ t, exec (.dramRead line who ecc dev) s = .next t ∧ t = { s with regs := t.regs } ∧
        counted s t (channelCounter c 4) 1) ∧
    (∀ who, wqFind s line = none → linePoison s line = false →
      exec (.dramRead line who .ok dev) s = .next s ∧
      (∃ t, exec (.dramRead line who .corrected dev) s = .next t ∧
        t = { s with regs := t.regs, dram := { s.dram with
          ceSince := tset s.dram.ceSince c (tget s.dram.ceSince c 0 + 1) } } ∧
        counted s t (channelCounter c 0) 1 ∧
        (regField s (errlogReg c) 62 2 < 2 → errorRecorded s t line 1 d) ∧
        (2 ≤ regField s (errlogReg c) 62 2 → regVal t (errlogReg c) = regVal s (errlogReg c)))) ∧
    (wqFind s line = none → linePoison s line = false →
      ∃ t, exec (.dramRead line .none .uncorrectable dev) s = .next t ∧ foundUncorrectable s t line 2 d ∧
        t = { s with regs := t.regs, vreq := t.vreq, free := t.free,
                     dram := { s.dram with poison := t.dram.poison } }) ∧
    (∀ (v : VertexRef) (x : Vx) (ecc : EccOutcome), wqFind s line = none → linePoison s line = true →
      vx? s v = some x → jobLive x.job = true →
      ∃ t, exec (.dramRead line (.vertex v) ecc dev) s = .next t ∧
        (job? t v.job).map (·.failed) = some (some (0x0C01, v.vid)) ∧ t.dram = s.dram))

/-- Patrol takes the lines of its channel in turn, every one once, and goes on where it left
off; it skips what the queue holds, and fails no job (R343). -/
def Sys2Proof.Claims.dramPatrol : Prop :=
  ∀ (ch : Fin 16) (dev : BitVec 5) (s : State),
    let c := ch.val
    let n := tget s.dram.patrol c 0 % channelLines s
    let line := channelLine c n
    let went := { s with dram := { s.dram with patrol := tset s.dram.patrol c ((n + 1) % channelLines s) } }
    (∀ i, chanOfLine (channelLine c i) = c) ∧
    (∀ l, chanOfLine l = c → 64 * l < 2 ^ log2Cap s → 11 ≤ log2Cap s → ∃ i, i < channelLines s ∧ channelLine c i = l) ∧
    (dramUp s line = true → (regVal s 0x10F00C).testBit 31 = true → paused s c = false →
      (wqFind s line ≠ none ∨ lineLost s line = true ∨ line ∈ s.dram.poison →
        ∀ ecc, exec (.dramPatrolRead ch ecc dev) s = .next went) ∧
      (wqFind s line = none → lineLost s line = false → line ∉ s.dram.poison →
        exec (.dramPatrolRead ch .ok dev) s = .next went ∧
        (∃ t, exec (.dramPatrolRead ch .corrected dev) s = .next t ∧
          t = { went with regs := t.regs } ∧ counted s t (channelCounter c 2) 1 ∧
          (regField s (errlogReg c) 62 2 < 2 → errorRecorded s t line 1 dev.toNat)) ∧
        (∃ t, exec (.dramPatrolRead ch .uncorrectable dev) s = .next t ∧
          foundUncorrectable s t line 3 dev.toNat ∧
          t = { went with regs := t.regs, vreq := t.vreq, free := t.free,
                          dram := { went.dram with poison := t.dram.poison } })))

/-- The line stands nowhere in the cache. -/
def Sys2Proof.Claims.lineAbsent (s : State) (line : Nat) : Prop :=
  shcFind s line = none ∧ s.shc.ebuf.all (fun e => e.line != line) = true

/-- A write enters its write queue or waits for an entry, and no other line changes; a copy in
the arrays of the cache is invalid afterwards, and one in the eviction buffer takes the write
in place. What is written to a part of a line is read first, with ECC. Issuing a queue changes
no line that a reader sees (R18, R19, R348, R349, R357). -/
def Sys2Proof.Claims.dramWrites : Prop :=
  (∀ (line : Nat) (mask : BitVec 64) (data : BitVec 512) (ecc : EccOutcome) (dev : BitVec 5) (s : State),
    dramUp s line = true →
    let c := chanOfLine line
    let w : HeldWrite := { line, mask, data, ecc, dev := dev.toNat }
    let whole := mask == BitVec.allOnes 64
    let q := tget s.dram.wqs (wqOfLine line) []
    let merges := q.any (fun e => e.line == line)
    let fits := merges = true ∨ q.length < 64
    (paused s c = true → pauseHolds s (.dramWrite line mask ⟨data, ecc, dev⟩) (.write w)) ∧
    (paused s c = false → (∀ e ∈ s.shc.misses, fillsLine line e.2 = false) →
      (lineAbsent s line → ecc = .ok ∨ whole = true → fits → ∃ t, exec (.dramWrite line mask ⟨data, ecc, dev⟩) s = .next t ∧
        t = { s with regs := t.regs, dram := { s.dram with wqs := t.dram.wqs } } ∧
        dramLine t line = (mergeLine (dramLine s line).1 mask data, (dramLine s line).2 && !whole) ∧
        (∀ l, l ≠ line → dramLine t l = dramLine s l) ∧
        (merges = false → q.length = 63 → counted s t (channelCounter c 5) 1)) ∧
      (lineAbsent s line → ecc = .uncorrectable → whole = false → merges = false → q.length < 64 →
        linePoison s line = false → ∃ t, exec (.dramWrite line mask ⟨data, ecc, dev⟩) s = .next t ∧
          foundUncorrectable s t line 2 dev.toNat ∧ (dramLine t line).2 = true) ∧
      (∀ key l, shcFind s line = some (key, l) → ecc = .ok → fits →
        ∃ t, exec (.dramWrite line mask ⟨data, ecc, dev⟩) s = .next t ∧
        t = { s with regs := t.regs, dram := { s.dram with wqs := t.dram.wqs },
                     shc := { s.shc with lines := tdel s.shc.lines key } } ∧
        dramLine t line = (if l.dirty then (mergeLine l.data mask data, l.poison && !whole)
          else (mergeLine (dramLine s line).1 mask data, (dramLine s line).2 && !whole)) ∧
        (∀ n, n ≠ line → dramLine t n = dramLine s n)) ∧
      (shcFind s line = none → s.shc.ebuf.any (fun e => e.line == line) = true →
        ∃ t, exec (.dramWrite line mask ⟨data, ecc, dev⟩) s = .next t ∧
        t = { s with shc := { s.shc with ebuf := t.shc.ebuf } } ∧
        cohLine t line = (mergeLine (cohLine s line).1 mask data, (cohLine s line).2 && !whole) ∧
        (∀ n, n ≠ line → cohLine t n = cohLine s n)) ∧
      (shcFind s line ≠ none ∨ lineAbsent s line → merges = false → 64 ≤ q.length →
        ∃ t, exec (.dramWrite line mask ⟨data, ecc, dev⟩) s = .next t ∧
        t = { s with dram := { s.dram with held := t.dram.held } } ∧
        tget t.dram.held (wqOfLine line) [] = tget s.dram.held (wqOfLine line) [] ++ [w]))) ∧
  (∀ (ch : Fin 16) (sub : Fin 2) (s : State),
    let q := 2 * ch.val + sub.val
    let es := tget s.dram.wqs q []
    let n := es.length
    0 < n → (gstatus s).testBit 4 = false → paused s ch.val = false → tget s.dram.held q [] = [] →
    s.dram.mem.wf = true → s.dram.lost = 0 → (es.map (·.line)).Nodup → (∀ e ∈ es, wqOfLine e.line = q) →
    ∃ t, exec (.dramWqIssue ch sub) s = .next t ∧
      t = { s with dram := { s.dram with mem := t.dram.mem, poison := t.dram.poison, wqs := t.dram.wqs } } ∧
      tget t.dram.wqs q [] = es.drop (if 48 ≤ n then n - 16 else 1) ∧
      (∀ p, p ≠ q → tget t.dram.wqs p [] = tget s.dram.wqs p []) ∧
      (∀ l, dramLine t l = dramLine s l))

/-- An activate is counted in its bank's table by the first way that applies; a count that
reaches THRESH refreshes the neighbours and starts again; the window's end clears the
channel's tables (R346, R347). -/
def Sys2Proof.Claims.dramRows : Prop :=
  (∀ (line : Nat) (s : State), dramUp s line = true → 0 < bankCount s →
    let first := rowLine s (chanOfLine line) (line % 2) (lineBank s line) (lineRow s line)
    first ≤ line ∧ chanOfLine first = chanOfLine line ∧ first % 2 = line % 2 ∧
      lineBank s first = lineBank s line ∧ lineRow s first = lineRow s line) ∧
  (∀ (ch : Fin 16) (sub : Fin 2) (bank row : Nat) (s : State),
    rowUp s ch.val sub.val bank row = true → paused s ch.val = false →
    let key := bankKey ch.val sub.val bank
    let tbl := tget s.dram.rows key []
    let go (after : List (Nat × Nat)) (n : Nat) : Prop :=
      ∃ t, exec (.rowActivate ch sub bank row) s = .next t ∧
        t = { s with regs := t.regs, dram := { s.dram with rows := t.dram.rows } } ∧
        tget t.dram.rows key [] = after ∧ (∀ k, k ≠ key → tget t.dram.rows k [] = tget s.dram.rows k []) ∧
        counted s t (channelCounter ch.val 3) n
    (∀ n, (row, n) ∈ tbl → (tbl.map (·.1)).Nodup → (∀ e ∈ tbl, e.2 + 1 < actThresh s) →
      go (tbl.map (fun e => if e.1 = row then (row, n + 1) else e)) 0) ∧
    (row ∉ tbl.map (·.1) → tbl.length < 16 → (∀ e ∈ tbl, e.2 < actThresh s) → 1 < actThresh s →
      go (tbl ++ [(row, 1)]) 0) ∧
    (∀ (pre post : List (Nat × Nat)) (r n : Nat), row ∉ tbl.map (·.1) → tbl.length = 16 →
      tbl = pre ++ (r, n) :: post → (∀ e ∈ pre, n < e.2) → (∀ e ∈ post, n ≤ e.2) →
      (∀ e ∈ tbl, e.2 + 1 < actThresh s) → go (pre ++ (row, n + 1) :: post) 0) ∧
    (tbl = [(row, actThresh s - 1)] → 2 ≤ actThresh s → actRadius s = 1 →
      go ((row, 0) :: ((if 1 ≤ row then [(row - 1, 1)] else []) ++
        (if row + 1 < bankRows s then [(row + 1, 1)] else []))) 1)) ∧
  (∀ (ch : Fin 16) (s : State), ∃ t, exec (.refreshWindowEnd ch) s = .next t ∧
    t = { s with dram := { s.dram with rows := t.dram.rows } } ∧
    ∀ sub bank, sub < 2 → bank < 2 ^ 16 → ∀ c, tget t.dram.rows (bankKey c sub bank) [] =
      if c = ch.val then [] else tget s.dram.rows (bankKey c sub bank) [])

/-- A re-tune is counted and pauses its channel, which holds its requests, the reply to
DDR_RETUNE among what waits for its end (R345); the zeroing after P3 ends with nothing lost,
every other line as it was, and every lost one 0 or what has been written to it since (R350). -/
def Sys2Proof.Claims.dramUpkeep : Prop :=
  (∀ (ch : Fin 16) (dTemp dCe : Nat) (s : State),
    let c := ch.val
    ((gstatus s).testBit 2 = true → (gstatus s).testBit 4 = false → s.dram.pause = none →
      (8 ≤ dTemp ∨ (1024 ≤ dCe ∧ dCe ≤ tget s.dram.ceSince c 0)) →
      ∃ t, exec (.ddrRetuneAuto ch dTemp dCe) s = .next t ∧ counted s t (channelCounter c 6) 1 ∧
        t = { s with regs := t.regs, free := s.free + 1, dram := { s.dram with
          retuned := tset s.dram.retuned c (Config.freeNat s.free), pause := some c,
          ceSince := tdel s.dram.ceSince c } }) ∧
    (paused s c = true → s.dram.pauseReqs = [] →
      let back := { s with dram := { s.dram with pause := none, pauseReply := none } }
      (s.dram.pauseReply = none → exec (.ddrRetuneAuto ch dTemp dCe) s = .next back) ∧
      (∀ mb, s.dram.pauseReply = some mb → exec (.ddrRetuneAuto ch dTemp dCe) s = .next (dmpReply back mb 0 [])))) ∧
  (∀ (mb : Mb) (m : Msg) (s : State), served s (dmpMsg mb 0x0600 m) →
    let c := le m.body 0 1
    (16 ≤ c ∨ zeroes m.body 1 7 = false → ∃ t, exec (.ddrRetune mb m) s = .next t ∧
      replied s t (dmpMsg mb 0x0600 m) 0x0F03 [] id) ∧
    (c < 16 → zeroes m.body 1 7 = true → (gstatus s).testBit 2 = true → s.dram.pause = none →
      ∃ t u, exec (.ddrRetune mb m) s = .next t ∧ atHerder s u (dmpMsg mb 0x0600 m) ∧
        counted u t (channelCounter c 6) 1 ∧ mbBusy t (mbNum mb) = true ∧
        t = { u with regs := t.regs, free := t.free, dram := { u.dram with
          retuned := t.dram.retuned, pause := some c, pauseReply := some (mbNum mb),
          ceSince := tdel u.dram.ceSince c } })) ∧
  (∀ s : State, (gstatus s).testBit 5 = true → s.dram.mem.wf = true →
    ∃ t, exec .dramZeroingDone s = .next t ∧ t.dram.lost = 0 ∧ (gstatus t).testBit 5 = false ∧
      (∀ o, o ≠ 0x10F004 → regVal t o = regVal s o) ∧
      (∀ i, i ≠ 5 → (gstatus t).testBit i = (gstatus s).testBit i) ∧
      t = { s with regs := t.regs, free := t.free, dram := { s.dram with
        mem := t.dram.mem, poison := t.dram.poison, lost := 0 } } ∧
      ∀ l, (lineLost s l = false → dramLine t l = dramLine s l) ∧
        (lineLost s l = true → wqFind s l = none → dramLine t l = (0, false) ∨
          dramLine t l = (BitVec.ofNat 512 (leNat (s.dram.mem.read (64 * l) 64)), false)))

def Obligations.DramUpkeep : Prop := dramRows ∧ dramUpkeep

/-- A slice serves its ports in rising order past its pointer; one that has lost AGE rounds in
a row comes first, and a port that reaches AGE counts in SHC_URGENT (R358). -/
def Sys2Proof.Claims.sliceRounds : Prop :=
  ∀ (s t : State) (slice w : Nat) (ask : BitVec 64), sliceRound s slice (portsOf ask) = some (w, t) →
    let a := tget s.shc.arbs slice {}
    let b := tget t.shc.arbs slice {}
    let aged := fun p => shcAge s ≤ tget a.lost p 0
    let first := fun (c : Nat → Prop) => c w ∧
      (∀ p, c p → a.last < p → a.last < w ∧ w ≤ p) ∧ ((∀ p, c p → p ≤ a.last) → ∀ p, c p → w ≤ p)
    ((∃ p ∈ portsOf ask, aged p) → first (fun p => p ∈ portsOf ask ∧ aged p)) ∧
    ((∀ p ∈ portsOf ask, ¬aged p) → first (fun p => p ∈ portsOf ask)) ∧
    b.last = w ∧ tget b.lost w 0 = 0 ∧
    (∀ p ∈ portsOf ask, p ≠ w → tget b.lost p 0 = tget a.lost p 0 + 1) ∧
    counted s t 0xD0020 ((portsOf ask).countP (fun p => p != w && tget a.lost p 0 + 1 == shcAge s)) ∧
    t = { s with regs := t.regs, shc := { s.shc with arbs := tset s.shc.arbs slice b } }

/-- The port's request wins the slice of the line against its rivals. -/
def Sys2Proof.Claims.winsSlice (s : State) (p line : Nat) (rivals : BitVec 64) : Prop :=
  (sliceRound s (shcSlice line) (portsOf (rivals ||| BitVec.ofNat 64 (2 ^ p)))).map (·.1) = some p

/-- A request of a port that the cache takes: it wins its slice, and the port has no miss. -/
def Sys2Proof.Claims.portTakes (s : State) (p line : Nat) (rivals : BitVec 64) : Prop :=
  dramThere s line = true ∧ shcBlocked s p line = false ∧ tfind? s.shc.misses p = none ∧
  winsSlice s p line rivals

/-- A lookup that hits is served where it stands and changes no other line, but for a mover's
write, which goes to DRAM; a line of the eviction buffer is served from there; a bypassing
miss goes to DRAM; a write of a whole line allocates without a read; a port that drains, a
cache that writes back or sleeps, and a miss of the same line hold a request; a tag error is
fatal (R19, R23, R351 to R357, R359, R360). -/
def Sys2Proof.Claims.shcLookups : Prop :=
  ∀ (port : Fin 64) (k : Fin 256) (line : Nat) (op : ShcOp) (who : Requester) (rivals : BitVec 64)
    (victim : EccOutcome) (s : State),
    let p := port.val
    let done := fun t => exec (.shcLookup port k line ⟨op, who, rivals⟩ ⟨.ok, victim⟩) s = .next t
    let after := fun (l : BitVec 512) => match op with
      | .read => l
      | .write mask data => mergeLine l mask data
    let free := fun w => w < 16 ∧ (shcMask s p k.val).testBit w = true ∧ wayLine s (shcSet line) w = none
    (∀ key l, portTakes s p line rivals → shcFind s line = some (key, l) → l.poison = false →
      (portMover p = false ∨ op = .read → ∃ t, done t ∧
        t = { s with regs := t.regs, shc := { s.shc with lines := t.shc.lines, arbs := t.shc.arbs } } ∧
        counted s t (0xD3000 + 8 * p) 1 ∧ cohLine t line = (after l.data, false) ∧
        (∀ n, n ≠ line → cohLine t n = cohLine s n)) ∧
      (∀ mask data, portMover p = true → op = .write mask data → ∃ t u, done t ∧
        u = { s with regs := u.regs, shc := { s.shc with arbs := u.shc.arbs } } ∧
        counted s u (0xD3000 + 8 * p) 1 ∧ t = dramPut u { line, mask, data })) ∧
    (∀ key l v x, portTakes s p line rivals → shcFind s line = some (key, l) → l.poison = true → op = .read →
      portSystem p = false → who = .vertex v → vx? s v = some x → jobLive x.job = true →
      ∃ t, done t ∧ (job? t v.job).map (·.failed) = some (some (0x0C01, v.vid))) ∧
    (∀ e w, portTakes s p line rivals → shcFind s line = none →
      s.shc.ebuf.find? (fun e => e.line == line) = some e → e.poison = false →
      shcMask s p k.val = 0 ∨ (s.shc.misses = [] ∧ free w) → ∃ t, done t ∧
        t = { s with regs := t.regs, shc := { s.shc with
          lines := t.shc.lines, ebuf := t.shc.ebuf, arbs := t.shc.arbs } } ∧
        counted s t 0xD0014 1 ∧ cohLine t line = (after e.data, false) ∧
        (shcMask s p k.val = 0 ↔ t.shc.ebuf.any (fun x => x.line == line) = true)) ∧
    (portTakes s p line rivals → lineAbsent s line → shcMask s p k.val = 0 → op = .read →
      ∃ t, done t ∧ sameKennels s t ∧
        t = { s with
          regs := t.regs, kennels := t.kennels,
          shc := { s.shc with
            arbs := t.shc.arbs,
            misses := tset s.shc.misses p { kennel := k.val, line, op, way := none, who } } } ∧
        counted s t (0xD3004 + 8 * p) 1 ∧ counted s t 0xD0018 1 ∧
        (∀ v x, who = .vertex v → vx? s v = some x →
          (x.vert.kind = kSort → counted s t (0x70020 + 0x1000 * x.vert.inst) 1) ∧
          (x.vert.kind = kAgg → counted s t (0x8001C + 0x1000 * x.vert.inst) 1))) ∧
    (∀ mask data, portTakes s p line rivals → lineAbsent s line → shcMask s p k.val = 0 → op = .write mask data →
      ∃ t, done t ∧ t.dram = (dramPut s { line, mask, data }).dram ∧
        t.shc = { (dramPut s { line, mask, data }).shc with arbs := t.shc.arbs } ∧
        counted s t (0xD3004 + 8 * p) 1 ∧ counted s t 0xD0018 1) ∧
    (∀ data w, portTakes s p line rivals → lineAbsent s line → op = .write (BitVec.allOnes 64) data →
      s.shc.misses = [] → free w →
      ∃ t, done t ∧ sameKennels s t ∧
        t = { s with
          regs := t.regs, kennels := t.kennels,
          shc := { s.shc with lines := t.shc.lines, arbs := t.shc.arbs } } ∧
        counted s t (0xD3004 + 8 * p) 1 ∧
        cohLine t line = (mergeLine 0 (BitVec.allOnes 64) data, false) ∧
        (∀ n, n ≠ line → cohLine t n = cohLine s n)) ∧
    (dramThere s line = true → shcBlocked s p line = true →
      done { s with shc := { s.shc with
        waiting := tset s.shc.waiting p (tget s.shc.waiting p [] ++ [{ kennel := k.val, line, op, who }]) } }) ∧
    (dramThere s line = true → shcBlocked s p line = false → ¬winsSlice s p line rivals → done s) ∧
    (dramThere s line = true → shcBlocked s p line = false → winsSlice s p line rivals → fatal s = false →
      ∃ t, exec (.shcLookup port k line ⟨op, who, rivals⟩ ⟨.tag, victim⟩) s = .next t ∧ fatal t = true ∧
        t.pins.fatalLow = true ∧ t.shc = { s.shc with arbs := t.shc.arbs } ∧ t.dram = s.dram)

/-- A fill installs its line with the request done, or answers a bypassing read; an eviction
moves the oldest line to its write queue and no reader sees it; ports drain, and a drain does
not end while the Herder waits to write a kennel mask (R352, R355, R357). -/
def Sys2Proof.Claims.shcMoves : Prop :=
  (∀ (port : Fin 64) (m : ShcMiss) (s : State),
    let p := port.val
    tfind? s.shc.misses p = some m → m.joined = false → m.came = none → dramUp s m.line = true →
    paused s (chanOfLine m.line) = false → s.shc.kmasks = [] →
    shcFlushing s = false → s.shc.waiting = [] → (dramLine s m.line).2 = false →
    (∀ e ∈ s.shc.misses, e.1 ≠ p → e.2.line ≠ m.line) → (s.shc.misses.map (·.1)).Nodup →
    (m.way = none → ∃ t, exec (.shcFill port) s = .next t ∧
      t = { s with regs := t.regs, shc := { s.shc with misses := t.shc.misses } } ∧
      (∀ q, tfind? t.shc.misses q = if q = p then none else tfind? s.shc.misses q) ∧
      (portDrains s p = true → (portCfg t p).testBit 63 = true)) ∧
    (∀ key, m.way = some key → ∃ t, exec (.shcFill port) s = .next t ∧
      t = { s with regs := t.regs, shc := { s.shc with misses := t.shc.misses, lines := t.shc.lines } } ∧
      (∀ q, tfind? t.shc.misses q = if q = p then none else tfind? s.shc.misses q) ∧
      (∀ n, n ≠ key → tfind? t.shc.lines n = tfind? s.shc.lines n) ∧
      (m.op = .read → tfind? t.shc.lines key = some {
        line := m.line, dirty := false, poison := false, age := fillAge s p, data := (dramLine s m.line).1 }) ∧
      (∀ mask data, m.op = .write mask data → tfind? t.shc.lines key = some {
        line := m.line, dirty := true, poison := false, age := fillAge s p,
        data := mergeLine (dramLine s m.line).1 mask data }))) ∧
  (∀ (e : EbufLine) (r : List EbufLine) (s : State), s.shc.ebuf = e :: r → s.shc.waiting = [] →
    (∀ x ∈ r, x.line ≠ e.line) → paused s (chanOfLine e.line) = false →
    ((tget s.dram.wqs (wqOfLine e.line) []).any (fun x => x.line == e.line) = true ∨
      (tget s.dram.wqs (wqOfLine e.line) []).length < 64) →
    ∃ t, exec .shcEvictWrite s = .next t ∧
      t = { s with regs := t.regs, shc := { s.shc with ebuf := r }, dram := { s.dram with wqs := t.dram.wqs } } ∧
      dramLine t e.line = (e.data, e.poison) ∧ ∀ l, cohLine t l = cohLine s l) ∧
  (∀ (port : Fin 64) (s : State),
    let p := port.val
    (portDrains s p = false → s.shc.kmasks = [] → ∃ t, exec (.shcPortDrain port) s = .next t ∧
      t = { s with regs := t.regs } ∧ portDrains t p = true ∧
      (tfind? s.shc.misses p = none → (portCfg t p).testBit 63 = true) ∧
      (∀ o, o ≠ 0xD1000 + 8 * p → regVal t o = regVal s o)) ∧
    (portDrains s p = true → (portCfg s p).testBit 63 = true → s.shc.waiting = [] → s.shc.kmasks = [] →
      ∃ t, exec (.shcPortDrain port) s = .next t ∧ t = { s with regs := t.regs } ∧
        portDrains t p = false ∧ (portCfg t p).testBit 63 = false) ∧
    (∀ e ∈ s.shc.kmasks, portDrains s p = true → p ∈ maskPorts s e.1 e.2.1 →
      exec (.shcPortDrain port) s = .next s))

/-- EN = 0 starts a write-back that ends with every dirty line in DRAM and no line in the
cache, a line that ECC cannot correct poisoned; EN = 1 enables it again, at once or when the write-back has ended (R359, R360). -/
def Sys2Proof.Claims.shcSwitching : Prop :=
  (∀ (val : BitVec 32) (s : State), barOpen s = true →
    (val.getLsbD 0 = false → ∃ t, exec (.shcDisable val) s = .next t ∧
      t = { s with regs := t.regs, shc := { s.shc with enableLater := false } } ∧
      (regVal t 0xD0000).testBit 0 = false ∧ shcFlushing t = true ∧
      (∀ o, o ≠ 0xD0000 → o ≠ 0xD0004 → regVal t o = regVal s o)) ∧
    (val.getLsbD 0 = true → shcFlushing s = false → ∃ t, exec (.shcEnable val) s = .next t ∧
      t = { s with regs := t.regs } ∧ (regVal t 0xD0000).testBit 0 = true ∧
      (∀ o, o ≠ 0xD0000 → regVal t o = regVal s o)) ∧
    (val.getLsbD 0 = true → shcFlushing s = true → exec (.shcEnable val) s = .next { s with
      shc := { s.shc with enableLater := true } })) ∧
  (∀ s : State, shcFlushing s = true → s.shc.misses = [] → s.shc.waiting = [] →
    (∀ ces ues, s.dram.mem.wf = true → s.dram.lost = 0 → (s.shc.lines.map (·.2.line)).Nodup →
      ∃ t, exec (.shcFlushDone ⟨false, ces, ues⟩) s = .next t ∧ t.shc.lines = [] ∧ t.shc.ebuf = [] ∧
        shcFlushing t = false ∧ (regVal t 0xD0004).testBit 1 = true ∧
        (s.shc.enableLater = true → (regVal t 0xD0000).testBit 0 = true) ∧
        (∀ e ∈ s.shc.lines, e.2.dirty = true →
          cohLine t e.2.line = (e.2.data, e.2.poison || ues.contains e.2.line)) ∧
        (0 < ces → counted s t 0xD0024 ces ∧ evtPending t 2 = true) ∧
        (∀ n, lineAbsent s n → (∀ e ∈ s.shc.lines, e.2.line ≠ n) → cohLine t n = cohLine s n)) ∧
    (∀ ces ues, fatal s = false → ∃ t, exec (.shcFlushDone ⟨true, ces, ues⟩) s = .next t ∧ fatal t = true ∧
      t.pins.fatalLow = true ∧ t.shc = s.shc ∧ t.dram = s.dram))


def Obligations.DramAccesses : Prop := dramReads ∧ dramPatrol ∧ dramWrites

def Obligations.SharedCache : Prop := sliceRounds ∧ shcLookups ∧ shcMoves ∧ shcSwitching


/-! ### Errors, resets, firmware and power -/

/-- The severity of the newest record of the error log (R444). -/
def Sys2Proof.Claims.lastSeverity (t : State) : Option Nat := t.herder.log.getLast?.map (fun r => le r 13 1)

/-- The newest record of the error log has the severity; past 1,000 records in a second the
record is counted in HRD_LOG_DROP instead (R444). -/
def Sys2Proof.Claims.errorLogged (s t : State) (severity : Nat) : Prop :=
  lastSeverity t = some severity ∨
    (1000 ≤ s.herder.log.length ∧ t.herder.log = s.herder.log ∧ counted s t 0x110018 1)

/-- Every command that has not retired has ended (R30, R432). -/
def Sys2Proof.Claims.commandsEnded (s t : State) : Prop :=
  t.jobs.length = s.jobs.length ∧ (∀ e ∈ t.jobs, e.2.abandoned = true) ∧
  t.store = { s.store with cmds := [] } ∧ t.dge = { s.dge with cmds := [] } ∧ t.kennels = s.kennels

/-- A device error has placed the device in the device-error condition (R432, R505). -/
def Sys2Proof.Claims.deviceFailed (s t : State) (cause : Nat) : Prop :=
  devErr t = true ∧ regField t 0x130040 48 8 = cause ∧ t.power.fetchStopped = true ∧
  commandsEnded s t ∧ (∀ e ∈ t.timing.events, e.dead = true ∧ e.result = none) ∧
  evtPending t 0 = true ∧ errorLogged s t 2 ∧ fatal t = false

/-- A fatal error has stopped the device (R432, R506). -/
def Sys2Proof.Claims.deviceFatal (s t : State) (cause : Nat) : Prop :=
  fatal t = true ∧ t.pins.fatalLow = true ∧ (devErr s = false → regField t 0x130040 48 8 = cause) ∧
  errorLogged s t 3 ∧ hostUp t = false ∧ barOpen t = false ∧ commandsEnded s t ∧
  t = { s with regs := t.regs, free := t.free, jobs := t.jobs, store := t.store, dge := t.dge
               herder := { s.herder with log := t.herder.log, logBase := t.herder.logBase }
               pins := { s.pins with fatalLow := true, thermtripLow := t.pins.thermtripLow } }

/-- The errors of the device: a rail out of range and a Grid link are device errors, the
watchdog and a thermal trip are fatal, and a core that locks up is noted (R504 to R506, R534,
R546). -/
def Sys2Proof.Claims.errorCommands : Prop :=
  ∀ s : State, fatal s = false →
    (∀ die, devErr s = false → ∃ t, exec (.gridLinkRetryFail die) s = .next t ∧ deviceFailed s t 4) ∧
    (∀ rail, devErr s = false → pState s ≠ 4 → ready s = true →
      ∃ t, exec (.railOutOfRange rail) s = .next t ∧ deviceFailed s t 8) ∧
    (∀ rail, pState s ≠ 4 → ready s = false →
      exec (.railOutOfRange rail) s = .next { s with pins := { s.pins with railsOk := false } }) ∧
    (∃ t, exec .herderWatchdogExpire s = .next t ∧ deviceFatal s t 6 ∧
      t.pins.thermtripLow = s.pins.thermtripLow) ∧
    (∀ temp16 : Int, 16 * (tjMax + 10) ≤ temp16 → ∃ t, exec (.thermalTrip temp16) s = .next t ∧
      deviceFatal s t 7 ∧ t.pins.thermtripLow = true ∧
      ∀ p, p < 8 → (regVal t (0x130010 + 4 * p)).testBit 12 = false) ∧
    (∀ core : Fin 4, ∃ t, exec (.herderCoreLockup core) s = .next t ∧ core.val ∈ t.herder.lockups ∧
      t = { s with herder := { s.herder with lockups := t.herder.lockups } })

/-- What MRAM keeps is kept (R500). -/
def Sys2Proof.Claims.mramKept (s t : State) : Prop :=
  t.herder.slotA = s.herder.slotA ∧ t.herder.slotB = s.herder.slotB ∧
  t.herder.verified = s.herder.verified ∧ t.herder.bootSlot = s.herder.bootSlot ∧
  t.herder.minSvn = s.herder.minSvn ∧ t.herder.serials = s.herder.serials ∧
  t.herder.delayTable = s.herder.delayTable ∧ t.herder.log = s.herder.log ∧
  t.herder.coldBoots = s.herder.coldBoots ∧ t.herder.mlog = []

/-- Kennels, jobs, queues, plans, Hounds and what they held are gone, nothing is ready. -/
def Sys2Proof.Claims.allCleared (t : State) : Prop :=
  t.kennels = [] ∧ t.jobs = [] ∧ t.hounds = [] ∧ t.scent = [] ∧ t.dge = {} ∧ t.shc = {} ∧ t.pba = [] ∧
  t.vreq = [] ∧ t.leash = {} ∧ ready t = false ∧ devErr t = false

/-- A cold reset keeps MRAM alone, and samples CHAIN_HEAD (R499, R500). -/
def Sys2Proof.Claims.coldStart (s t : State) (strap : Bool) : Prop :=
  mramKept s t ∧ allCleared t ∧ t.dram = {} ∧ t.store = {} ∧ t.timing = {} ∧ fatal t = false ∧
  t.pins.fatalLow = false ∧ t.herder.warm = false ∧
  (∀ o, o ≠ 0x120000 → regVal t o = regReset o) ∧ (regVal t 0x120000).testBit 0 = strap

/-- The resets and the supply: a warm reset keeps DRAM, the timing unit and the registers that
R501 names; a cold reset, PERST# and a power-down keep MRAM alone; PERST# in P4 keeps the
always-on domain (R496 to R501, R534, R535). -/
def Sys2Proof.Claims.resetCommands : Prop :=
  (∀ (mb : Mb) (m : Msg) (s : State), served s (dmpMsg mb 0x0702 m) → zeroes m.body 1 7 = true →
    (le m.body 0 1 = 1 → ∃ t, exec (.coldReset mb m) s = .next t ∧ coldStart s t s.pins.chainHead ∧
      t.pending = s.pending) ∧
    (le m.body 0 1 = 0 → ∃ t, exec (.warmReset mb m true) s = .next t ∧ coldStart s t s.pins.chainHead) ∧
    (le m.body 0 1 = 0 → s.shc.misses = [] → s.dram.wqs = [] → s.dram.held = [] → s.dram.mem.wf = true →
      s.dram.lost = 0 → (s.shc.lines.map (·.2.line)).Nodup →
      ∃ t, exec (.warmReset mb m false) s = .next t ∧ mramKept s t ∧ allCleared t ∧ t.pending = s.pending ∧
        t.herder.warm = true ∧ pState t = 0 ∧
        (∀ o, o ≠ 0x130004 → o ≠ 0x130040 → o ≠ 0x120000 → o ≠ 0x110010 → o ≠ mbReg (mbNum mb) →
          regVal t o = if alwaysOnReg o || warmReg o then regVal s o else regReset o) ∧
        t.timing = { s.timing with events := [], issued := [], txq := [], vseq := [] } ∧
        t.pins = s.pins ∧ t.store.cmds = [] ∧ t.store.creating = [] ∧
        (∀ n x, (n, x) ∈ s.store.spaces → x.owner = none ∨ x.owner = some 0 → (n, x) ∈ t.store.spaces) ∧
        (∀ n x k, (n, x) ∈ s.store.spaces → x.owner = some k → k ≠ 0 →
          (n, { x with owner := none }) ∈ t.store.spaces) ∧
        (∀ e ∈ s.shc.lines, e.2.dirty = true → dramLine t e.2.line = (e.2.data, e.2.poison)) ∧
        (∀ n, lineAbsent s n → (∀ e ∈ s.shc.lines, e.2.line ≠ n) → dramLine t n = dramLine s n))) ∧
  (∀ (strap : Bool) (s : State), s.pins.thermtripLow = false →
    (pState s ≠ 4 ∨ fatal s = true → ∃ t, exec (.perst strap) s = .next t ∧ coldStart s t strap ∧
      t.pins.perst = !s.pins.railsOk ∧ t.pins.chainHead = strap ∧ t.pending = s.pending) ∧
    (pState s = 4 → fatal s = false → ∃ t, exec (.perst strap) s = .next t ∧ mramKept s t ∧ allCleared t ∧
      t.dram = {} ∧ t.store = {} ∧ t.herder.warm = true ∧ pState t = 0 ∧ t.pins.perst = !s.pins.railsOk ∧
      t.timing = { s.timing with events := [], issued := [], txq := [], vseq := [] } ∧
      (∀ o, o ≠ 0x130004 → o ≠ 0x130040 → o ≠ 0x120000 →
        regVal t o = if alwaysOnReg o then regVal s o else regReset o))) ∧
  (∀ (strap : Bool) (s : State), s.pins.thermtripLow = false → s.pins.railsOk = false →
    ∃ t, exec (.powerOn strap) s = .next t ∧ t.pins.railsOk = true ∧ t.pins.perst = false ∧
      t = { s with regs := t.regs, pins := t.pins } ∧ (∀ o, o ≠ 0x120000 → regVal t o = regVal s o) ∧
      (s.herder.warm = false → t.pins.chainHead = strap ∧ (regVal t 0x120000).testBit 0 = strap)) ∧
  (∀ (aon : Bool) (s : State),
    ∃ t, exec (.powerDown aon) s = .next t ∧ t.pins.railsOk = false ∧ t.pins.perst = true ∧
      t.pins.linkUp = false ∧ t.pins.thermtripLow = (s.pins.thermtripLow && !aon) ∧ mramKept s t ∧
      allCleared t ∧ t.dram = {} ∧
      (aon = true ∨ (pState s ≠ 4 ∧ (s.pins.railsOk = true ∨ s.herder.warm = false)) ∨ fatal s = true →
        coldStart s t s.pins.chainHead) ∧
      (aon = false → pState s = 4 → fatal s = false → t.herder.warm = true ∧
        (∀ o, 0x30000 ≤ o → o < 0x31000 → regVal t o = regVal s o)))

def Obligations.DeviceErrors : Prop := errorCommands

def Obligations.Resets : Prop := resetCommands

/-- The report of the environment that a boot goes by: what the DIMMs' SPD gave before stays. -/
def Sys2Proof.Claims.bootReport (s : State) (env : BootEnv) : Bytes :=
  let b := slice env.report 0 1600
  if s.herder.env.isEmpty then b else keepSpd s.herder.env b

/-- The data rate is the highest of those supported at its DIMMs per channel that the SPD of
every DIMM rates; the DIMMs are alike, and supported (R338, R339). -/
def Sys2Proof.Claims.bootRates : Prop :=
  ∀ (b : Bytes) (rate : Nat), dramRate b = some rate →
    let rates := if channelDimms b 0 = 2 then [6400, 5600, 4800] else [8800, 8000, 7200, 6400, 5600, 4800]
    sameDimms b = true ∧ (∀ i ∈ dimms b, dimmSupported b i = true) ∧ rate ∈ rates ∧
    (∀ i ∈ dimms b, rate ≤ le b (192 + 32 * i + 6) 2) ∧
    ∀ r ∈ rates, rate < r → ∃ i ∈ dimms b, le b (192 + 32 * i + 6) 2 < r

/-- An image runs; DRAM is trained for the DIMMs of the report, or their mismatch is shown
(R339, R340, R447, R461). -/
def Sys2Proof.Claims.booted (s t : State) (slot err boots : Nat) (header runtime b : Bytes) : Prop :=
  ready t = true ∧ regField t 0x110000 8 4 = 4 ∧ regField t 0x110000 16 8 = err ∧
  (regVal t 0x110000).testBit 2 = decide (slot = 2) ∧ t.herder.slot = slot ∧ t.herder.header = header ∧
  t.herder.runtime = runtime ∧
  t.herder.minSvn = (if slot = 2 then s.herder.minSvn else max s.herder.minSvn (fwSvn header)) ∧
  t.herder.coldBoots = boots ∧ t.herder.warm = false ∧ t.herder.cold = false ∧
  ((kennel? t 0).map (·.pasid)) = some 0 ∧ hclk t = 2000 ∧
  (gstatus t).testBit 2 = (dramRate b).isSome ∧ (gstatus t).testBit 3 = (dramRate b).isNone ∧
  (∀ rate, dramRate b = some rate → regVal t 0x10F000 = dramConfig b rate)

/-- The firmware of an image waits for the device to warm up (R545). -/
def Sys2Proof.Claims.bootCold (t : State) (slot err boots : Nat) (header runtime : Bytes) : Prop :=
  ready t = false ∧ regField t 0x110000 8 4 = 1 ∧ regField t 0x110000 16 8 = err ∧ t.herder.slot = slot ∧
  t.herder.header = header ∧ t.herder.runtime = runtime ∧ t.herder.coldBoots = boots ∧
  t.herder.warm = false ∧ t.herder.cold = true

/-- No image passed: the ROM waits for a reset (R447). -/
def Sys2Proof.Claims.bootHalted (t : State) (err : Nat) : Prop :=
  ready t = false ∧ halted t = true ∧ t.pins.fatalLow = true ∧ regField t 0x110000 16 8 = err

/-- A boot starts the boot slot where it passes R446, else the recovery image where that
passes, and else halts (R447). In a cold boot, the firmware that starts holds STAGE at 1 until
every sensor reads at least the minimum of the grade (R545). Held requests are none here. -/
def Sys2Proof.Claims.bootCommand : Prop :=
  ∀ (env : BootEnv) (s : State), bootable s = true → s.herder.held = [] →
    let n := s.herder.bootSlot
    let b := bootReport s env
    let chilled := s.herder.warm = false ∧ coldest b < 16 * tjMin
    let boots := if s.herder.warm then s.herder.coldBoots else s.herder.coldBoots + 1
    let starts := fun (t : State) (slot err : Nat) (img : Bytes) =>
      (chilled → bootCold t slot err boots (img.take 256) env.runtime ∧ t.dram = s.dram) ∧
      (¬chilled → booted s t slot err boots (img.take 256) env.runtime b)
    (s.herder.cold = false → ∃ t, exec (.boot env) s = .next t ∧ t.pins.linkUp = true ∧ t.pending = s.pending ∧
      match fwFault s 0 (slotStore s n) with
      | none => starts t n 0 (slotStore s n)
      | some e =>
        if env.recovery.isEmpty then bootHalted t 7
        else if (fwFault s 1 env.recovery).isSome then bootHalted t e
        else starts t 2 e env.recovery) ∧
    (s.herder.cold = true → ∃ t, exec (.boot env) s = .next t ∧ t.pending = s.pending ∧
      let err := regField s 0x110000 16 8
      (chilled → t = { s with regs := t.regs } ∧ regField t 0x110000 8 4 = 1) ∧
      (¬chilled → (regVal s 0x110000).testBit 2 = decide (s.herder.slot = 2) →
        booted s t s.herder.slot err s.herder.coldBoots s.herder.header s.herder.runtime b))

/-- No doorbell has been recorded. -/
def Sys2Proof.Claims.noDoors (s : State) : Prop := ∀ e ∈ s.kennels, ∀ q ∈ e.2.wqs, q.2.recorded = false

/-- The firmware messages write, verify and name slots; activation stops fetching, and ends
with new firmware and status 0, with E_ACT_BUSY, or with the previous slot and
E_FW_ACTIVATE_FAIL (R455, R456). -/
def Sys2Proof.Claims.firmwareCommands : Prop :=
  (∀ (mb : Mb) (m : Msg) (s : State),
    let b := m.body
    let n := le b 0 1
    n < 2 →
    (∀ host : HostRead, let r := { dmpMsg mb 0x0900 m with host }
      served s r → zeroes b 1 3 = true → zeroes b 20 4 = true → le b 16 4 ≤ 1048576 →
      le b 4 4 + le b 16 4 ≤ 25165824 →
      (n = s.herder.slot → ∃ t, exec (.fwWrite mb m host) s = .next t ∧ replied s t r 0x0F10 [] id) ∧
      (n ≠ s.herder.slot → host = none → ∃ t, exec (.fwWrite mb m host) s = .next t ∧
        replied s t r 0x0F06 [] (fun u => kennelError u 0)) ∧
      (∀ data, n ≠ s.herder.slot → host = some data → le b 16 4 ≤ data.length →
        ∃ t, exec (.fwWrite mb m host) s = .next t ∧ replied s t r 0 [] (fun u => { u with
          herder := { u.herder with
            slotA := if n = 0 then u.herder.slotA.write (le b 4 4) (data.take (le b 16 4)) else u.herder.slotA
            slotB := if n = 1 then u.herder.slotB.write (le b 4 4) (data.take (le b 16 4)) else u.herder.slotB
            verified := u.herder.verified &&& ~~~(BitVec.ofNat 2 (2 ^ n)) } }))) ∧
    (served s (dmpMsg mb 0x0901 m) → zeroes b 1 7 = true →
      ∃ t, exec (.fwVerify mb m) s = .next t ∧
        match fwFault s 0 (slotStore s n) with
        | some e => replied s t (dmpMsg mb 0x0901 m) (if e = 5 then 0x0F12 else 0x0F11) [] id
        | none => replied s t (dmpMsg mb 0x0901 m) 0 (versionBody (stepping s) (slotHeader s n) n) (fun u => setVerified u n true)) ∧
    (served s (dmpMsg mb 0x0903 m) → zeroes b 1 7 = true →
      (s.herder.verified.getLsbD n = true → n ≠ s.herder.slot → ∃ t, exec (.fwSetBoot mb m) s = .next t ∧
        replied s t (dmpMsg mb 0x0903 m) 0 [] (fun u => { u with herder := { u.herder with bootSlot := n } })) ∧
      (s.herder.verified.getLsbD n = false ∨ n = s.herder.slot → ∃ t, exec (.fwSetBoot mb m) s = .next t ∧
        replied s t (dmpMsg mb 0x0903 m) 0x0F10 [] id)) ∧
    (served s (dmpMsg mb 0x0902 m) → le b 1 1 < 2 → zeroes b 2 2 = true →
      (s.herder.verified.getLsbD n = true → n ≠ s.herder.slot →
        ∃ t u, exec (.fwActivate mb m) s = .next t ∧ atHerder s u (dmpMsg mb 0x0902 m) ∧
          let v := { u with
            power := { u.power with fetchStopped := true }
            herder := { u.herder with act := some {
              slot := n, force := le b 1 1 == 1, previous := s.herder.slot, header := s.herder.header,
              runtime := s.herder.runtime, boot := s.herder.bootSlot } } }
          mbBusy v (mbNum mb) = true ∧
          t = if le b 1 1 = 1 then u.kennels.foldl (fun x e => resetKennelWqs x e.1) v else v) ∧
      (s.herder.verified.getLsbD n = false ∨ n = s.herder.slot → ∃ t, exec (.fwActivate mb m) s = .next t ∧
        replied s t (dmpMsg mb 0x0902 m) 0x0F10 [] id))) ∧
  (∀ (a : Activation) (s : State), s.herder.act = some a → fatal s = false →
    (∀ runtime : Bytes, a.restarted = false → drained s = true →
      ∃ t, exec (.fwActivateDrainDone runtime) s = .next t ∧ ready t = false ∧
        t.herder.act = some { a with restarted := true } ∧
        t = { s with regs := t.regs, herder := t.herder } ∧
        match fwFault s 0 (slotStore s a.slot) with
        | some e => regField t 0x110000 16 8 = e ∧ t.herder.bootSlot = s.herder.bootSlot
        | none => t.herder.bootSlot = a.slot ∧ t.herder.slot = a.slot ∧ t.herder.runtime = runtime ∧
            t.herder.header = (slotStore s a.slot).take 256 ∧ regField t 0x110000 8 4 = 1) ∧
    (a.restarted = false → a.force = false → drained s = false → s.herder.held = [] → noDoors s →
      exec .fwActivateTimeout s = .next (dmpReply { s with
        herder := { s.herder with act := none }
        power := { s.power with fetchStopped := devErr s || decide (2 ≤ pState s) } } 256 0x0F13 [])) ∧
    (a.restarted = true → ready s = false → s.herder.held = [] → noDoors s →
      ∃ t v, exec .fwReadyTimeout s = .next t ∧ t = dmpReply v 256 0x0F14 [] ∧ ready v = true ∧
        v.herder.act = none ∧ v.herder.bootSlot = a.boot ∧ v.herder.runtime = a.runtime ∧
        v.herder.slot = (if a.previous < 2 then a.previous else 2) ∧
        v = { s with regs := v.regs, free := v.free, herder := v.herder, power := v.power }) ∧
    (∀ env : BootEnv, a.restarted = true → s.herder.slot = a.slot → s.herder.held = [] → noDoors s →
      ∃ t v, exec (.boot env) s = .next t ∧ t = dmpReply v 256 0 [] ∧ ready v = true ∧
        regField v 0x110000 8 4 = 4 ∧ v.herder.act = none ∧
        v.power = { s.power with fetchStopped := devErr s || decide (2 ≤ pState s) } ∧
        v = { s with regs := v.regs, free := v.free, herder := v.herder, power := v.power }))

def Obligations.BootsAndFirmware : Prop := bootRates ∧ bootCommand ∧ firmwareCommands

/-- Gating and waking of units and Packs are counted (R21 to R25, R491); the clock follows its
limits (R492); PMB_ALERT reads the regulators (R536); the TAP takes an instruction (R542). -/
def Sys2Proof.Claims.powerCommands : Prop :=
  (∀ (u : UnitId) (s : State),
    (mayGate s u = true → ∃ t, exec (.unitClockGate u false) s = .next t ∧ counted s t 0x130050 1 ∧
      t = { s with regs := t.regs, power := { s.power with gated := s.power.gated ++ [u] } }) ∧
    exec (.unitClockGate u true) s = .next s ∧
    (unitGated s u = true → pState s < 2 →
      let v := { s with power := { s.power with gated := s.power.gated.filter (fun g => !decide (g = u)) } }
      ∃ t r, exec (.unitWake u) s = .next t ∧ counted s r 0x130054 1 ∧ r = { v with regs := r.regs } ∧
        (∀ o, o ≠ 0x130054 → regVal r o = regVal s o) ∧
        (u = .dge → t = dgeRun r) ∧ (u = .shc → t = shcGoOn r) ∧
        (∀ h : Fin 128, u = .hound h → s.power.pllOff.contains (h.val / 16) = true →
          t.power.pllOff.contains (h.val / 16) = false ∧ (regVal t (0x130010 + 4 * (h.val / 16))).testBit 12 = true) ∧
        (∀ h : Fin 128, u = .hound h → s.power.pllOff.contains (h.val / 16) = false → t = r) ∧
        ((∀ h : Fin 128, u ≠ .hound h) → u ≠ .dge → u ≠ .shc → t = r))) ∧
  (∀ (p : Fin 8) (s : State), pState s = 0 → regField s 0x130008 16 16 ≠ 0 → p.val ∉ s.power.pllOff →
    (∀ u ∈ packUnits p.val, unitGated s u = true ∧ exempt s u = false) →
    ∃ t, exec (.packPllStop p) s = .next t ∧ (regVal t (0x130010 + 4 * p.val)).testBit 12 = false ∧
      t = { s with regs := t.regs, power := { s.power with pllOff := s.power.pllOff ++ [p.val] } }) ∧
  (∀ (mA mW : Nat) (temp16 : Int) (s : State), pState s < 2 → ready s = true →
    let all (t : State) (mhz : Nat) : Prop := ∀ p, p < 8 → regField t (0x130010 + 4 * p) 0 12 = mhz
    (overLimit mA mW temp16 = true → 2000 < hclk s → ∃ t, exec (.powerLimitCheck mA mW temp16) s = .next t ∧
      all t (hclk s - 100) ∧ counted s t 0x130058 1 ∧ t.pins.alertLow = true ∧
      (regVal t 0x130004).testBit 4 = true ∧ (regVal t 0x130004).testBit 3 = (regVal s 0x130004).testBit 3) ∧
    (overLimit mA mW temp16 = true → hclk s = 2000 → s.power.overTicks < 98 →
      exec (.powerLimitCheck mA mW temp16) s = .next { s with
        power := { s.power with overTicks := s.power.overTicks + 1, calmTicks := 0 }
        pins := { s.pins with alertLow := true } }) ∧
    (overLimit mA mW temp16 = true → hclk s = 2000 → s.power.overTicks = 99 →
      ∃ t, exec (.powerLimitCheck mA mW temp16) s = .next t ∧ all t 1900 ∧ counted s t 0x130058 1 ∧
        (regVal t 0x130004).testBit 3 = true ∧ evtPending t 1 = true) ∧
    (overLimit mA mW temp16 = false → wellBelow mA mW temp16 = true → s.power.calmTicks % 100 = 99 →
      hclk s + 100 ≤ hclkMax s → ∃ t, exec (.powerLimitCheck mA mW temp16) s = .next t ∧
        all t (hclk s + 100) ∧ t.pins.alertLow = false ∧ t.power.overTicks = 0) ∧
    (overLimit mA mW temp16 = false → wellBelow mA mW temp16 = false → hclkMax s < hclk s →
      ∃ t, exec (.powerLimitCheck mA mW temp16) s = .next t ∧ all t (hclk s - 100) ∧
        t.power.overTicks = 0 ∧ t.power.calmTicks = 0)) ∧
  (∀ (words : List (Option (BitVec 16))) (s : State), ready s = true → fatal s = false → devErr s = false →
    let b := envStatus s.herder.env words
    (envAlarm b = false → exec (.pmbAlert words) s = .next { s with herder := { s.herder with env := b } }) ∧
    (envAlarm b = true → ∃ t, exec (.pmbAlert words) s = .next t ∧ t.herder.env = b ∧ deviceFailed s t 8)) ∧
  (∀ (ir : BitVec 8) (released : Bool) (s : State),
    let c := Config.tapCode ir.toNat
    let taken := if ir = 0xFF then 0 else if c = 1 ∨ c = 2 then c
      else if 3 ≤ c ∧ c ≤ 5 ∧ s.pins.perst = true ∧ released = false then c else 0
    exec (.tapInstruction ir released) s = .next { s with
      pins := { s.pins with tapIr := taken }
      out := s.out ++ (if taken = 1 then [.tap 0x17740A6B] else if taken = 0 then [.tap 0] else []) })

/-- The commands of PWR_ENTER, with the state that each names. -/
def Sys2Proof.Claims.enterCmd (n : Nat) (mb : Mb) (m : Msg) (c : Instr) : Prop :=
  (n = 0 ∧ c = .pwrExit mb m) ∨ (n = 1 ∧ c = .pwrEnterP1 mb m) ∨ (n = 2 ∧ c = .pwrEnterP2 mb m) ∨
  (n = 3 ∧ c = .pwrEnterP3 mb m) ∨ (n = 4 ∧ c = .pwrEnterP4 mb m)

/-- PWR_ENTER is refused by the first check that fails; entry gates, sleeps or powers off as
its state says, and exit wakes what sleeps; PWR_STATUS reports (R490 to R495, R511). -/
def Sys2Proof.Claims.powerMessages : Prop :=
  ∀ (mb : Mb) (m : Msg) (s : State),
    let r := dmpMsg mb 0x0700 m
    let n := le m.body 0 1
    (served s (dmpMsg mb 0x0701 m) → ∃ t, exec (.pwrStatus mb m) s = .next t ∧
      replied s t (dmpMsg mb 0x0701 m) 0
        (toLe 4 (regVal s 0x130004) ++ zeros 4 ++ toLe 8 (regVal s 0x130040)) id) ∧
    (∀ c st reason ks, served s r → enterCmd n mb m c → s.herder.held = [] →
      pwrFault s r = some (st, reason, ks) → ks.length < 2 → ∃ t, exec c s = .next t ∧
        replied s t r st (toLe 1 reason ++ toLe 1 (ks.headD 0xFF) ++ zeros 6) id) ∧
    (served s r → n = 1 → pwrFault s r = none →
      ∃ t u v body, exec (.pwrEnterP1 mb m) s = .next t ∧ atHerder s u r ∧ t = dmpReply v (mbNum mb) 0 body ∧
        body.length = 8 ∧ pState v = 1 ∧ (∀ x ∈ allUnits, unitIdle u x = true → unitGated v x = true) ∧
        v = { u with regs := v.regs, free := v.free, power := { u.power with gated := v.power.gated } }) ∧
    (∀ c, served s r → n = 2 ∨ n = 3 → enterCmd n mb m c → pwrFault s r = none →
      ∃ t, exec c s = .next t ∧ pState t = n ∧ (gstatus t).testBit 4 = true ∧
        (∀ c, c < 16 → (regVal t (0x100000 + 0x800 * c)).testBit 1 = true) ∧ t.dram.wqs = [] ∧
        (pState s < 2 → t.power.fetchStopped = true ∧ t.timing.pulses = []) ∧
        (n = 3 → ∀ j, j < 8 → (regVal s 0x10F010).testBit j = false → t.dram.lost.getLsbD j = true) ∧
        ∃ v body, t = dmpReply v (mbNum mb) 0 body ∧ body.length = 8) ∧
    (served s r → n = 4 → pwrFault s r = none →
      ∃ t, exec (.pwrEnterP4 mb m) s = .next t ∧ pState t = 4 ∧ t.dram = {} ∧ t.store = {} ∧
        t.pins.linkUp = false ∧ t.herder.warm = true ∧ t.pending = s.pending) ∧
    (served s r → n = 0 → s.herder.held = [] → pwrFault s r = none →
      ∃ t, exec (.pwrExit mb m) s = .next t ∧ pState t = 0 ∧ (s.shc.waiting = [] → t.dram = s.dram) ∧
        (2 ≤ pState s → t.power.fetchStopped = false ∧ (gstatus t).testBit 4 = false ∧
          (shcFlushing s = false → (regVal t 0xD0000).testBit 0 = true) ∧
          (∀ p, p < 8 → (regVal t (0x130010 + 4 * p)).testBit 12 = true)) ∧
        (pState s = 3 → (gstatus t).testBit 5 = true ∧
          ∀ e ∈ t.store.spaces, e.2.granules.any (fun g => lineLost s (32768 * g)) = true → e.2.lost = true))

def Obligations.Power : Prop := powerCommands ∧ powerMessages


/-! ### Plans and jobs -/

/-- The CQ of a kennel takes a completion now. -/
def Sys2Proof.Claims.cqRoom (s : State) (k cq : Nat) (c : Cq) : Prop :=
  cq? s k cq = some c ∧ (∃ x, kennel? s k = some x ∧ x.ovf = []) ∧ hostUp s = true ∧ devErr s = false ∧
  cqUsed c ≠ cqSize c

/-- An entry and the TAIL have been written to the CQ's ring and shadow, and nothing else (R380, R381). -/
def Sys2Proof.Claims.cqeOut (s t : State) (k : Nat) (c : Cq) (bytes : Bytes) : Prop :=
  t.out = s.out ++ [
    .hostWrite (pasidOf s k) ((c.ring + 32 * (c.tail % cqSize c)) % 2 ^ 64)
      (bytes ++ toLe 1 (1 - c.tail / cqSize c % 2)),
    .hostWrite (pasidOf s k) (c.shadow % 2 ^ 64) (toLe 4 ((c.tail + 1) % 2 ^ 32))]

/-- The kennel's WQ holds the entry in flight, and its CQ has room. -/
def Sys2Proof.Claims.entryDue (s : State) (k w seq : Nat) (q : Wq) (f : Inflight) (c : Cq) : Prop :=
  wq? s k w = some q ∧ q.inflight.find? (·.seq == seq) = some f ∧ cqRoom s k q.cq c

/-- PLAN_LOAD checks an image and, where every check passes, places and keeps it under a free
handle; PLAN_UNLOAD frees all that a plan without jobs held; PLAN_STATUS reports (R98 to R102,
R451, R452). -/
def Sys2Proof.Claims.planCommands : Prop :=
  ∀ (mb : Mb) (m : Msg) (s : State),
    let b := m.body
    let k := mbKennel (mbNum mb)
    (∀ (host : HostRead) (x : Kennel), let r := { dmpMsg mb 0x0300 m with host }
      served s r → kennel? s k = some x → zeroes b 12 4 = true → le b 8 4 % 64 = 0 → 512 ≤ le b 8 4 →
      le b 8 4 ≤ 268435456 →
      (host = none → ∃ t, exec (.planLoad mb m host) s = .next t ∧
        replied s t r 0x0F06 (toLe 2 0 ++ toLe 2 0xFFFF ++ toLe 8 0) (fun u => kennelError u k)) ∧
      (∀ data, host = some data → le b 8 4 ≤ data.length →
        let img := data.take (le b 8 4)
        let p := planOf img k
        let stands := standsAt s x p.verts (Config.freeNat s.free)
        ∃ t, exec (.planLoad mb m host) s = .next t ∧
          (∀ e i, planFault s k x img stands = some (e, i) →
            replied s t r e (toLe 2 0 ++ toLe 2 i ++ toLe 8 (le img 8 8)) (fun u => { u with free := u.free + 1 })) ∧
          (∀ places, planFault s k x img stands = none →
            bestPlaces stands (splitsAt p.verts p.edges) (vertsOf p.verts (fun v => v.kind == kHound || onEngine v)) = some places →
            ∃ h u v, atHerder s u r ∧ 1 ≤ h ∧ h ≤ 65535 ∧ plan? s k h = none ∧
              t = dmpReply (admitPlan { u with free := v } k h p places) (mbNum mb) 0
                (toLe 2 h ++ toLe 2 0xFFFF ++ toLe 8 p.planId)))) ∧
    (∀ (p : Plan), let h := le b 0 2
      served s (dmpMsg mb 0x0301 m) → zeroes b 2 6 = true → plan? s k h = some p →
      (0 < jobsOfPlan s k h → ∃ t, exec (.planUnload mb m) s = .next t ∧
        replied s t (dmpMsg mb 0x0301 m) 0x040A [] id) ∧
      (jobsOfPlan s k h = 0 → ∃ t, exec (.planUnload mb m) s = .next t ∧
        replied s t (dmpMsg mb 0x0301 m) 0 [] (fun u => dropPlan u k h) ∧ plan? t k h = none ∧
        (∀ g, g ≠ h → plan? t k g = plan? s k g) ∧
        (∀ e ∈ t.hounds, ∀ vid i, e.2.serves ≠ some (k, h, vid, i)) ∧
        (∀ e ∈ t.scent, ∀ vid i, e.2.owner ≠ some (k, h, vid, i)))) ∧
    (served s (dmpMsg mb 0x0301 m) → zeroes b 2 6 = true → plan? s k (le b 0 2) = none →
      ∃ t, exec (.planUnload mb m) s = .next t ∧ replied s t (dmpMsg mb 0x0301 m) 0x0420 [] id) ∧
    (∀ p, served s (dmpMsg mb 0x0302 m) → zeroes b 4 4 = true → plan? s k (le b 0 2) = some p →
      (le b 2 2 = 0xFFFF ∨ le b 2 2 < p.verts.length) →
      ∃ t, exec (.planStatus mb m) s = .next t ∧
        replied s t (dmpMsg mb 0x0302 m) 0 (planStatusBody s k p (le b 2 2))
          id)

/-- A requester of an arbiter that wins the round: an urgent one if there is one, and among
those that may win the next in rising order after the last winner (R507). -/
def Sys2Proof.Claims.winsRound (arb : ArbSt) (age : Nat) (ready : List Nat) (w : Nat) : Prop :=
  let urgent := fun k => age ≤ tget arb.lost k 0
  let may := fun k => k ∈ ready ∧ ((∃ g ∈ ready, urgent g) → urgent k)
  may w ∧ (∀ k, may k → arb.last < k → arb.last < w ∧ w ≤ k) ∧
    ((∀ k, may k → k ≤ arb.last) → ∀ k, may k → w ≤ k)

/-- A free slot goes to the kennel that wins the round among those that wait and may have one;
the others have lost it (R29, R507). An engine takes the next vertex of a kennel with a
weight (R101, R402). -/
def Sys2Proof.Claims.slotAndEngineGrants : Prop :=
  (∀ (kind : SlotKind) (s : State) (r0 : SlotReq),
    let waits := match kind with | .job => s.slots.jobWait | .tile => s.slots.tileWait
    let arb := match kind with | .job => s.slots.jobArb | .tile => s.slots.tileArb
    r0 ∈ waits → slotFor s kind r0.kennel = true →
    ∃ t r ks, exec (.slotGrant kind) s = .next t ∧ r ∈ waits ∧ winsRound arb (arbAge s) ks r.kennel ∧
      (∀ k, k ∈ ks ↔ slotFor s kind k = true ∧ ∃ g ∈ waits, g.kennel = k) ∧
      t = { s with slots := match kind with
        | .job => { s.slots with
            jobWait := waits.erase r, jobGrant := s.slots.jobGrant ++ [r], jobArb := arb.won ks r.kennel }
        | .tile => { s.slots with
            tileWait := waits.erase r, tileGrant := s.slots.tileGrant ++ [r], tileArb := arb.won ks r.kennel } }) ∧
  (∀ (e : EngineId) (s : State) (x : Vx), servingVx s e = none → unitGated s (engineUnit e) = false →
    x ∈ engineCands s (engineKind e).1 (engineKind e).2 → 0 < kennelWeight s x.job.kennel (engineKind e).1 →
    ∃ t y, exec (.engineSchedule e) s = .next t ∧ t = { s with engines := t.engines } ∧
      (engineSt t e).serving = some { job := y.j, vid := y.vid } ∧
      y ∈ engineCands s (engineKind e).1 (engineKind e).2 ∧ 0 < kennelWeight s y.job.kennel (engineKind e).1 ∧
      (∀ g, g ≠ e → engineSt t g = engineSt s g))

/-- A vertex publishes its next output to every destination of the port's edge while the edge
has a credit and a slot is free; spilled tiles come back once port 0 has ended; end marks go
out when a vertex has nothing left (R94, R108, R116, R119). -/
def Sys2Proof.Claims.jobFlow : Prop :=
  (∀ (v : VertexRef) (port : Fin 8) (s : State) (x : Vx) (i eid : Nat) (e : Edge) (g : EdgeSt),
    vx? s v = some x → vxLive x = true → outEdge? x.plan x.vid port.val = some (eid, e) →
    x.job.edges[eid]? = some g → (∀ n a, n < i → x.st.outq[n]? = some a → a.1 ≠ port.val) →
    x.st.inHold = [] → isBuild x = false → x.vert.kind ≠ kExch → x.vert.kind ≠ kDge →
    (∀ b, x.st.outq[i]? = some (port.val, .tile b) → g.slots.length < e.credits →
      let ds := itemDests e (tileSeq b)
      lastReserved s x e g.slots.length (tileSeq b) = false →
      (tileSlotFree s x = true → ∃ t y, exec (.tilePublish v port) s = .next t ∧ vx? t v = some y ∧
        y.st.outq = x.st.outq.eraseIdx i ∧ y.job.edges[eid]? = some {
          nextSlot := g.nextSlot + 1, slots := g.slots ++ [(g.nextSlot + 1, ds.length)]
          queues := g.queues.mapIdx (fun n q => if ds.contains n then q ++ [.tile (g.nextSlot + 1) b] else q) } ∧
        (∀ n, n ≠ eid → y.job.edges[n]? = x.job.edges[n]?)) ∧
      (tileSlotFree s x = false → ∃ t, exec (.tilePublish v port) s = .next t ∧
        t = { s with slots := { s.slots with tileWait := t.slots.tileWait } } ∧
        ({ kennel := x.job.kennel, a := x.j, b := x.vid } ∈ t.slots.tileWait ∨
         { kennel := x.job.kennel, a := x.j, b := x.vid } ∈ t.slots.tileGrant))) ∧
    (∀ q, x.st.outq[i]? = some (port.val, .skip q) → ∃ t y, exec (.tilePublish v port) s = .next t ∧
      vx? t v = some y ∧ y.st.outq = x.st.outq.eraseIdx i ∧ y.job.edges[eid]? = some { g with
        queues := g.queues.mapIdx (fun n w => if (itemDests e q).contains n then w ++ [.skip q] else w) })) ∧
  (∀ (v : VertexRef) (port : Fin 8) (s : State) (x : Vx) (b : Bytes), liveVx s v = some x →
    inHead x port.val = some (.spilled b) → portEnded x 0 = true →
    ∃ t y, exec (.spillReadback v port) s = .next t ∧ vx? t v = some y ∧
      inQueue y port.val = .tile 0 b :: (inQueue x port.val).drop 1 ∧ y.st.spilled = x.st.spilled - b.length ∧
      t = { s with jobs := t.jobs }) ∧
  (∀ (v : VertexRef) (s : State) (x : Vx), vx? s v = some x → vxLive x = true → x.st.endSent = false →
    isSink x.vert.kind = false → allEnded x = true →
    (x.vert.kind = kSrcIngest → ingestEnded s x = true) →
    exec (.endMarkSend v) s = .next (endVertex s x) ∧
    (x.vert.kind ≠ kSrcIngest → x.vert.kind ≠ kShepherd → x.vert.kind ≠ kExch →
      (workDone s x = false → exec (.endMarkSend v) s = .next s) ∧
      (workDone s x = true → ∃ t y, exec (.endMarkSend v) s = .next t ∧ vx? t v = some y ∧ y.st.endSent = true ∧
        t = { s with jobs := t.jobs } ∧
        ∀ (i : Nat) (e : Edge) (g : EdgeSt), x.plan.edges[i]? = some e → x.job.edges[i]? = some g → g.queues.length = e.dsts.length →
          y.job.edges[i]? = some (if e.src = x.vid
            then { g with queues := g.queues.map (fun q => q ++ [.endMark]) } else g))))

/-- A job whose sinks have closed completes with status 0 and RESULT0, a failed one with its
status and VID once every vertex has stopped; a time limit fails it; units stop at their
boundary, Hounds by their abort line, which ends a WFI (R108 to R111, R113, R237, R283). -/
def Sys2Proof.Claims.jobEnds : Prop :=
  (∀ (j : Nat) (s : State) (b : Job) (q : Wq) (f : Inflight) (c : Cq), job? s j = some b →
    entryDue s b.kennel b.wq b.seq q f c →
    let gone (t : State) : Prop := job? t j = none ∧ (wq? t b.kennel b.wq).map (·.inflight) =
        some (q.inflight.filter (fun g => g.seq != f.seq)) ∧ (∀ i, i ≠ j → job? t i = job? s i)
    (jobLive b = true → (∀ x ∈ jobSinks s j, (sinkOf x.st).closed = true) →
      ∃ t, exec (.jobComplete j) s = .next t ∧ gone t ∧
        cqeOut s t b.kennel c (cqeBytes f.tag 0 f.opc b.wq 0xFFFF b.result0 0 f.seq)) ∧
    (∀ status vid, b.failed = some (status, vid) → b.abandoned = false → b.retired = false →
      b.verts.all (·.stopped) = true → ∃ t, exec (.jobFailRetire j) s = .next t ∧ gone t ∧
        cqeOut s t b.kennel c (cqeBytes f.tag status f.opc b.wq vid b.result0 0 f.seq))) ∧
  (∀ (j : Nat) (s : State) (b : Job), job? s j = some b → jobLive b = true → jeFlags b.entry = 1 →
    ∃ t, exec (.jobTimeout j) s = .next t ∧ job? t j = some { b with failed := some (0x0427, 0xFFFF) } ∧
      t = { s with jobs := t.jobs, kennels := t.kennels }) ∧
  (∀ (v : VertexRef) (s : State) (x : Vx), vx? s v = some x → x.st.stopped = false → x.job.retired = false →
    let busy := x.vert.units.filter (fun h => x.vert.kind == kHound && (hound s h).job == some x.j)
    (x.job.failed.isSome = true → x.job.abandoned = false → busy = [] → x.vert.kind ≠ kExch →
      ∃ t y, exec (.unitStop v) s = .next t ∧ vx? t v = some y ∧ y.st = { stopped := true } ∧
        (∀ i, i ≠ v.job → job? t i = job? s i)) ∧
    (x.job.failed.isSome = true ∨ x.job.abandoned = true → busy ≠ [] →
      ∃ t, exec (.unitStop v) s = .next t ∧ t = { s with hounds := t.hounds } ∧
        (∀ h ∈ busy, let y := { hound s h with ipend := (hound s h).ipend ||| 1 }
          hound t h = if y.wfi = true ∧ (y.ipend &&& y.ien) ≠ 0
            then { y with wfi := false, regs := advance y.regs (y.regs.pc.toNat + 4) } else y) ∧
        (∀ h, h ∉ busy → hound t h = hound s h)))

/-- A source reads the next tile of its range, checks all of it, and numbers it; a sink writes its next tile
after the last, to the host's window or to its range, and drops skip marks (R106, R112 to
R115, R164). -/
def Sys2Proof.Claims.sourcesAndSinks : Prop :=
  (∀ (v : VertexRef) (s : State) (x : Vx) (n off len : Nat) (sp : TSpace), liveVx s v = some x →
    x.vert.kind = kSrcTs → x.st.outq = [] → moverUp s = true → tsRange x = some (n, off, len) → ownSpace s x.job.kennel n = some sp →
    let pos := (tsOf x.st).pos
    (∀ b p, tsNextTile s sp off len pos = .ok b → readWhole s x b = .ok p →
      ∃ t y, exec (.srcTsTile v) s = .next t ∧ vx? t v = some y ∧
        y.st.outq = [(0, .tile (setTileSeq b (originSeq x.vid (tget x.st.ordinals 0 0))))] ∧
        y.st.eng = .ts (if pos + b.length = len then { range := (tsOf x.st).range + 1, pos := 0 }
          else { tsOf x.st with pos := pos + b.length }) ∧ t = { s with jobs := t.jobs, free := t.free }) ∧
    (∀ b e, tsNextTile s sp off len pos = .ok b → readWhole s x b = .error e →
      ∃ t, exec (.srcTsTile v) s = .next t ∧ (job? t v.job).map (·.failed) = some (some (e, v.vid))) ∧
    (∀ e, tsNextTile s sp off len pos = .error e → ∃ t, exec (.srcTsTile v) s = .next t ∧
      (job? t v.job).map (·.failed) = some (some (e, v.vid)))) ∧
  (∀ (v : VertexRef) (port : Fin 8) (s : State) (x : Vx), liveVx s v = some x →
    sinkUp s x = true → deferHolds x port.val = false → vOrdered x.vert = false →
    let cfg := x.vert.cfg
    let pos := (sinkOf x.st).pos
    (∀ n b, inHead x port.val = some (.tile n b) → tileSizesOk b = true → tileTotal b ≤ b.length →
      0 < tileTotal b →
      let total := tileTotal b
      (x.vert.kind = kSinkHost → pos + total ≤ 4096 * le cfg 8 4 →
        ∃ t y, exec (.sinkWrite v port) s = .next t ∧ vx? t v = some y ∧
          t.out = s.out ++ [.hostWrite (pasidOf s x.job.kennel)
            ((jeBuf x.job.entry + 4096 * le cfg 4 4 + pos) % 2 ^ 64) (b.take total)] ∧
          y.job.result0 = x.job.result0 + total ∧ (sinkOf y.st).pos = pos + total ∧
          inQueue y port.val = (inQueue x port.val).drop 1 ∧ t.dram = s.dram ∧ t.shc = s.shc) ∧
      (∀ sp, x.vert.kind = kSinkTs → pos + total ≤ le cfg 16 8 → ownSpace s x.job.kennel (le cfg 2 2) = some sp →
        ∃ t y, exec (.sinkWrite v port) s = .next t ∧ vx? t v = some y ∧
          t.dram = (tsWrite s sp (le cfg 8 8 + pos) (b.take total)).dram ∧
          t.shc = (tsWrite s sp (le cfg 8 8 + pos) (b.take total)).shc ∧ t.out = s.out ∧
          (sinkOf y.st).pos = pos + total ∧ inQueue y port.val = (inQueue x port.val).drop 1) ∧
      (x.vert.kind = kSinkHost → 4096 * le cfg 8 4 < pos + total → ∃ t, exec (.sinkWrite v port) s = .next t ∧
        (job? t v.job).map (·.failed) = some (some (0x0425, v.vid)) ∧ t.out = s.out) ∧
      (x.vert.kind = kSinkVerdict → inDet s x.job.kennel = false →
        ∃ t y, exec (.sinkWrite v port) s = .next t ∧ vx? t v = some y ∧ t.out = s.out ∧
          inQueue y port.val = (inQueue x port.val).drop 1 ∧ t.timing = s.timing)) ∧
    (∀ q, inHead x port.val = some (.skip q) → isSink x.vert.kind = true →
      ∃ t y, exec (.sinkWrite v port) s = .next t ∧ vx? t v = some y ∧ t.out = s.out ∧
        inQueue y port.val = (inQueue x port.val).drop 1))

def Obligations.PlansAndJobs : Prop := planCommands ∧ slotAndEngineGrants

def Obligations.JobFlow : Prop := jobFlow ∧ jobEnds ∧ sourcesAndSinks


/-! ### Engines -/

/-- The vertex, as `t` holds it: what it will publish and what its engine keeps; the item at
the head of the port is taken, and the engine is free. -/
def Sys2Proof.Claims.worked (t : State) (e : EngineId) (x : Vx) (port : Nat) (outs : List (Nat × OItem)) (eng : EngSt) : Prop :=
  ∃ y, vx? t { job := x.j, vid := x.vid } = some y ∧ y.st.outq = outs ∧ y.st.eng = eng ∧
    inQueue y port = (inQueue x port).drop 1 ∧ (engineSt t e).serving = none

/-- The same for work that takes no input. -/
def Sys2Proof.Claims.emitted (t : State) (e : EngineId) (x : Vx) (outs : List (Nat × OItem)) (eng : EngSt) : Prop :=
  ∃ y, vx? t { job := x.j, vid := x.vid } = some y ∧ y.st.outq = outs ∧ y.st.eng = eng ∧
    (engineSt t e).serving = none

/-- New tiles of an origin on port 0, with their SEQs (R114). -/
def Sys2Proof.Claims.numbered (x : Vx) (outs : List Bytes) : List (Nat × OItem) :=
  outs.mapIdx (fun i b => (0, .tile (setTileSeq b (originSeq x.vid (tget x.st.ordinals 0 0 + i)))))

/-- The vertex has failed its job with a status (R109). -/
def Sys2Proof.Claims.jobFailed (t : State) (x : Vx) (status : Nat) : Prop :=
  (job? t x.j).map (·.failed) = some (some (status, x.vid))

/-- A Facet engine takes a tile through its predicates and lines to its ports, or a skip mark
to every port; a GATE port gives a held tile back once its verdicts stand (R149 to R166). -/
def Sys2Proof.Claims.facetCommands : Prop :=
  (∀ (fe : Fin 32) (s : State) (x : Vx), servedIdle s (.fe fe) = some x → x.vert.kind = kFacet →
    gateFull x = false →
    let st := facetOf x.st
    (∀ q, headSkip x 0 = some q → st.gate = [] → ∃ t, exec (.facetTile fe) s = .next t ∧
      worked t (.fe fe) x 0 ((List.range x.vert.nout).map (fun p => (p, .skip (skipSeq q)))) (.facet st)) ∧
    (∀ b p r, headTile x 0 = some b → readTile s x b = .ok p →
      facetRun x.vert.cfg x.vert.body (planConst x.plan) x.vert.nout (inDet s x.job.kennel) st.pre
        (tget x.plan.bitmaps x.vid []) x.j p = .ok r →
      ∃ t, exec (.facetTile fe) s = .next t ∧ worked t (.fe fe) x 0 (facetSplit p.seq st.gate r.outs).1
        (.facet { pre := r.pre, gate := st.gate ++ (facetSplit p.seq st.gate r.outs).2 }) ∧
        ∃ pl, plan? t x.job.kennel x.job.plan = some pl ∧ tget pl.bitmaps x.vid [] = r.bitmaps) ∧
    (∀ b e, headTile x 0 = some b → readTile s x b = .error e → ∃ t, exec (.facetTile fe) s = .next t ∧
      jobFailed t x e)) ∧
  (∀ (v : VertexRef) (port : Fin 8) (s : State) (x : Vx) (g : GateTile) (b b' : Bytes) (p : PTile)
      (vs : List (Bool × Bool)), vx? s v = some x → vxLive x = true → x.vert.kind = kFacet →
    (facetOf x.st).gate.find? (gateHolds port.val) = some g → g.item = .tile b →
    readTile s x b = .ok p → gateVerdicts s x.job.kennel p = some vs →
    gateEmit p (fun i => (vs[i]?).getD (false, false)) = .ok (.tile b') →
    let left := gateSkips port.val (eraseFirst (gateHolds port.val) (facetOf x.st).gate)
    ∃ t y, exec (.gateRelease v port) s = .next t ∧ vx? t v = some y ∧
      y.st.outq = x.st.outq ++ (port.val, .tile b') :: left.1 ∧
      y.st.eng = .facet { facetOf x.st with gate := left.2 } ∧ t = { s with jobs := t.jobs })

/-- A sort engine takes rows into runs, merges runs while more than FANIN are left, and gives
out the sorted tiles once, after its input's end (R169 to R176). -/
def Sys2Proof.Claims.sortCommands : Prop :=
  ∀ (srt : Fin 4) (s : State) (x : Vx), servedSort s srt = some x →
    let cfg := x.vert.cfg
    let st := sortOf x.st
    let runs := (sortClose cfg st).runs
    (∀ q, headSkip x 0 = some q → ∃ t, exec (.sortInputTile srt) s = .next t ∧ worked t (.srt srt) x 0 [] x.st.eng) ∧
    (∀ b p st', headTile x 0 = some b → readTile s x b = .ok p →
      sortTake cfg (fun i => Config.freeNat (s.free + i)) st p (tileTotal b) = .ok st' →
      ∃ t, exec (.sortInputTile srt) s = .next t ∧ worked t (.srt srt) x 0 [] (.sort st')) ∧
    (∀ b p e, headTile x 0 = some b → readTile s x b = .ok p →
      sortTake cfg (fun i => Config.freeNat (s.free + i)) st p (tileTotal b) = .error e →
      ∃ t, exec (.sortInputTile srt) s = .next t ∧ jobFailed t x e) ∧
    (portEnded x 0 = true → st.finished = false → sortFanin cfg < runs.length →
      ∃ t y, exec (.sortMergePass srt) s = .next t ∧ vx? t { job := x.j, vid := x.vid } = some y ∧
        y.st = { x.st with eng := .sort (mergePass cfg (sortClose cfg st)) }) ∧
    (portEnded x 0 = true → st.finished = false → runs.length ≤ sortFanin cfg →
      ∃ t, exec (.sortFinalPass srt) s = .next t ∧
        emitted t (.srt srt) x
          (numbered x (sortEmit cfg x.job.kennel (outCap x.plan x.vid 0) (sortClose cfg st)))
          (.sort { sortClose cfg st with cur := [], runs := [], finished := true }))

/-- An aggregation engine takes tiles from its ports in turn into groups or bins, and emits
them once every input has ended (R179 to R187). -/
def Sys2Proof.Claims.aggCommands : Prop :=
  ∀ (agg : Fin 8) (s : State) (x : Vx), servedAgg s agg = some x →
    let cfg := x.vert.cfg
    let st := aggOf x.st
    (∀ p, aggPort (arbAge s) x = some p →
      let next := { st with arb := st.arb.won (aggReady x) p }
      (headTile x p = none → ∃ t, exec (.aggInputTile agg) s = .next t ∧
        worked t (.agg agg) x p [] (.agg next)) ∧
      (∀ b q st' n, headTile x p = some b → readTile s x b = .ok q → aggTake cfg next q = .ok (st', n) →
        ∃ t, exec (.aggInputTile agg) s = .next t ∧ worked t (.agg agg) x p [] (.agg st')) ∧
      (∀ b q e, headTile x p = some b → readTile s x b = .ok q → aggTake cfg next q = .error e →
        ∃ t, exec (.aggInputTile agg) s = .next t ∧ jobFailed t x e)) ∧
    (allEnded x = true → st.finished = false →
      ∃ t, exec (.aggEmit agg) s = .next t ∧
        emitted t (.agg agg) x (numbered x (aggEmitTiles cfg x.job.kennel (outCap x.plan x.vid 0) st))
          (.agg { st with finished := true }))

/-- What a join vertex gives out of its rows: the new state, and the tiles that are full. -/
def Sys2Proof.Claims.joinOut (x : Vx) (st : JoinSt) : JoinSt × List Bytes :=
  joinFlush x.vert.cfg x.job.kennel (outCap x.plan x.vid 0) false (st.outRows.length + 1) st

/-- A join builds from port 0, then probes with port 1; a windowed join takes both ports; skip
marks are absorbed (R140 to R143). -/
def Sys2Proof.Claims.joinCommands : Prop :=
  ∀ (she : Fin 8) (s : State) (x : Vx),
    let cfg := x.vert.cfg
    let done (t : State) (port : Nat) (st : JoinSt) : Prop :=
      worked t (.she she) x port (numbered x (joinOut x st).2) (.join (joinOut x st).1)
    (servedJoin s she 2 = some x →
      (∀ b p st, headTile x 0 = some b → readTile s x b = .ok p → joinBuild cfg (joinOf x.st) p = .ok st →
        ∃ t, exec (.joinBuildTile she) s = .next t ∧ done t 0 st) ∧
      (∀ q, headSkip x 0 = some q → ∃ t, exec (.joinBuildTile she) s = .next t ∧
        worked t (.she she) x 0 [] x.st.eng) ∧
      (∀ b p e, headTile x 0 = some b → readTile s x b = .ok p → joinBuild cfg (joinOf x.st) p = .error e →
        ∃ t, exec (.joinBuildTile she) s = .next t ∧ jobFailed t x e) ∧
      (∀ b p st n, portEnded x 0 = true → headTile x 1 = some b → readTile s x b = .ok p →
        joinProbe cfg (joinOf x.st) p = .ok (st, n) →
        ∃ t, exec (.joinProbeTile she) s = .next t ∧ done t 1 st)) ∧
    (∀ (port : Fin 2) (b : Bytes) (p : PTile) (st : JoinSt) (n : Nat), servedJoin s she 3 = some x →
      headTile x port.val = some b → readTile s x b = .ok p →
      let ended := portEnded x (1 - port.val)
      joinWindow cfg port.val ended (if ended then winEnded (1 - port.val) (joinOf x.st) else joinOf x.st) p = .ok (st, n) →
      ∃ t, exec (.winjoinTile she port) s = .next t ∧ done t port.val st)

/-- What is left of the block that an event-build vertex works on, or the next one (R122). -/
def Sys2Proof.Claims.nextBlock (x : Vx) : List (Nat × Frag) :=
  match (buildOf x.st).block with
  | [] => (match inHead x 0 with | some (.block _ data) => blockFrags data | _ => [])
  | l => l

/-- The Shepherd has taken a fragment, of which `r` is left in its block. -/
def Sys2Proof.Claims.fragmentTaken (t : State) (v : VertexRef) (r : List (Nat × Frag)) (y : Vx) : Prop :=
  vx? t v = some y ∧ (buildOf y.st).block = r

/-- An event is open under an epoch and a number. -/
def Sys2Proof.Claims.isEvent (epoch event : Nat) (o : OpenEv) : Bool := o.epoch == epoch && o.event == event

/-- A fragment is late: its epoch has closed, or its event left a tombstone that stands
(R127, R133). -/
def Sys2Proof.Claims.isLate (u : State) (x : Vx) (epoch event : Nat) : Bool :=
  epochClosed x (buildOf x.st) epoch ||
    (tombsOf u x).any (fun t => t.job == x.j && t.epoch == epoch && t.event == event && u.fclk ≤ t.death)

/-- At its FCLK tick a Shepherd keeps a DATA fragment in its event, and closes the event that
is then complete; it drops late and duplicate ones; it counts CLOSE fragments and HEARTBEATs
(R127 to R129). -/
def Sys2Proof.Claims.shepherdFragments : Prop :=
  (∀ (she : Fin 8) (now gap : Nat) (f : Frag) (r : List (Nat × Frag)) (s : State) (x : Vx),
    let u := tickTo s now
    servedVx u (.she she) = some x → isBuild x = true → x.st.outq = [] → nextBlock x = (gap, f) :: r →
    let c := x.vert.cfg
    let b := buildOf x.st
    let v : VertexRef := { job := x.j, vid := x.vid }
    let epoch := rfxEpoch f.bytes
    let event := rfxEvent f.bytes
    let late := isLate u x epoch event
    let open? := b.opens.find? (isEvent epoch event)
    let others := b.opens.filter (fun o => !isEvent epoch event o)
    (rfxType f.bytes = 1 → late = true → ∃ t y, exec (.sheDataFragment she now) s = .next t ∧
      fragmentTaken t v r y ∧ (buildOf y.st).opens = b.opens) ∧
    (∀ o, rfxType f.bytes = 1 → late = false → open? = some o → o.srcs.contains (rfxSource f.bytes) = true →
      ∃ t y, exec (.sheDataFragment she now) s = .next t ∧ fragmentTaken t v r y ∧
        (buildOf y.st).opens = b.opens.map (fun o =>
          if isEvent epoch event o then { o with flags := o.flags ||| 4 } else o)) ∧
    (rfxType f.bytes = 1 → late = false → open? = none → shbMaxOpen c ≤ slotsUsed u x →
      ∃ t y, exec (.sheDataFragment she now) s = .next t ∧ fragmentTaken t v ((gap, f) :: r) y ∧
        (buildOf y.st).opens = b.opens ∧ (buildOf y.st).openStall = true) ∧
    (rfxType f.bytes = 1 → late = false → (∀ o, open? = some o → rfxSource f.bytes ∉ o.srcs) →
      (open? = none → slotsUsed u x < shbMaxOpen c) → shbStoreEn c = false →
      let e := keepIn c (open?.getD { epoch, event, toffset := 0, srcs := [], flags := 0, opened := u.fclk, caps := [] }) gap f
      (shbNExpect c = 0 ∨ e.srcs.countP (shbExpects c) ≠ shbNExpect c →
        ∃ t y, exec (.sheDataFragment she now) s = .next t ∧ fragmentTaken t v r y ∧
          (buildOf y.st).opens = others ++ [e]) ∧
      (1 ≤ shbNExpect c → e.srcs.countP (shbExpects c) = shbNExpect c →
        ∃ t y, exec (.sheDataFragment she now) s = .next t ∧ fragmentTaken t v r y ∧
          (buildOf y.st).opens = others)) ∧
    (rfxType f.bytes = 2 → epochClosed x b epoch = false → shbCloseBySrc c = false →
      ∃ t y, exec (.sheCloseFragment she now) s = .next t ∧ fragmentTaken t v r y ∧
        (buildOf y.st).closes = addNew b.closes (epoch, rfxSource f.bytes) ∧ (buildOf y.st).opens = b.opens) ∧
    (rfxType f.bytes = 2 → epochClosed x b epoch = true →
      ∃ t y, exec (.sheCloseFragment she now) s = .next t ∧ fragmentTaken t v r y ∧
        (buildOf y.st).closes = b.closes ∧ (buildOf y.st).opens = b.opens)) ∧
  (∀ (she : Fin 8) (gap : Nat) (f : Frag) (r : List (Nat × Frag)) (s : State) (x : Vx),
    servedVx s (.she she) = some x → isBuild x = true → x.st.outq = [] → nextBlock x = (gap, f) :: r →
    rfxType f.bytes = 3 → ∃ t y, exec (.sheHeartbeat she) s = .next t ∧
      fragmentTaken t { job := x.j, vid := x.vid } r y ∧ (buildOf y.st).opens = (buildOf x.st).opens ∧
      counted s t (0x50010 + 0x1000 * x.vert.inst + 4) 1)

/-- Windows time out, tombstones expire, open tiles go out when they are due, what waited
resumes, and the blocks of an ingest source are published when they are due (R107, R123,
R125, R130, R133, R134, R560). -/
def Sys2Proof.Claims.shepherdUpkeep : Prop :=
  (∀ (v : VertexRef) (now : Nat) (s : State) (x : Vx),
    let u := tickTo s now
    buildVx u v = some x →
    let b := buildOf x.st
    let due := b.opens.filter (fun e => e.opened + shbWindow x.vert.cfg ≤ u.fclk)
    (∃ t y, exec (.eventWindowTimeout v now) s = .next t ∧ vx? t v = some y ∧
      (buildOf y.st).opens = b.opens.filter (fun o => !due.any (fun d => isEvent d.epoch d.event o))) ∧
    (∃ t, exec (.tombstoneExpire v now) s = .next t ∧ t = { u with kennels := t.kennels } ∧
      tombsOf t x = (tombsOf u x).filter (fun t => u.fclk < t.death)) ∧
    (∀ port : Fin 8,
      let at' := tget b.firsts port.val 0 + shbFlush x.vert.cfg
      (u.fclk < at' → exec (.eventTileFlush ⟨v, now⟩ port) s = .next s) ∧
      (at' ≤ u.fclk → tget b.outs port.val [] = [] → exec (.eventTileFlush ⟨v, now⟩ port) s = .next u) ∧
      (at' ≤ u.fclk → tget b.outs port.val [] ≠ [] →
        ∃ t y tile, exec (.eventTileFlush ⟨v, now⟩ port) s = .next t ∧ vx? t v = some y ∧
          y.st.outq = x.st.outq ++ [(port.val, .tile tile)] ∧ tget (buildOf y.st).outs port.val [] = [] ∧
          y.job.rowid = (x.job.rowid + (tget b.outs port.val []).length) % 2 ^ 48 ∧
          y.job.rowArb.last = x.vert.inst)) ∧
    (∀ port row, b.heldRows = [(port, row)] → x.st.outq = [] → nextBlock x = [] →
      (tget b.outs port []).length + 1 < 2 ^ outCap x.plan x.vid port →
      ∃ t y, exec (.sheIntakeResume v now) s = .next t ∧ vx? t v = some y ∧ (buildOf y.st).heldRows = [] ∧
        tget (buildOf y.st).outs port [] = tget b.outs port [] ++ [row] ∧
        (tget b.outs port [] = [] → tget (buildOf y.st).firsts port 0 = u.fclk))) ∧
  (∀ (v : VertexRef) (now : Nat) (s : State) (x : Vx) (eid : Nat) (e : Edge) (g : EdgeSt),
    let u := tickTo s now
    vx? u v = some x → x.vert.kind = kSrcIngest → vxLive x = true → x.st.endSent = false →
    (ingestOf x.st).early = [] → outEdge? x.plan x.vid 0 = some (eid, e) → x.job.edges[eid]? = some g →
    let opens := (ingestOf x.st).opens
    ((∀ o ∈ opens, u.fclk < blockDue o.2) → exec (.fragmentBlockPublish ⟨v, now⟩) s = .next u) ∧
    (∀ key o, opens = [(key, o)] → blockDue o ≤ u.fclk →
      ∃ t y, exec (.fragmentBlockPublish ⟨v, now⟩) s = .next t ∧ vx? t v = some y ∧ (ingestOf y.st).opens = [] ∧
        y.job.edges[eid]? = some { g with queues := g.queues.mapIdx (fun i q =>
          if eDeal e && i != key then q else q ++ [.block o.slot (fragBlock o.frags)]) }))

def Obligations.FacetEngines : Prop := facetCommands

def Obligations.SortAndAggregation : Prop := sortCommands ∧ aggCommands

def Obligations.JoinsAndEvents : Prop := joinCommands ∧ shepherdFragments ∧ shepherdUpkeep


/-! ### Work queues: entries at the head -/

/-- The entry stands at the head of a WQ whose turn it is, and its header is right (R373, R374, R379). -/
def Sys2Proof.Claims.headEntry (s : State) (r : QueueRef) (q : Wq) (e : Bytes) : Prop :=
  wq? s r.k.val r.w.val = some q ∧ q.push = none ∧ fetchable s r.k.val q = true ∧ q.waits = 0 ∧
  fetchTurn s = some (r.k.val, r.w.val) ∧ e.length = 16 * (le e 1 1 + 1) ∧
  q.ci % wqUnits q + le e 1 1 + 1 ≤ wqUnits q ∧ le e 1 1 + 1 ≤ wqLeft q ∧ le e 2 2 < 4 ∧
  zeroes e 6 10 = true ∧ (bitAt (le e 2 2) 0 = true → q.inflight = [])

/-- The WQ has given up its head entry, which is in flight (R371, R375). -/
def Sys2Proof.Claims.tookEntry (s t : State) (r : QueueRef) (q : Wq) (e : Bytes) (work : Work) : Prop :=
  wq? t r.k.val r.w.val = some { q with
    ci := (q.ci + le e 1 1 + 1) % 2 ^ 32, seq := (q.seq + 1) % 2 ^ 32, ciDirty := true,
    inflight := q.inflight ++ [{
      seq := q.seq, opc := le e 0 1, tag := le e 4 2, solicit := bitAt (le e 2 2) 1, work,
      space := entrySpace e }] } ∧
  counted s t 0xE0010 1

/-- The WQ has given up its head entry, and its completion has been written: status, and the
entry no longer in flight (R371, R380). -/
def Sys2Proof.Claims.finishedEntry (s t : State) (r : QueueRef) (q : Wq) (e : Bytes) (c : Cq) (status : Nat) : Prop :=
  (∃ last, wq? t r.k.val r.w.val = some { q with
    ci := (q.ci + le e 1 1 + 1) % 2 ^ 32, seq := (q.seq + 1) % 2 ^ 32, ciDirty := true,
    inflight := q.inflight.filter (fun f => f.seq != q.seq), lastSeq := some last }) ∧
  cqeOut s t r.k.val c (cqeBytes (le e 4 2) status (le e 0 1) r.w.val 0xFFFF 0 0 q.seq)

/-- No entry of the WQ in flight has the SEQNO that the next one gets. -/
def Sys2Proof.Claims.freshSeq (q : Wq) : Prop := ∀ f ∈ q.inflight, f.seq ≠ q.seq

/-! ### Scent, compression, digests -/

/-- A search answers a tile or a skip mark; in one bank it finds the verified addresses of its
match array in order; patrol repairs a row from the verify copy, and clears a row that cannot
be read; loads and invalidations write both copies and complete (R194 to R203). -/
def Sys2Proof.Claims.scentCommands : Prop :=
  (∀ (v : VertexRef) (ecc : List EccHit) (s : State) (x : Vx), liveVx s v = some x → x.vert.kind = kScent →
    x.st.outq = [] →
    (∀ q, headSkip x 0 = some q → ∃ t y, exec (.scentSearchTile v ecc) s = .next t ∧ vx? t v = some y ∧
      y.st.outq = skipOuts x q ∧ inQueue y 0 = (inQueue x 0).drop 1 ∧ t.scent = s.scent) ∧
    (∀ b p rows, headTile x 0 = some b → readTile s x b = .ok p → scentRows x.vert.cfg p = .ok rows →
      let errs := fun (i : Nat) => (ecc.filter (fun h => x.vert.units[i]? == some h.bank.val)).map
        (fun h => (h.row.val, h.ue))
      let run := rows.foldl (scentRow (scentReplica x.vert.cfg) errs) {
        banks := x.vert.units.map (scentBank s), counts := x.vert.units.map (fun _ => noScentCounts)
        next := scentNextOf s x }
      (∀ b', run.ue = false → scentEmit x.vert.cfg p run.results = .ok (.tile b') →
        ∃ t y, exec (.scentSearchTile v ecc) s = .next t ∧ vx? t v = some y ∧ y.st.outq = [(0, .tile b')] ∧
          inQueue y 0 = (inQueue x 0).drop 1) ∧
      (run.ue = true → ∃ t, exec (.scentSearchTile v ecc) s = .next t ∧ jobFailed t x eScnEcc))) ∧
  (∀ (key m : Nat) (b : ScentBank), b.matchArr = b.verify → (b.verify.map (·.1)).Nodup →
    (scentBankSearch key m [] b).rows = (b.verify.filter (fun e => scentMatches key m e.2)).map (·.1) ∧
    (scentBankSearch key m [] b).bank = b ∧ (scentBankSearch key m [] b).ue = false) ∧
  (∀ (b : Fin 8) (ecc : EccOutcome) (s : State),
    let k := scentBank s b.val
    ∃ t, exec (.scentPatrol b ecc) s = .next t ∧ (scentBank t b.val).patrol = (k.patrol + 1) % 32768 ∧
      (∀ n, n ≠ b.val → scentBank t n = scentBank s n) ∧
      (ecc ≠ .uncorrectable → (scentBank t b.val).verify = k.verify ∧
        scentGet (scentBank t b.val).matchArr k.patrol = scentGet k.verify k.patrol ∧
        counted s t (0x90020 + 0x1000 * b.val) (if ecc = .corrected then 1 else 0) ∧
        counted s t (0x9002C + 0x1000 * b.val)
          (if scentGet k.matchArr k.patrol = scentGet k.verify k.patrol then 0 else 1)) ∧
      (ecc = .uncorrectable → (scentGet (scentBank t b.val).verify k.patrol).2 = false ∧
        (scentGet (scentBank t b.val).matchArr k.patrol).2 = false ∧
        counted s t (0x90024 + 0x1000 * b.val) 1 ∧ evtPending t (48 + b.val) = true)) ∧
  (∀ (r : QueueRef) (e : Bytes) (host : HostRead) (s : State) (q : Wq) (c : Cq), headEntry s r q e →
    freshSeq q → cqRoom s r.k.val q.cq c →
    let k := r.k.val
    (∀ err, le e 0 1 = 0x28 → scnFault s k 0x28 e = some err → ∃ t, exec (.scnLoad r e host) s = .next t ∧
      finishedEntry s t r q e c err ∧ t.scent = s.scent) ∧
    (∀ v data, le e 0 1 = 0x28 → scnFault s k 0x28 e = none → scnTarget s k e = some v → le e 20 1 = 0 →
      host = some data → 16 * seCount e ≤ data.length → v.units.Nodup → scentReplica v.cfg = false →
      ∃ t, exec (.scnLoad r e host) s = .next t ∧ finishedEntry s t r q e c 0 ∧
        ∀ i u, i < seCount e → v.units[(seFirst e + i) / 32768]? = some u →
          scentGet (scentBank t u).matchArr ((seFirst e + i) % 32768) = (le data (16 * i) 16, true) ∧
          scentGet (scentBank t u).verify ((seFirst e + i) % 32768) = (le data (16 * i) 16, true)) ∧
    (∀ v, le e 0 1 = 0x29 → scnFault s k 0x29 e = none → scnTarget s k e = some v → v.units.Nodup →
      scentReplica v.cfg = false → ∃ t, exec (.scnInval r e) s = .next t ∧ finishedEntry s t r q e c 0 ∧
        ∀ i u, i < seCount e → v.units[(seFirst e + i) / 32768]? = some u →
          scentGet (scentBank t u).verify ((seFirst e + i) % 32768) =
            ((scentGet (scentBank s u).verify ((seFirst e + i) % 32768)).1, false)))

/-- A compression engine holds the newest piece of its stream back, and skip marks behind it,
and gives out the one before it; a decompressor answers each tile; a decoder error and a
failed check fail the job; a stream ends, and its state is saved and restored (R115, R302 to
R316). -/
def Sys2Proof.Claims.compressCommands : Prop :=
  (∀ (cze : Fin 4) (s : State) (x : Vx) (q : Nat), headSkip x 0 = some q →
    (servedCze s cze 0 = some x → ∀ ok, ∃ t, exec (.czeCompressTile cze ok) s = .next t ∧
      ((czeOf x.st).held = none → worked t (.cze cze) x 0 (skipOuts x q) (.cze (czeOf x.st))) ∧
      ((czeOf x.st).held ≠ none → worked t (.cze cze) x 0 []
        (.cze { czeOf x.st with skips := (czeOf x.st).skips ++ [q] }))) ∧
    (servedCze s cze 1 = some x → ∃ t, exec (.czeDecompressTile cze) s = .next t ∧
      worked t (.cze cze) x 0 (skipOuts x q) x.st.eng)) ∧
  (∀ (cze : Fin 4) (ok : Bool) (s : State) (x : Vx) (b data : Bytes) (p : PTile), servedCze s cze 0 = some x →
    headTile x 0 = some b → readTile s x b = .ok p → czeInput x.vert.cfg p b = .ok data →
    let st := czeOf x.st
    let r := encodeTile x.vert.cfg st data
    (czeClass x.vert.cfg = 0 → ok = false → ∃ t, exec (.czeCompressTile cze ok) s = .next t ∧
      jobFailed t x eCzeVerify ∧ evtPending t (56 + cze.val) = true) ∧
    (czeClass x.vert.cfg ≠ 0 ∨ ok = true → ∃ t, exec (.czeCompressTile cze ok) s = .next t ∧
      (r.out ≠ [] → worked t (.cze cze) x 0 (st.held.toList.flatMap (czeHeldOuts x))
        (.cze { r.st with held := some (r.out, p.seq, r.st.coff - r.out.length), skips := [] })))) ∧
  (∀ (cze : Fin 4) (s : State) (x : Vx) (b data : Bytes) (p : PTile), servedCze s cze 1 = some x →
    headTile x 0 = some b → readTile s x b = .ok p → byteStrip (czeCol x.vert.cfg) 8 p = .ok data →
    (∀ e, decodeStream x.vert.cfg (data.length + 1) { st := czeOf x.st } data = .error e →
      ∃ t, exec (.czeDecompressTile cze) s = .next t ∧ jobFailed t x e.1) ∧
    (∀ r o, decodeStream x.vert.cfg (data.length + 1) { st := czeOf x.st } data = .ok r →
      czeOutput s x p.seq (r.first.getD 0) r.out.reverse = .ok o →
      ∃ t, exec (.czeDecompressTile cze) s = .next t ∧ worked t (.cze cze) x 0 (match o with
        | some b => [(0, .tile b)]
        | none => skipOuts x p.seq) (.cze r.st))) ∧
  (∀ (v : VertexRef) (s : State) (x : Vx), liveCze s v = some x →
    let cfg := x.vert.cfg
    let st := czeOf x.st
    let became (c : Instr) (outs : List (Nat × OItem)) (now : CzeSt) (fin : Bool) : Prop :=
      ∃ t y, exec c s = .next t ∧ vx? t v = some y ∧ y.st.outq = outs ∧ czeOf y.st = now ∧ y.st.finished = fin
    (x.st.finished = false → x.st.outq = [] → portEnded x 0 = true → (czeRestore cfg && !st.restored) = false →
      (czeDir cfg = 1 → st.isOpen = true → czeSave cfg = false → ∃ t, exec (.czeEndMark v) s = .next t ∧
        jobFailed t x eCzeTruncated) ∧
      (czeDir cfg = 1 → (st.isOpen = false ∨ czeSave cfg = true) → became (.czeEndMark v) [] st true) ∧
      (czeDir cfg = 0 → st.held = none → became (.czeEndMark v) [] st true) ∧
      (∀ h, czeDir cfg = 0 → st.held = some h → czeSave cfg = true →
        became (.czeEndMark v) (czeHeldOuts x h) { st with held := none, skips := [] } true) ∧
      (∀ h, czeDir cfg = 0 → st.held = some h → czeSave cfg = false →
        let e := endBlock st
        became (.czeEndMark v) (czeHeldOuts x (h.1 ++ e, h.2))
          { st with held := none, skips := [], isOpen := false, coff := st.coff + e.length } true)) ∧
    (∀ sp, czeRestore cfg = true → st.restored = false → ownSpace s x.job.kennel (czeTs cfg) = some sp →
      czeOff cfg + czeAreaLen cfg ≤ spaceSize sp →
      let head := tsRead s sp (czeOff cfg) 256
      let hist := tsRead s sp (czeOff cfg + 256) (if le head.1 12 4 ≤ 2 ^ czeWlog cfg then le head.1 12 4 else 0)
      head.2 = false → hist.2 = false →
      (∀ now, czeRestored cfg (head.1 ++ hist.1) = some now →
        became (.czeStateRestore v) x.st.outq { now with restored := true } x.st.finished) ∧
      (czeRestored cfg (head.1 ++ hist.1) = none → ∃ t, exec (.czeStateRestore v) s = .next t ∧
        jobFailed t x eCzeState)) ∧
    (∀ sp, czeSave cfg = true → st.saved = false → x.st.finished = true → x.st.outq = [] →
      ownSpace s x.job.kennel (czeTs cfg) = some sp →
      inSpace s x.job.kennel (czeTs cfg) (czeOff cfg) (czeAreaLen cfg) = true →
      became (.czeStateSave v) [] { st with saved := true } true ∧
      ∃ t, exec (.czeStateSave v) s = .next t ∧ t.dram = (tsWrite s sp (czeOff cfg) (czeArea cfg st)).dram ∧
        t.shc = (tsWrite s sp (czeOff cfg) (czeArea cfg st)).shc))

/-- A DGE command that finds none before it is taken at once: it fails by its first check, or
opens, feeds, reads, compares or frees a context, or loads a key, and completes; an update
with a whole block waits for the pipes (R323 to R332). -/
def Sys2Proof.Claims.digestCommands : Prop :=
  ∀ (r : QueueRef) (e : Bytes) (host cust : HostRead) (s : State) (q : Wq) (c : Cq), headEntry s r q e →
    freshSeq q → cqRoom s r.k.val q.cq c → s.dge.cmds = [] → unitGated s .dge = false →
    dgeLenOk (le e 0 1) (le e 1 1) = true →
    let k := r.k.val
    let b := e.drop 16
    let cmd (host cust : HostRead) : DgeCmd := {
      order := s.nextOrder, kennel := k, wq := r.w.val, seq := q.seq, opc := le e 0 1, body := b, host, cust }
    let id := le b 0 2
    let kept (t : State) : Prop := t.dge.cmds = [] ∧ t.dge.slots = s.dge.slots
    (le e 0 1 = 0x30 →
      (∀ err, dgeFault s (cmd none none) = some err → ∃ t, exec (.dgeInit r e) s = .next t ∧
        finishedEntry s t r q e c err ∧ t.dge = s.dge) ∧
      (∀ i, dgeFault s (cmd none none) = none → dgePoolFree s k = true → freeCtx s = some i →
        ∃ t, exec (.dgeInit r e) s = .next t ∧ finishedEntry s t r q e c 0 ∧ kept t ∧
          t.dge.ctxs = tset s.dge.ctxs i {
            kennel := k, user := .msg id, alg := le b 2 1, slot := le b 3 1, outlen := le b 4 1 }) ∧
      (dgeFault s (cmd none none) = none → dgePoolFree s k = false → ∃ t, exec (.dgeInit r e) s = .next t ∧
        tookEntry s t r q e (.dge s.nextOrder) ∧ counted s t 0xC0028 1 ∧
        t.dge = { s.dge with cmds := [cmd none none] })) ∧
    (∀ i x data, le e 0 1 = 0x31 → dgeFault s (cmd host none) = none → msgCtx s k id = some (i, x) →
      dgeSource s k (le b 2 1) (le b 4 2) (le b 8 8) (le b 16 8) host = .ok data →
      let y := ctxTake (if x.state = .finished then ctxEmpty x else x) (ctxSlot s x) data (le b 3 1 == 1)
      (ctxReady y = false → ∃ t, exec (.dgeUpdate r e host) s = .next t ∧ finishedEntry s t r q e c 0 ∧ kept t ∧
        t.dge.ctxs = tset s.dge.ctxs i y) ∧
      (ctxReady y = true → ∃ t, exec (.dgeUpdate r e host) s = .next t ∧
        tookEntry s t r q e (.dge s.nextOrder) ∧
        t.dge = { s.dge with ctxs := tset s.dge.ctxs i y, cmds := [{ cmd host none with started := true }] })) ∧
    (∀ i x, dgeFault s (cmd none none) = none → msgCtx s k id = some (i, x) →
      (le e 0 1 = 0x32 → x.output.take x.outlen ≠ [] → ∃ t, exec (.dgeRead r e) s = .next t ∧ kept t ∧
        finishedEntry { s with out := s.out ++ [.hostWrite (pasidOf s k) (le b 8 8 % 2 ^ 64) (x.output.take x.outlen)] }
          t r q e c 0 ∧
        t.dge.ctxs = if le b 2 1 = 1 then tdel s.dge.ctxs i else s.dge.ctxs) ∧
      (le e 0 1 = 0x33 →
        let same := x.output.take (le b 3 1) == (b.drop 16).take (le b 3 1)
        ∃ t, exec (.dgeVerify r e) s = .next t ∧ kept t ∧
          finishedEntry s t r q e c (if same then 0 else eDgeMismatch) ∧
          counted s t (if same then 0xC0020 else 0xC0024) 1 ∧
          t.dge.ctxs = if le b 2 1 = 1 then tdel s.dge.ctxs i else s.dge.ctxs) ∧
      (le e 0 1 = 0x34 → ∃ t, exec (.dgeClose r e) s = .next t ∧ finishedEntry s t r q e c 0 ∧ kept t ∧
        t.dge.ctxs = tdel s.dge.ctxs i)) ∧
    (le e 0 1 = 0x35 → dgeFault s (cmd host cust) = none →
      let n := le b 0 1
      (le b 3 1 = 1 → ∃ t, exec (.dgeKey r e host cust) s = .next t ∧ finishedEntry s t r q e c 0 ∧
        t.dge = { s.dge with slots := tdel s.dge.slots n }) ∧
      (∀ key sp, le b 3 1 ≠ 1 → dgeSource s k (le b 2 1) (le b 4 2) (le b 8 8) (le b 6 2) host = .ok key →
        dgeSource s k (le b 2 1) (le b 4 2) (le b 16 8) (le b 24 2) cust = .ok sp →
        ∃ t, exec (.dgeKey r e host cust) s = .next t ∧ finishedEntry s t r q e c 0 ∧ counted s t 0xC002C 1 ∧
          t.dge = { s.dge with slots := tset s.dge.slots n {
            kennel := k, alg := le b 1 1, inner := (keyStates (le b 1 1) key sp).1
            outer := (keyStates (le b 1 1) key sp).2 } }))

/-- A waiting DGE_INIT gets a context of its pool in turn; a pipe hashes one block of the next
ready context; a DGE vertex takes a tile into an idle context, and passes skip marks (R323,
R325, R334). -/
def Sys2Proof.Claims.digestWork : Prop :=
  (∀ (s : State) (k : Nat) (cmd : DgeCmd) (i : Nat), dgeNextInit s = some (k, cmd) → freeCtx s = some i →
    s.dge.cmds = [cmd] → ∃ t, exec .dgeInitGrant s = .next t ∧ t.dge = { s.dge with
      cmds := [], initArb := s.dge.initArb.won (dgeInitKennels s) k, ctxs := tset s.dge.ctxs i {
        kennel := cmd.kennel, user := .msg (le cmd.body 0 2), alg := le cmd.body 2 1
        slot := le cmd.body 3 1, outlen := le cmd.body 4 1 } }) ∧
  (∀ (pipe : Fin 8) (s : State) (i : Nat) (x : DgeCtx), s.dge.pipeArb.pick (arbAge s) (pipeReady s) = some i →
    let arb := s.dge.pipeArb.won (pipeReady s) i
    tfind? s.dge.ctxs i = some x →
    let y := ctxBlock x (ctxSlot s x)
    (ctxReady y = true → ∃ t, exec (.dgeBlock pipe) s = .next t ∧ counted s t 0xC0018 1 ∧
      t.dge = { s.dge with pipeArb := arb, ctxs := tset s.dge.ctxs i y } ∧ t.jobs = s.jobs) ∧
    (∀ id cmd, ctxReady y = false → x.user = .msg id → s.dge.cmds = [cmd] → cmd.started = true →
      cmd.kennel = x.kennel → dgeMsg cmd = some id → ∃ t, exec (.dgeBlock pipe) s = .next t ∧
        counted s t 0xC0018 1 ∧ t.dge = { s.dge with pipeArb := arb, cmds := [], ctxs := tset s.dge.ctxs i y })) ∧
  (∀ (v : VertexRef) (s : State) (x : Vx), liveVx s v = some x → x.vert.kind = kDge → x.st.outq = [] →
    (∀ q, headSkip x 0 = some q → (dvJob x.vert.cfg = true ∨ dgeOf x.st = []) →
      ∃ t y, exec (.dgeVertexTile v) s = .next t ∧ vx? t v = some y ∧
      y.st.outq = skipOuts x q ∧ inQueue y 0 = (inQueue x 0).drop 1 ∧ t.dge = s.dge) ∧
    (∀ b p data i y, headTile x 0 = some b → readTile s x b = .ok p → digestInput x.vert.cfg p b = .ok data →
      digestKeyed s x = true → dvJob x.vert.cfg = false → idleCtx s x = some (i, y) →
      ∃ t z, exec (.dgeVertexTile v) s = .next t ∧ vx? t v = some z ∧
        dgeOf z.st = dgeOf x.st ++ [{ seq := p.seq, digest := none }] ∧
        inQueue z 0 = (inQueue x 0).drop 1 ∧ t.dge = { s.dge with
          ctxs := tset s.dge.ctxs i { ctxTake y (ctxSlot s y) data true with tile := some (x.j, p.seq) } }) ∧
    (∀ b p e, headTile x 0 = some b → readTile s x b = .ok p → digestInput x.vert.cfg p b = .error e →
      ∃ t, exec (.dgeVertexTile v) s = .next t ∧ jobFailed t x e))

def Obligations.ScentBanks : Prop := scentCommands

def Obligations.Compression : Prop := compressCommands

def Obligations.Digests : Prop := digestCommands ∧ digestWork


/-! ### Queues -/

/-- The WQ may be fetched now, and nothing is known of its head (R379). -/
def Sys2Proof.Claims.turnOf (s : State) (r : QueueRef) (q : Wq) : Prop :=
  wq? s r.k.val r.w.val = some q ∧ q.push = none ∧ fetchable s r.k.val q = true ∧ q.waits = 0 ∧
  fetchTurn s = some (r.k.val, r.w.val)

/-- The WQ has stopped with a status, in a completion of its own (R374). -/
def Sys2Proof.Claims.stoppedWq (s t : State) (k w : Nat) (q : Wq) (c : Cq) (tag status opc : Nat) : Prop :=
  wq? t k w = some { q with stopped := true, waits := 0, push := none, reading := false
                            again := false, recorded := false } ∧
  cqeOut s t k c (cqeBytes tag status opc w 0xFFFF 0 0 q.seq) ∧ evtPending t (256 + k) = true ∧
  counted s t 0xE0030 1

/-- An entry at the head: NOP completes with 0, an OPC that no command has with E_WQ_OPCODE;
a header that cannot be read, or a LEN that the ring does not hold, stops the WQ (R372 to
R374). -/
def Sys2Proof.Claims.fetchCommands : Prop :=
  ∀ (r : QueueRef) (s : State) (q : Wq) (c : Cq), cqRoom s r.k.val q.cq c →
    (∀ e, headEntry s r q e → freshSeq q →
      (le e 0 1 = 1 → ∃ t, exec (.nop r e) s = .next t ∧ finishedEntry s t r q e c 0 ∧ t.jobs = s.jobs) ∧
      (le e 0 1 = 1 → ∃ t, exec (.wqFetch r (some e) none none) s = .next t ∧ finishedEntry s t r q e c 0) ∧
      (le e 0 1 ∉ [1, 0x10, 0x11, 0x12, 0x13, 0x20, 0x28, 0x29, 0x30, 0x31, 0x32, 0x33, 0x34, 0x35] →
        ∃ t, exec (.wqFetch r (some e) none none) s = .next t ∧ finishedEntry s t r q e c 0x0102)) ∧
    (turnOf s r q →
      (∃ t, exec (.wqFetch r none none none) s = .next t ∧ stoppedWq s t r.k.val r.w.val q c 0xFFFF 0x0105 0xFF ∧
        (regVal t (0x1003100 + 0x10000 * r.k.val)).testBit 7 = true) ∧
      (∀ e : Bytes, 16 ≤ e.length →
        (wqUnits q < q.ci % wqUnits q + le e 1 1 + 1 ∨ wqLeft q < le e 1 1 + 1) →
        ∃ t, exec (.wqFetch r (some e) none none) s = .next t ∧
          stoppedWq s t r.k.val r.w.val q c (le e 4 2) 0x0101 (le e 0 1)))

/-- JOB_START starts a job of its plan, completes with the first check that it fails, or
waits for a slot (R26, R103 to R107). -/
def Sys2Proof.Claims.jobStarts : Prop :=
  ∀ (r : QueueRef) (e : Bytes) (s : State) (q : Wq), headEntry s r q e → le e 0 1 = 0x20 →
    let k := r.k.val
    (∀ p, jobSlotFree s k r.w.val (jePlan e) = true → jobFault s k e = none → plan? s k (jePlan e) = some p →
      (∀ v ∈ p.verts, v.kind ≠ kExch) → ∃ t, exec (.jobStart r e) s = .next t ∧
        tookEntry s t r q e (.job s.nextJob) ∧ job? t s.nextJob = some (newJob s k r.w.val q.seq e p) ∧
        t.nextJob = s.nextJob + 1 ∧ (∀ j, j ≠ s.nextJob → job? t j = job? s j) ∧ t.out = s.out) ∧
    (∀ status vid c, jobSlotFree s k r.w.val (jePlan e) = true → jobFault s k e = some (status, vid) → freshSeq q →
      cqRoom s k q.cq c → ∃ t, exec (.jobStart r e) s = .next t ∧
        cqeOut s t k c (cqeBytes (le e 4 2) status 0x20 r.w.val vid 0 0 q.seq) ∧ job? t s.nextJob = none ∧
        (∀ j, j ≠ s.nextJob → job? t j = job? s j)) ∧
    (jobSlotFree s k r.w.val (jePlan e) = false → ∃ t, exec (.jobStart r e) s = .next t ∧
      wq? t k r.w.val = some { q with waits := 1 } ∧ t.jobs = s.jobs ∧ t.out = s.out ∧
      ((∀ p, plan? s k (jePlan e) = some p → jobsOfPlan s k p.handle < p.maxJobs) →
        { kennel := k, a := r.w.val } ∈ t.slots.jobWait)) ∧
    (plan? s k (jePlan e) = none → jobFault s k e = some (0x0420, 0xFFFF))

/-- Doorbells start a shadow read, or are recorded while nothing is fetched; a push carries
PI and its entry; the shadow gives PI, which must lie in the ring; CI goes back (R375 to
R378). -/
def Sys2Proof.Claims.doorbellCommands : Prop :=
  ∀ (r : QueueRef) (s : State) (q : Wq), wq? s r.k.val r.w.val = some q →
    let k := r.k.val
    let w := r.w.val
    let rung (q : Wq) : Wq := if doorsOpen s k then
        (if q.reading then { q with again := true } else { q with reading := true })
      else { q with recorded := true }
    (barOpen s = true → q.stopped = false → q.reset = none →
      (∃ t, exec (.wqDoorbell r) s = .next t ∧ wq? t k w = some (rung q) ∧ t = { s with kennels := t.kennels }) ∧
      (∀ (data : Bytes) (full : Bool),
        (full = true → data.length = 64 → bitAt (le data 4 1) 0 = true → q.push = none → doorsOpen s k = true →
          (le data 0 4 + 2 ^ 32 - q.ci) % 2 ^ 32 ≤ wqUnits q → ∃ t, exec (.pushDoorbell r data full) s = .next t ∧
            wq? t k w = some { q with push := some (q.pi, data.drop 8), pi := le data 0 4 } ∧
            counted s t 0xE0014 1) ∧
        (full = false ∨ data.length ≠ 64 ∨ bitAt (le data 4 1) 0 = false ∨ q.push ≠ none ∨ doorsOpen s k = false →
          ∃ t, exec (.pushDoorbell r data full) s = .next t ∧ wq? t k w = some (rung q) ∧ counted s t 0xE0018 1))) ∧
    (q.reading = true → hostFor s k = true →
      (∀ v : BitVec 32, (v.toNat + 2 ^ 32 - q.ci) % 2 ^ 32 ≤ wqUnits q →
        ∃ t, exec (.wqShadowRead r (some v)) s = .next t ∧
          wq? t k w = some { q with pi := v.toNat, reading := q.again, again := false } ∧
          t = { s with kennels := t.kennels }) ∧
      (∀ c, cqRoom s k q.cq c →
        (∃ t, exec (.wqShadowRead r none) s = .next t ∧ stoppedWq s t k w q c 0xFFFF 0x0105 0xFF) ∧
        (∀ v : BitVec 32, wqUnits q < (v.toNat + 2 ^ 32 - q.ci) % 2 ^ 32 →
          ∃ t, exec (.wqShadowRead r (some v)) s = .next t ∧ stoppedWq s t k w q c 0xFFFF 0x0103 0xFF))) ∧
    (q.ciDirty = true → hostFor s k = true → ∃ t, exec (.wqCiWrite r) s = .next t ∧
      wq? t k w = some { q with ciDirty := false } ∧
      t = { s with kennels := t.kennels, out := s.out ++ [.hostWrite (pasidOf s k) ((q.shadow + 8) % 2 ^ 64) (toLe 4 q.ci)] })

/-- CI of a CQ is taken where it lies in the ring, from the doorbell's read or, while the CQ
is full, from a poll; a buffered completion is written once there is space; moderation fires
(R382, R383, R385). -/
def Sys2Proof.Claims.completionCommands : Prop :=
  ∀ (r : CqRef) (s : State) (q : Cq), cq? s r.k.val r.c.val = some q →
    let k := r.k.val
    let c := r.c.val
    (hostFor s k = true →
      (exec (.cqDoorbell r none) s = .next (kennelError s k)) ∧
      (∀ v : BitVec 32, (q.tail + 2 ^ 32 - v.toNat) % 2 ^ 32 ≤ cqSize q →
        (∃ t, exec (.cqDoorbell r (some v)) s = .next t ∧ cq? t k c = some { q with ci := v.toNat } ∧
          t = { s with kennels := t.kennels }) ∧
        (∀ x, kennel? s k = some x → cqUsed q = cqSize q → (∃ e, e ∈ x.ovf ++ x.stalled ∧ e.cq = c) →
          ∃ t, exec (.cqCiPoll r (some v)) s = .next t ∧ cq? t k c = some { q with ci := v.toNat } ∧
            t = { s with kennels := t.kennels })) ∧
      (∀ v : BitVec 32, cqSize q < (q.tail + 2 ^ 32 - v.toNat) % 2 ^ 32 →
        ∃ t, exec (.cqDoorbell r (some v)) s = .next t ∧ t = { s with regs := t.regs } ∧ counted s t 0xE002C 1)) ∧
    (∀ x pre e post, kennel? s k = some x → hostFor s k = true → devErr s = false → cqUsed q ≠ cqSize q →
      x.ovf = pre ++ e :: post → (∀ f ∈ pre, f.cq ≠ c) → e.cq = c → x.stalled = [] →
      ∃ u y, exec (.cqOverflowDrain r) s = .next (dgeRun u) ∧ cqeOut s u k q e.bytes ∧
        kennel? u k = some y ∧ y.ovf = pre ++ post ∧ y.wqs = x.wqs) ∧
    (q.timer = true → hostUp s = true →
      (1 ≤ q.pend → ∃ t, exec (.cqModTimer r) s = .next t ∧
        cq? t k c = some { q with pend := 0, timer := false } ∧ t.out = s.out ∧
        t.vreq = if q.irq then addNew s.vreq q.vector else s.vreq) ∧
      (q.pend = 0 → ∃ t, exec (.cqModTimer r) s = .next t ∧ cq? t k c = some { q with timer := false } ∧
        t = { s with kennels := t.kennels }))

/-- The work queue that a descriptor describes (R366). -/
def Sys2Proof.Claims.wqOf (b : Bytes) : Wq := { ring := le b 0 8, shadow := le b 8 8, log2 := le b 16 1, cq := le b 18 1 }

/-- The completion queue that a descriptor describes (R367). -/
def Sys2Proof.Claims.cqOf (b : Bytes) : Cq :=
  { ring := le b 0 8, shadow := le b 8 8, log2 := le b 16 1, modCount := le b 18 1,
    irq := (le b 19 1).testBit 1, wake := (le b 19 1).testBit 0, modTime := le b 20 2, vector := le b 22 2 }

/-- WQs and CQs are created from right descriptors, their shadows zeroed, and destroyed once
nothing uses them (R366 to R368, R561). -/
def Sys2Proof.Claims.queueMessages : Prop :=
  ∀ (mb : Mb) (m : Msg) (s : State) (x : Kennel), kennel? s (mbKennel (mbNum mb)) = some x →
    let k := mbKennel (mbNum mb)
    let b := m.body
    let ans (c : Instr) (opc status : Nat) : Prop := ∃ t, exec c s = .next t ∧ replied s t (dmpMsg mb opc m) status [] id
    (served s (dmpMsg mb 0x0200 m) →
      (wqFieldsOk b = false → ans (.wqCreate mb m) 0x0200 0x0110) ∧
      (wqFieldsOk b = true → (wq? s k (le b 17 1) ≠ none ∨ cq? s k (le b 18 1) = none) →
        ans (.wqCreate mb m) 0x0200 0x0111) ∧
      (wqFieldsOk b = true → wq? s k (le b 17 1) = none → cq? s k (le b 18 1) ≠ none →
        ∃ t, exec (.wqCreate mb m) s = .next t ∧ wq? t k (le b 17 1) = some (wqOf b) ∧
          replied s t (dmpMsg mb 0x0200 m) 0 [] (fun u => { u with
            kennels := tmod u.kennels k (fun x => { x with wqs := tset x.wqs (le b 17 1) (wqOf b) })
            out := u.out ++ [.hostWrite x.pasid ((le b 8 8 + 8) % 2 ^ 64) (zeros 4)] }))) ∧
    (served s (dmpMsg mb 0x0201 m) →
      (16 ≤ le b 0 1 ∨ zeroes b 1 7 = false → ans (.wqDestroy mb m) 0x0201 0x0110) ∧
      (le b 0 1 < 16 → zeroes b 1 7 = true →
        (wq? s k (le b 0 1) = none → ans (.wqDestroy mb m) 0x0201 0x0111) ∧
        (∀ q, wq? s k (le b 0 1) = some q → (q.inflight ≠ [] ∨ q.reset ≠ none) →
          ans (.wqDestroy mb m) 0x0201 0x0113) ∧
        (∀ q, wq? s k (le b 0 1) = some q → q.inflight = [] → q.reset = none →
          ∃ t, exec (.wqDestroy mb m) s = .next t ∧ wq? t k (le b 0 1) = none ∧
            (∀ w, w ≠ le b 0 1 → wq? t k w = wq? s k w) ∧ regVal t (mbReg (mbNum mb)) = 2))) ∧
    (served s (dmpMsg mb 0x0202 m) →
      (cqFieldsOk b = false → ans (.cqCreate mb m) 0x0202 0x0110) ∧
      (cqFieldsOk b = true → cq? s k (le b 17 1) ≠ none → ans (.cqCreate mb m) 0x0202 0x0111) ∧
      (cqFieldsOk b = true → cq? s k (le b 17 1) = none →
        (vecBase x.share ≤ le b 22 2 ∧ le b 22 2 < vecBase x.share + vecCount x.share →
          ∃ t, exec (.cqCreate mb m) s = .next t ∧ cq? t k (le b 17 1) = some (cqOf b) ∧
            replied s t (dmpMsg mb 0x0202 m) 0 [] (fun u => { u with
              kennels := tmod u.kennels k (fun x => { x with cqs := tset x.cqs (le b 17 1) (cqOf b) })
              out := u.out ++ [.hostWrite x.pasid (le b 8 8 % 2 ^ 64) (zeros 4)] })) ∧
        (le b 22 2 < vecBase x.share ∨ vecBase x.share + vecCount x.share ≤ le b 22 2 →
          ans (.cqCreate mb m) 0x0202 0x0112))) ∧
    (served s (dmpMsg mb 0x0203 m) → le b 0 1 < 16 → zeroes b 1 7 = true →
      (cq? s k (le b 0 1) = none → ans (.cqDestroy mb m) 0x0203 0x0111) ∧
      (cq? s k (le b 0 1) ≠ none → (∃ e ∈ x.wqs, e.2.cq = le b 0 1) → ans (.cqDestroy mb m) 0x0203 0x0113) ∧
      (cq? s k (le b 0 1) ≠ none → (∀ e ∈ x.wqs, e.2.cq ≠ le b 0 1) → (∀ e ∈ x.ovf ++ x.stalled, e.cq ≠ le b 0 1) →
        ∃ t, exec (.cqDestroy mb m) s = .next t ∧ cq? t k (le b 0 1) = none ∧
          (∀ c, c ≠ le b 0 1 → cq? t k c = cq? s k c) ∧ regVal t (mbReg (mbNum mb)) = 2))

/-- A queue reset discards what has not begun, lets finish what cannot be stopped and
abandons jobs; it completes when nothing is left, with its counts, and the CQ of reset WQs is
reset with them (R389 to R392). -/
def Sys2Proof.Claims.queueResets : Prop :=
  (∀ (mb : Mb) (m : Msg) (s : State), served s (dmpMsg mb 0x0204 m) →
    let k := mbKennel (mbNum mb)
    let b := m.body
    (zeroes b 2 6 = false → ∃ t, exec (.queueReset mb m) s = .next t ∧
      replied s t (dmpMsg mb 0x0204 m) 0x0F03 [] id) ∧
    (zeroes b 2 6 = true → (∀ w, w < 16 → (le b 0 2).testBit w = true → wq? s k w = none) →
      ∃ t, exec (.queueReset mb m) s = .next t ∧ replied s t (dmpMsg mb 0x0204 m) 0 (zeros 256) id) ∧
    (∀ w q, zeroes b 2 6 = true → w < 16 → le b 0 2 = 2 ^ w → wq? s k w = some q → q.reset = none →
      let begun (n : QReset) (stay : List Inflight) : Prop :=
        ∃ t y, exec (.queueReset mb m) s = .next t ∧ kennel? t k = some y ∧ mbBusy t (mbNum mb) = true ∧
          (∀ x, kennel? s k = some x → y.qreplies = x.qreplies ++ [{ mailbox := mbNum mb, left := [w] }]) ∧
          wq? t k w = some { q with inflight := stay, reset := some n, push := none, waits := 0, reading := false
                                    again := false, recorded := false, ciDirty := false } ∧
          ∀ f j, f ∈ stay → f.work = .job j → (job? t j).map (·.abandoned) = (job? s j).map (fun b => b.abandoned || !b.retired)
      (q.inflight = [] → ∃ n, begun { discarded := n, abandoned := 0, finished := 0, waitFor := [] } [] ∧
        (wqLeft q + 255) / 256 ≤ n ∧ n ≤ wqLeft q) ∧
      (∀ f j a, q.pi = q.ci → q.inflight = [f] → f.work = .job j → job? s j = some a → a.retired = false →
        (∃ v ∈ a.verts, v.stopped = false) → s.dge.cmds = [] → (∀ d ∈ s.store.cmds, d.opc ≠ 0x12) →
        begun { discarded := 0, abandoned := 1, finished := 0, waitFor := [f.seq] } [f]) ∧
      (∀ f o a, q.pi = q.ci → q.inflight = [f] → f.work = .ts o → tsCmd? s o = some a → s.dge.cmds = [] →
        (∀ d ∈ s.store.cmds, d.opc ≠ 0x12) →
        (a.issued = false → begun { discarded := 1, abandoned := 0, finished := 0, waitFor := [] } []) ∧
        (a.issued = true → begun { discarded := 0, abandoned := 0, finished := 1, waitFor := [f.seq] } [f])))) ∧
  (∀ (r : QueueRef) (s : State) (x : Kennel) (q : Wq) (n : QReset) (c : Cq), kennel? s r.k.val = some x →
    wq? s r.k.val r.w.val = some q → q.reset = some n → n.waitFor = [] → cqRoom s r.k.val q.cq c → x.state ≠ 3 →
    let k := r.k.val
    let w := r.w.val
    let last := q.lastSeq.getD 0xFFFFFFFF
    let bytes := cqeBytes 0xFFFF 0 0xFF w 0xFFFF (last + n.discarded * 2 ^ 32) (n.abandoned + n.finished * 2 ^ 32) q.seq
    let wrote (t u : State) : Prop := cqeOut s u k c bytes ∧
      wq? t k w = some { q with pi := 0, ci := 0, seq := 0, stopped := false, reset := none, lastSeq := none
                                inflight := [], ciDirty := false }
    (x.qreplies = [] → ∃ t u, exec (.queueResetComplete r) s = .next t ∧ wrote t u ∧
      t.out = u.out ++ [.hostWrite (pasidOf s k) ((q.shadow + 8) % 2 ^ 64) (zeros 4)]) ∧
    (∀ a, x.qreplies = [{ mailbox := a, left := [w] }] →
      ∃ t u v, exec (.queueResetComplete r) s = .next t ∧ wrote t u ∧ regVal t (mbReg a) = 2 ∧
        t.out = u.out ++ [.hostWrite (pasidOf s k) ((q.shadow + 8) % 2 ^ 64) (zeros 4), .response a v] ∧
        v.drop 16 = queueResetBody [(w, (last, n.discarded, n.abandoned, n.finished))])) ∧
  (∀ (r : CqRef) (s : State) (x : Kennel) (q : Cq), kennel? s r.k.val = some x → cq? s r.k.val r.c.val = some q →
    q.resetting = true → (∀ e ∈ x.wqs, e.2.cq = r.c.val → e.2.reset = none) →
    (∀ e ∈ x.ovf ++ x.stalled, e.cq ≠ r.c.val) →
    (hostFor s r.k.val = false → exec (.cqReset r) s = .next s) ∧
    (hostFor s r.k.val = true → ∃ t, exec (.cqReset r) s = .next t ∧
      cq? t r.k.val r.c.val = some { q with tail := 0, ci := 0, resetting := false } ∧
      t = { s with kennels := t.kennels, out := s.out ++ [.hostWrite x.pasid (q.shadow % 2 ^ 64) (zeros 4)] }))

def Obligations.WorkQueues : Prop := fetchCommands ∧ jobStarts ∧ doorbellCommands

def Obligations.QueuesAndResets : Prop := completionCommands ∧ queueMessages ∧ queueResets


/-! ### Kennels and table spaces -/

/-- The Herder has written a kennel's SHC mask where no port that it alters has a miss in
flight; else those ports drain first, and the message is answered after that (R355, R401). -/
def Sys2Proof.Claims.maskTaken (s t : State) (k v mb : Nat) : Prop :=
  let free := ∀ p ∈ maskPorts s k v, tfind? s.shc.misses p = none
  (free → regVal t (0xD2000 + 8 * k) = v ∧ regVal t (mbReg mb) = 2) ∧
  (∀ p, p ∈ maskPorts s k v → tfind? s.shc.misses p ≠ none → bitAt (portCfg s p) 63 = false → s.shc.kmasks = [] →
    regVal t (0xD2000 + 8 * k) = regVal s (0xD2000 + 8 * k) ∧ tfind? t.shc.kmasks k = some (v, [mb]) ∧
    (∀ q ∈ maskPorts s k v, portDrains t q = true) ∧ mbBusy t mb = true)

/-- A kennel is created with its PASID and share, shown and changed, and destroyed once it
holds nothing (R397 to R402, R406, R414, R501, R523). -/
def Sys2Proof.Claims.kennelMessages : Prop :=
  ∀ (mb : Mb) (m : Msg) (s : State),
    let b := m.body
    let k := le b 0 1
    let sh := slice b 8 64
    let ans (c : Instr) (opc status : Nat) (body : Bytes) : Prop :=
      ∃ t, exec c s = .next t ∧ replied s t (dmpMsg mb opc m) status body id
    (served s (dmpMsg mb 0x0100 m) →
      (k = 0 ∨ 2 ≤ le b 1 1 ∨ 2 ^ 20 ≤ le b 4 4 ∨ shareFieldsOk sh = false → ans (.kennelCreate mb m) 0x0100 0x0D01 []) ∧
      (k ≠ 0 → le b 1 1 < 2 → zeroes b 2 2 = true → le b 4 4 < 2 ^ 20 → shareFieldsOk sh = true →
        (kennel? s k ≠ none → ans (.kennelCreate mb m) 0x0100 0x0D02 []) ∧
        (kennel? s k = none → (∃ e ∈ s.kennels, e.1 < 256 ∧ pasidSet s e.1 = true ∧ e.2.pasid = le b 4 4) →
          ans (.kennelCreate mb m) 0x0100 0x0D03 [])) ∧
      (createFault s b = none → ∃ t, exec (.kennelCreate mb m) s = .next t ∧
        kennel? t k = some { pasid := le b 4 4, share := sh } ∧ pasidSet t k = true ∧
        (∀ j, j ≠ k → kennel? t j = kennel? s j) ∧
        maskTaken s t k (shHoundWays sh * 2 ^ 16 + shEngineWays sh) (mbNum mb) ∧
        (le b 1 1 = 0 → orphans t k = []) ∧ (le b 1 1 = 1 → ∀ n ts, space? s n = some ts → ts.owner = none →
          ts.former = k → space? t n = some { ts with owner := some k }))) ∧
    (served s (dmpMsg mb 0x0101 m) →
      (k = 0 ∨ zeroes b 1 7 = false → ans (.kennelDestroy mb m) 0x0101 0x0D01 []) ∧
      (k ≠ 0 → zeroes b 1 7 = true →
        (kennel? s k = none → ans (.kennelDestroy mb m) 0x0101 0x0D02 []) ∧
        (∀ x, kennel? s k = some x → kennelHolds s k x = true → ans (.kennelDestroy mb m) 0x0101 0x0D06 []) ∧
        (∀ x, kennel? s k = some x → kennelHolds s k x = false → ∃ t, exec (.kennelDestroy mb m) s = .next t ∧
          kennel? t k = none ∧ pasidSet t k = false ∧ (∀ j, j ≠ k → kennel? t j = kennel? s j) ∧
          (∀ e ∈ t.dge.ctxs, e.2.kennel ≠ k) ∧ maskTaken s t k 0 (mbNum mb)))) ∧
    (served s (dmpMsg mb 0x0102 m) → zeroes b 1 7 = true → shareFieldsOk sh = true →
      (kennel? s k = none → ans (.setShare mb m) 0x0102 0x0D02 []) ∧
      (∀ x, kennel? s k = some x → shareFits (otherShares s k) sh = false → ans (.setShare mb m) 0x0102 0x0D04 []) ∧
      (∀ x, kennel? s k = some x → shareFits (otherShares s k) sh = true → shareCovers s k x sh = false →
        ans (.setShare mb m) 0x0102 0x0D05 []) ∧
      (∀ x, kennel? s k = some x → shareFits (otherShares s k) sh = true → shareCovers s k x sh = true →
        ∃ t y, exec (.setShare mb m) s = .next t ∧ kennel? t k = some y ∧ y.share = sh ∧
          maskTaken s t k (shHoundWays sh * 2 ^ 16 + shEngineWays sh) (mbNum mb))) ∧
    (served s (dmpMsg mb 0x0104 m) → zeroes b 1 7 = true →
      (kennel? s k = none → ans (.getShare mb m) 0x0104 0x0D02 []) ∧
      (∀ x, kennel? s k = some x → ans (.getShare mb m) 0x0104 0 x.share))

/-- A kennel's reset stops its queues at once and drops what waits for it; it is done when
nothing drains any more, and one that does not end is a device error (R207, R408 to R412,
R503). -/
def Sys2Proof.Claims.kennelResets : Prop :=
  (∀ (mb : Mb) (m : Msg) (s : State) (x : Kennel), served s (dmpMsg mb 0x0103 m) → zeroes m.body 1 7 = true →
    kennel? s (le m.body 0 1) = some x →
    let k := le m.body 0 1
    (x.state = 3 → ∃ t, exec (.kennelReset mb m) s = .next t ∧ replied s t (dmpMsg mb 0x0103 m) 0x0D06 [] id) ∧
    (x.state ≠ 3 → ∃ t y, exec (.kennelReset mb m) s = .next t ∧ kennel? t k = some y ∧ y.state = 3 ∧
      y.resetReply = some (mbNum mb) ∧ mbBusy t (mbNum mb) = true ∧ (∀ w q, wq? t k w = some q → q.reset ≠ none) ∧
      (regVal t (0xF1000 + 8 * (k / 64))).testBit (k % 64) = true ∧ (∀ c ∈ t.dge.cmds, c.kennel ≠ k) ∧
      (∀ p ∈ y.plans, p.2.pool = []) ∧
      (∀ b z, tfind? s.scent b = some z → tfind? t.scent b = some (if (z.owner.any (fun o => o.1 == k)) = true
        then { z with matchArr := [], verify := [], scrubbed := true } else z)) ∧ (∀ e ∈ t.timing.events, e.kennel = k → e.dead = true ∧ e.result = none) ∧
      (∀ w q f j a, wq? s k w = some q → q.reset = none → f ∈ q.inflight → f.work = .job j →
        job? t j = some a → a.abandoned = true ∨ a.retired = true))) ∧
  (∀ (k : Fin 256) (s : State) (x : Kennel), kennel? s k.val = some x → x.state = 3 →
    (drainCount s k.val = 0 → ∃ t, exec (.kennelResetDone k) s = .next t ∧
      kennel? t k.val = some { x with state := 1, resetReply := none } ∧
      (regVal t (0xF1000 + 8 * (k.val / 64))).testBit (k.val % 64) = false ∧
      (regVal t (0x1003100 + 0x10000 * k.val)).testBit 5 = true ∧ evtPending t (256 + k.val) = true ∧
      (∀ e ∈ t.jobs, e ∈ s.jobs ∧ ¬ (e.2.kennel = k.val ∧ e.2.abandoned = true)) ∧
      t.scent = s.scent ∧
      (∀ n, x.resetReply = some n → regVal t (mbReg n) = 2)) ∧
    (drainCount s k.val ≠ 0 → fatal s = false → devErr s = false →
      ∃ t, exec (.kennelDrainOverrun k) s = .next t ∧ deviceFailed s t 9))

/-- The command that an accepted table-store entry becomes (R423, R427). -/
def Sys2Proof.Claims.tsEntry (s : State) (r : QueueRef) (q : Wq) (e : Bytes) : TsCmd :=
  if le e 0 1 = 0x12 then { order := s.nextOrder, kennel := r.k.val, wq := r.w.val, seq := q.seq, opc := 0x12
                            space := le e 16 2 % 4096, off := 0, len := 0, arg := 0
                            waits := (s.store.cmds.filter (fun d => d.kennel == r.k.val &&
                              d.space == le e 16 2 % 4096 && (d.opc == 0x11 || d.opc == 0x13))).map (·.order) }
  else { order := s.nextOrder, kennel := r.k.val, wq := r.w.val, seq := q.seq, opc := le e 0 1
         space := le e 16 2 % 4096, off := le e 24 8, len := le e 32 8, arg := le e 40 8 }

/-- A table-store entry is refused by its first failing check, waits for a range lock, or is
accepted (R423 to R428). -/
def Sys2Proof.Claims.tableEntries : Prop :=
  ∀ (r : QueueRef) (e : Bytes) (s : State) (q : Wq), headEntry s r q e → (∀ d ∈ s.store.cmds, d.opc ≠ 0x12) →
    let k := r.k.val
    let opc := le e 0 1
    ∀ c : Instr, (opc = 0x10 ∧ c = .tsRead r e) ∨ (opc = 0x11 ∧ c = .tsWrite r e) ∨ (opc = 0x12 ∧ c = .tsFlush r e) ∨
      (opc = 0x13 ∧ c = .tsFill r e) →
    (∀ err cq, tsFault s k opc e = some err → freshSeq q → cqRoom s k q.cq cq → ∃ t, exec c s = .next t ∧
      finishedEntry s t r q e cq err ∧ t.store = s.store ∧ t.nextOrder = s.nextOrder) ∧
    (tsFault s k opc e = none →
      (opc ≠ 0x12 → lockFree s k = false → ∃ t, exec c s = .next t ∧ wq? t k r.w.val = some { q with waits := 2 } ∧
        counted s t 0xE0108 1 ∧ t.store = s.store) ∧
      ((opc ≠ 0x12 ∧ lockFree s k = true) ∨ (tsEntry s r q e).waits ≠ [] → ∃ t, exec c s = .next t ∧
        tookEntry s t r q e (.ts s.nextOrder) ∧ t.nextOrder = s.nextOrder + 1 ∧
        t.store = { s.store with cmds := s.store.cmds ++ [tsEntry s r q e] } ∧ t.out = s.out) ∧
      (∀ cq, opc = 0x12 → (tsEntry s r q e).waits = [] → freshSeq q → cqRoom s k q.cq cq →
        (∀ d ∈ s.store.cmds, d.order < s.nextOrder ∧ ∀ o ∈ d.waits, o < s.nextOrder) →
        ∃ t, exec c s = .next t ∧ finishedEntry s t r q e cq 0 ∧ t.store = s.store)) ∧
    (le e 1 1 = (if opc = 0x12 then 1 else 2) → ownSpace s k (le e 16 2 % 4096) = none →
      tsFault s k opc e = some 0x0E01) ∧
    (∀ sp, le e 1 1 = 2 → opc ≠ 0x12 → ownSpace s k (le e 16 2) = some sp → le e 16 2 < 4096 → zeroes e 18 6 = true →
      opc ≠ 0x13 → 1 ≤ le e 32 8 → le e 32 8 ≤ 2 ^ 32 →
      tsFault s k opc e = if spaceSize sp < le e 24 8 + le e 32 8 then some 0x0E03 else none)

/-- An accepted command issues once nothing earlier holds it back, in pieces that cross no
4 KiB boundary; each piece moves its bytes, and the last completes the command (R425, R426,
R429, R430). -/
def Sys2Proof.Claims.tableTransfers : Prop :=
  (∀ (order : Nat) (s : State) (c : TsCmd), tsCmd? s order = some c → tsIssuable s c = true →
    (∀ d ∈ s.store.cmds, d.order < order → tsIssuable s d = false) →
    ∃ t ps, exec (.tsIssue order) s = .next t ∧ tsCmd? t order = some { c with issued := true, pieces := ps } ∧
      (∀ n, n ≠ order → tsCmd? t n = tsCmd? s n) ∧ t = { s with store := { s.store with cmds := t.store.cmds } } ∧
      (ps.map (·.2)).sum = c.len ∧ (∀ p ∈ ps, 1 ≤ p.2 ∧ p.1 / 4096 = (p.1 + p.2 - 1) / 4096) ∧
      ∀ i p, ps[i]? = some p → p.1 = c.off + ((ps.take i).map (·.2)).sum) ∧
  (∀ (order off len : Nat) (rest : List (Nat × Nat)) (host : HostRead) (s : State) (c : TsCmd) (sp : TSpace),
    tsCmd? s order = some c → c.issued = true → c.pieces = (off, len) :: rest → (∀ p ∈ rest, p.1 ≠ off) →
    space? s c.space = some sp → c.status = 0 → hostUp s = true →
    (moverUp s = false → exec (.tsPieceComplete order off host) s = .next s) ∧
    (moverUp s = true →
    let moved (t : State) : Prop :=
      (c.opc = 0x10 → t.dram = s.dram ∧ t.shc = s.shc) ∧
      (c.opc = 0x11 → ∀ data, host = some data → t.dram = (tsWrite s sp off (data.take len)).dram ∧
        t.shc = (tsWrite s sp off (data.take len)).shc) ∧
      (c.opc = 0x13 → ∀ data : Bytes, data.length = len →
        (∀ i, i < len → data[i]? = (toLe 8 c.arg)[(off - c.off + i) % 8]?) →
        t.dram = (tsWrite s sp off data).dram ∧ t.shc = (tsWrite s sp off data).shc)
    let sent : List Out := if c.opc = 0x10
      then [.hostWrite (pasidOf s c.kennel) ((c.arg + (off - c.off)) % 2 ^ 64) (tsRead s sp off len).1] else []
    (c.opc = 0x10 → 0 < len ∧ tsPoison s sp ((off + len - c.off) / 64 + 2) c.off (off + len) = none) →
    (c.opc = 0x11 → ∃ data, host = some data ∧ len ≤ data.length) → c.opc ∈ [0x10, 0x11, 0x13] →
    (rest ≠ [] → ∃ t, exec (.tsPieceComplete order off host) s = .next t ∧ moved t ∧ t.out = s.out ++ sent ∧
      tsCmd? t order = some { c with pieces := rest } ∧ (∀ n, n ≠ order → tsCmd? t n = tsCmd? s n) ∧ t.jobs = s.jobs) ∧
    (∀ q f cq, rest = [] → entryDue s c.kennel c.wq c.seq q f cq → (∀ d ∈ s.store.cmds, d.opc ≠ 0x12) →
      ∃ t, exec (.tsPieceComplete order off host) s = .next t ∧ moved t ∧ tsCmd? t order = none ∧
        cqeOut { s with out := s.out ++ sent } t c.kennel cq
          (cqeBytes f.tag 0 f.opc c.wq 0xFFFF c.len 0 f.seq)))) ∧
  (∀ (order off len : Nat) (rest : List (Nat × Nat)) (s : State) (c : TsCmd) (sp : TSpace),
    tsCmd? s order = some c → c.issued = true → c.pieces = (off, len) :: rest → (∀ p ∈ rest, p.1 ≠ off) →
    space? s c.space = some sp → c.status = 0 → hostUp s = true → moverUp s = true →
    c.opc = 0x11 → 1 ≤ len → rest ≠ [] →
    ∃ t, exec (.tsPieceComplete order off none) s = .next t ∧ t.dram = s.dram ∧ t.shc = s.shc ∧
      tsCmd? t order = some { c with status := 0x0E04, upTo := off, pieces := rest.take 15 } ∧
      (c.kennel < 256 → evtPending t (256 + c.kennel) = true)) ∧
  (∀ (s : State) (sp : TSpace) (off : Nat) (b : Bytes), s.dram.mem.wf = true → s.dram.lost = 0 →
    sp.granules.Nodup → off + b.length ≤ spaceSize sp → (s.shc.lines.map (·.2.line)).Nodup →
    (∀ e ∈ s.shc.ebuf, shcFind s e.line = none) →
    (tsRead (tsWrite s sp off b) sp off b.length).1 = b ∧
    (∀ line, (∀ i, i < b.length → spaceLine sp ((off + i) / 64) ≠ line) →
      cohLine (tsWrite s sp off b) line = cohLine s line))

/-- TS_CREATE chooses free granules and the lowest free number, and answers once they are
zeroed; TS_DELETE frees a space that nothing refers to; TS_INFO reports it (R418 to R422). -/
def Sys2Proof.Claims.tableMessages : Prop :=
  (∀ (mb : Mb) (m : Msg) (s : State) (x : Kennel), kennel? s (mbKennel (mbNum mb)) = some x →
    let k := mbKennel (mbNum mb)
    let b := m.body
    let ans (c : Instr) (opc status : Nat) : Prop := ∃ t, exec c s = .next t ∧ replied s t (dmpMsg mb opc m) status [] id
    (served s (dmpMsg mb 0x0500 m) →
      (le b 0 4 = 0 ∨ 524288 < le b 0 4 ∨ zeroes b 5 3 = false → ans (.tsCreate mb m) 0x0500 0x0E02) ∧
      (1 ≤ le b 0 4 → le b 0 4 ≤ 524288 → zeroes b 5 3 = true →
        (256 ≤ spacesOf s k → ans (.tsCreate mb m) 0x0500 0x0E10) ∧
        (∀ n, s.store.spaces.length + s.store.creating.length < 4096 → spacesOf s k < 256 → n < 4096 →
          spaceTaken s n = false → (∀ j, j < n → spaceTaken s j = true) →
          (granuleLimit x.share < kennelGranules s k + le b 0 4 ∨ (granulesFree s (le b 4 1)).length < le b 0 4 →
            ans (.tsCreate mb m) 0x0500 0x0E11) ∧
          (kennelGranules s k + le b 0 4 ≤ granuleLimit x.share → le b 0 4 ≤ (granulesFree s (le b 4 1)).length →
            ∃ t gs, exec (.tsCreate mb m) s = .next t ∧ gs.length = le b 0 4 ∧ gs.Nodup ∧
              (∀ g ∈ gs, g ∈ granulesFree s (le b 4 1)) ∧ mbBusy t (mbNum mb) = true ∧ t.store.spaces = s.store.spaces ∧
              t.store.creating = tset s.store.creating (mbNum mb) { space := n, body := {
                owner := some k, former := k, pasid := x.pasid, eighths := le b 4 1, granules := gs } })))) ∧
    (served s (dmpMsg mb 0x0501 m) → zeroes b 2 6 = true →
      (reachedSpace s (dmpMsg mb 0x0501 m) (le b 0 2) = none → ans (.tsDelete mb m) 0x0501 0x0E01) ∧
      (∀ sp, reachedSpace s (dmpMsg mb 0x0501 m) (le b 0 2) = some sp →
        (spaceBusy s k (le b 0 2) = true → ans (.tsDelete mb m) 0x0501 0x0E12) ∧
        (spaceBusy s k (le b 0 2) = false → ∃ t, exec (.tsDelete mb m) s = .next t ∧ space? t (le b 0 2) = none ∧
          (∀ n, n ≠ le b 0 2 → space? t n = space? s n) ∧
          replied s t (dmpMsg mb 0x0501 m) 0 [] (fun u => dropSpace u (le b 0 2))))) ∧
    (served s (dmpMsg mb 0x0502 m) → zeroes b 2 6 = true →
      (reachedSpace s (dmpMsg mb 0x0502 m) (le b 0 2) = none → ans (.tsInfo mb m) 0x0502 0x0E01) ∧
      (∀ sp, reachedSpace s (dmpMsg mb 0x0502 m) (le b 0 2) = some sp → ∃ t, exec (.tsInfo mb m) s = .next t ∧
        replied s t (dmpMsg mb 0x0502 m) 0
          (toLe 4 sp.granules.length ++ toLe 1 sp.eighths ++ toLe 1 (if sp.lost then 1 else 0)) id))) ∧
  (∀ (k : Fin 256) (s : State) (n : Nat) (c : TsCreating), s.store.creating = [(n, c)] → mbKennel n = k.val →
    s.dram.lost = 0 → s.dram.mem.wf = true → (s.shc.lines.map (·.1)).Nodup → ∃ t, exec (.tsZeroDone k) s = .next t ∧ t.store.creating = [] ∧
      space? t c.space = some c.body ∧ (∀ j, j ≠ c.space → space? t j = space? s j) ∧ regVal t (mbReg n) = 2 ∧
      (∀ line, line / 32768 ∈ c.body.granules → cohLine t line = (0, false)) ∧
      (∀ line, line / 32768 ∉ c.body.granules → cohLine t line = cohLine s line))

/-- R406: KENNEL_DESTROY is refused with E_KN_BUSY while the kennel holds a plan, a queue, a table
space, a DGE key slot or a quarantine binding, or is being reset; one that completes releases
its share and its PASID, and zeroes KN_PASIDk and SHC_KMASKk, the latter under the drain rule
of R355. -/
def Obligations.KennelDestroy : Prop :=
  ∀ (mb : Mb) (m : Msg) (s : State) (x : Kennel), served s (dmpMsg mb 0x0101 m) → zeroes m.body 1 7 = true →
    le m.body 0 1 ≠ 0 → kennel? s (le m.body 0 1) = some x → (∀ e ∈ s.store.creating, mbKennel e.1 ≠ le m.body 0 1) →
    let k := le m.body 0 1
    let held : Prop := x.plans ≠ [] ∨ x.wqs ≠ [] ∨ x.cqs ≠ [] ∨ (∃ e ∈ s.store.spaces, e.2.owner = some k) ∨
      (∃ e ∈ s.dge.slots, e.2.kennel = k) ∨ x.quar ≠ none ∨ x.state = 3
    (held → ∃ t, exec (.kennelDestroy mb m) s = .next t ∧ replied s t (dmpMsg mb 0x0101 m) 0x0D06 [] id) ∧
    (¬ held → ∃ t, exec (.kennelDestroy mb m) s = .next t ∧ kennel? t k = none ∧
      regVal t (0xF0000 + 8 * k) = 0 ∧ maskTaken s t k 0 (mbNum mb) ∧
      (∀ j, j < 256 → j ≠ k → kennel? t j = kennel? s j ∧ regVal t (0xF0000 + 8 * j) = regVal s (0xF0000 + 8 * j)))

def Obligations.Kennels : Prop := kennelMessages ∧ kennelResets

def Obligations.TableSpaces : Prop := tableEntries ∧ tableTransfers ∧ tableMessages


/-! ### Leash -/

/-- One LINK frame of a node leaves a port (R468, R469). -/
def Sys2Proof.Claims.linkOut (s : State) (p : Nat) (payload : Bytes) : Out :=
  .leashTx p (lport s p).txSeq (leashFrame 1 false 0 0 (ownSrc s) 0 0 payload)

/-- One port has changed, and no other. -/
def Sys2Proof.Claims.onlyLport (s t : State) (p : Nat) (q : LPort) : Prop :=
  lport t p = q ∧ ∀ n, n ≠ p → lport t n = lport s n

/-- Counter `i` of a port's six: TXF, RXF, BAD, REPLAY and DOWN (R489). -/
def Sys2Proof.Claims.lshCounted (s t : State) (p i : Nat) : Prop := counted s t (0x120120 + 0x40 * p + 4 * i) 1

/-- The side's one link is port `p`, and a frame can leave there at once. -/
def Sys2Proof.Claims.sideOut (s : State) (side p vc len : Nat) : Prop :=
  (sidePorts side).filter (portUsable s) = [p] ∧ (lport s p).wait = [] ∧ vcCredit (lport s p) vc len = true

/-- Links come up with a capability record and go down with all that they held; a port that is
down trains anew (R467, R474 to R477). -/
def Sys2Proof.Claims.leashLinks : Prop :=
  ∀ (p : Fin 4) (s : State), s.leash.ports.length = 4 →
    (∀ (tof : Nat) (lanes : Fin 5), (lport s p.val).up = false → linksRun s = true → lanes.val ≠ 0 → nodeValid s = false →
      (isHead s = true → (regVal s 0x120000).testBit 5 = false) →
      ∃ t, exec (.leashLinkUp p tof lanes) s = .next t ∧ onlyLport s t p.val { up := true } ∧
        regVal t (lshPort p.val) = 1 + 32 * lanes.val ∧ regVal t (tofReg p.val) = tofValue s p.val tof ∧
        t.out = s.out ++ [.leashTx p.val 0 (leashFrame 1 false 0 0 0xFFFF 0 0
          (toLe 1 5 ++ zeros 7 ++ toLe 8 (capRecord s)))]) ∧
    ((lport s p.val).up = true → ∃ t, exec (.leashLinkDown p) s = .next t ∧ lport t p.val = {} ∧
      regVal t (lshPort p.val) = 0 ∧ lshCounted s t p.val 4 ∧ (∀ n, (lport t n).up = if n = p.val then false else (lport s n).up) ∧
      (nodeValid s = true → nodeRing s = true → (sidePorts (sideOf p.val)).filter (portUsable s) = [p.val] →
        nodeBreak t = linkLow s (sideOf p.val)) ∧
      ∀ x ∈ exchLive s, ∀ n ∈ exNodes x.vert.cfg, nodeValid s = true → n ≠ nodeId s → routeSide t n = none →
        (job? t x.j).any (·.failed.isSome) = true) ∧
    ((lport s p.val).up = false → linksRun s = true → ∃ t, exec (.leashLinkRetrain p) s = .next t ∧
      onlyLport s t p.val {} ∧ regVal t (lshPort p.val) = 0 ∧
      t = { s with leash := { s.leash with ports := t.leash.ports }, regs := t.regs })

/-- A frame is taken in order and sent on, or refused with a NACK; ACK frees the replay buffer
and NACK empties it onto the link again, until its sixteenth time (R467 to R470). -/
def Sys2Proof.Claims.leashStream : Prop :=
  ∀ (p : Fin 4) (s : State), (lport s p.val).up = true →
    let q := lport s p.val
    let nack := linkOut s p.val (toLe 1 2 ++ zeros 1 ++ toLe 2 q.rxSeq ++ zeros 4)
    (∀ (fseq : BitVec 16) (f : Bytes) (crcOk : Bool), le f 0 1 = 1 →
      (crcOk = false ∨ linkLength (le f 16 1) ≠ some (le f 12 2) → ∃ t,
        exec (.leashFrameReceive p fseq crcOk f) s = .next t ∧ t = { s with regs := t.regs } ∧
        lshCounted s t p.val 2)) ∧
    (∀ (fseq : BitVec 16) (f : Bytes), le f 0 1 ≠ 1 →
      (∃ t, exec (.leashFrameReceive p fseq false f) s = .next t ∧ t.out = s.out ++ [nack] ∧ t.leash = s.leash ∧
        lshCounted s t p.val 2) ∧
      (fseq.toNat ≠ q.rxSeq → ∃ t, exec (.leashFrameReceive p fseq true f) s = .next t ∧ t.out = s.out ++ [nack] ∧
        t.leash = s.leash) ∧
      (fseq.toNat = q.rxSeq → q.unacked < 31 → lfOk f = true → portUsable s p.val = true →
        let took := { q with rxSeq := (q.rxSeq + 1) % 65536, unacked := q.unacked + 1 }
        (5 ≤ le f 0 1 → (le f 1 1).testBit 7 = false → nodeValid s = true → le f 2 2 = nodeId s →
          ∃ t, exec (.leashFrameReceive p fseq true f) s = .next t ∧ onlyLport s t p.val took ∧ t.out = s.out ∧
            lshCounted s t p.val 1) ∧
        (∀ n side, 5 ≤ le f 0 1 → (le f 1 1).testBit 7 = false → nodeValid s = true → le f 2 2 ≠ nodeId s →
          routeSide s (le f 2 2) = some side → sideOut s side n (lfVc f) f.length → n ≠ p.val →
          ∃ t, exec (.leashFrameReceive p fseq true f) s = .next t ∧ lport t p.val = took ∧
            t.out = s.out ++ [.leashTx n (lport s n).txSeq f] ∧ (lport t n).replay = (lport s n).replay ++ [((lport s n).txSeq, lfVc f, f)]))) ∧
    (1 ≤ q.unacked → ∃ t, exec (.leashAckTimer p) s = .next t ∧ onlyLport s t p.val { q with unacked := 0 } ∧
      t.out = s.out ++ [linkOut s p.val (toLe 1 1 ++ zeros 1 ++ toLe 2 ((q.rxSeq + 65535) % 65536) ++ zeros 4)]) ∧
    (∀ fseq : BitVec 16, (∃ e ∈ q.replay, e.1 = fseq.toNat) →
      let left := q.replay.filter (fun e => 0 < signedDiff 16 e.1 fseq.toNat)
      let freed := { q with replay := left, tries := 0, nacked := 65536 }
      (q.wait = [] → ∃ t, exec (.ack p fseq) s = .next t ∧ onlyLport s t p.val freed ∧ t.out = s.out ∧ lshCounted s t p.val 1) ∧
      (∀ vc f, q.wait = [(vc, f)] → vc < 3 → vcCredit freed vc f.length = true → ∃ t, exec (.ack p fseq) s = .next t ∧
        t.out = s.out ++ [.leashTx p.val q.txSeq f] ∧ (lport t p.val).wait = [] ∧
        (lport t p.val).replay = left ++ [(q.txSeq, vc, f)]) ∧
      (¬ (q.nacked = fseq.toNat ∧ 15 ≤ q.tries) → ∃ t, exec (.nack p fseq) s = .next t ∧
        onlyLport s t p.val { q with tries := if q.nacked = fseq.toNat then q.tries + 1 else 1, nacked := fseq.toNat } ∧
        t.out = s.out ++ (q.replay.filter (fun e => 0 ≤ signedDiff 16 e.1 fseq.toNat)).map
          (fun e => .leashTx p.val e.1 e.2.2) ∧ lshCounted s t p.val 3) ∧
      (q.nacked = fseq.toNat → 15 ≤ q.tries → ∃ t, exec (.nack p fseq) s = .next t ∧ lport t p.val = {} ∧
        regVal t (lshPort p.val) = 0)) ∧
    (∀ fseq : BitVec 16, (∀ e ∈ q.replay, e.1 ≠ fseq.toNat) →
      (∃ t, exec (.ack p fseq) s = .next t ∧ t = { s with regs := t.regs } ∧ lshCounted s t p.val 1) ∧
      (∃ t, exec (.nack p fseq) s = .next t ∧ t = { s with regs := t.regs } ∧ lshCounted s t p.val 1))

/-- PROBE is answered with its times, the 256th ECHO gives the average, CAP tells whether the
partner speaks another protocol, and a delay that moves is flagged (R469, R475, R476). -/
def Sys2Proof.Claims.leashDelays : Prop :=
  ∀ (p : Fin 4) (s : State), (lport s p.val).up = true →
    let q := lport s p.val
    (∀ (n : Nat) (t1 t2 t3 : BitVec 64), n < 256 → ∃ t, exec (.probe p n t1 t2 t3) s = .next t ∧
      t.out = s.out ++ [linkOut s p.val (toLe 1 4 ++ zeros 1 ++ toLe 2 n ++ zeros 4 ++ toLe 8 t1.toNat ++
        toLe 8 t2.toNat ++ toLe 8 t3.toNat)] ∧ t.leash = s.leash) ∧
    (∀ (n : Nat) (t1 t2 t3 t4 : BitVec 64), n < 256 → t1.toNat ≤ t4.toNat → t2.toNat ≤ t3.toNat →
      t4.toNat - t1.toNat < 2 ^ 63 → t3.toNat - t2.toNat ≤ t4.toNat - t1.toNat →
      let all := q.samples ++ [((t4.toNat - t1.toNat) - (t3.toNat - t2.toNat)) / 2]
      (q.samples.length < 255 → ∃ t, exec (.echo p n t1 t2 t3 t4) s = .next t ∧
        onlyLport s t p.val { q with samples := all } ∧ regVal t (tofReg p.val) = regVal s (tofReg p.val)) ∧
      (q.samples.length = 255 → ∃ t, exec (.echo p n t1 t2 t3 t4) s = .next t ∧
        onlyLport s t p.val { q with samples := [] } ∧ regVal t (tofReg p.val) = tofValue s p.val (all.sum / 256))) ∧
    (∀ record : BitVec 64, ∃ t, exec (.cap p record) s = .next t ∧ regVal t (0x120110 + 0x40 * p.val) = record.toNat ∧
      capMismatch t p.val = (record.toNat / 2 ^ 16 % 256 != le s.herder.header 8 1)) ∧
    (∀ raw : Nat, ∃ t, exec (.tofMeasure p raw) s = .next t ∧
      let old := regVal s (tofReg p.val)
      let new := tofValue s p.val raw
      regVal t (tofReg p.val) = new ∧ t.leash = s.leash ∧
      (old + 10 < new ∨ new + 10 < old → (regVal t 0x120004).testBit 0 = true ∧ evtPending t 4 = true) ∧
      (new ≤ old + 10 → old ≤ new + 10 → regVal t 0x120004 = regVal s 0x120004 ∧ t.vreq = s.vreq))

/-- LSH_NODE shows a node's place (R472). -/
def Sys2Proof.Claims.nodeIs (t : State) (ring : Bool) (count id : Nat) : Prop :=
  regVal t 0x120008 = 2 ^ 63 + (if ring then 2 ^ 62 else 0) + count % 2 ^ 17 * 2 ^ 32 + 0xFFFF0000 + id ∧
  walking t = false ∧ t.leash.tempId = none ∧ evtPending t 4 = true

/-- The walk has failed here with a code, or with none of its own (R473). -/
def Sys2Proof.Claims.walkLost (t : State) : Prop :=
  nodeValid t = false ∧ walking t = false ∧ t.leash.tempId = none ∧ evtPending t 4 = true

/-- A walk gives each node an ID in turn, ends at the head, and is then done or aborted at
every node; breaks and mends are noted, and a head with AUTO_WALK walks anew (R471 to R474,
R477). -/
def Sys2Proof.Claims.leashWalks : Prop :=
  (∀ (p : Fin 4) (s : State), portUsable s p.val = true →
    (∀ w : WalkBody, isHead s = false → w.ended = false → w.err = false → w.next.toNat < 65536 →
      (∃ t, exec (.walk p w) s = .next t ∧ t.leash.tempId = some w.next.toNat ∧ t.leash.gen = w.gen.toNat ∧
        nodeValid t = false ∧ walking t = true ∧ nodeId t = w.next.toNat ∧
        (nodeValid s = true → nodeId s ≠ w.next.toNat → t.leash.remote = [] ∧ t.leash.early = [] ∧
          ∀ x ∈ exchLive s, (job? t x.j).any (·.failed.isSome) = true)) ∧
      (∀ n, nodeValid s = false → s.leash.prevId = none → sideOut s (1 - sideOf p.val) n 0 28 →
        ∃ t, exec (.walk p w) s = .next t ∧ t.out = s.out ++ [.leashTx n (lport s n).txSeq
          (leashFrame 2 false 0 0 0xFFFF 0 0 (toLe 4 (w.next.toNat + 1) ++ toLe 2 w.gen.toNat ++ zeros 6))]) ∧
      (∀ n, nodeValid s = false → s.leash.prevId = none → sideUp s (1 - sideOf p.val) = false →
        sideOut s (sideOf p.val) n 0 28 → ∃ t, exec (.walk p w) s = .next t ∧
          t.out = s.out ++ [.leashTx n (lport s n).txSeq (leashFrame 2 false 0 0 0xFFFF 0 0
            (toLe 4 w.next.toNat ++ toLe 2 w.gen.toNat ++ [2, 0] ++ toLe 4 (w.next.toNat + 1)))])) ∧
    (∀ w : WalkBody, isHead s = true → walking s = true → w.gen.toNat = s.leash.gen → s.leash.tempId = some 0 →
      (w.ended = false → w.err = false → p.val < 2 → ∃ t, exec (.walk p w) s = .next t ∧ nodeIs t true w.next.toNat 0) ∧
      (w.ended = true → w.err = false → (sideUp s 0 && sideUp s 1) = false →
        ∃ t, exec (.walk p w) s = .next t ∧ nodeIs t false w.count.toNat 0) ∧
      (w.err = true → ∃ t, exec (.walk p w) s = .next t ∧ walkLost t ∧ regField t 0x120004 3 3 = w.errCode.toNat % 8)) ∧
    (∀ (gen : BitVec 16) (count : BitVec 32) (ring : Bool) (id : Nat), isHead s = false →
      (gen.toNat = s.leash.gen → s.leash.tempId = some id → id < 65536 → ∃ t, exec (.chainDone p gen count ring) s = .next t ∧
        nodeIs t ring count.toNat id ∧ t.leash.prevId = some id) ∧
      (gen.toNat ≠ s.leash.gen → exec (.chainDone p gen count ring) s = .next s)) ∧
    (∀ gen : BitVec 16, ∃ t, exec (.chainAbort p gen) s = .next t ∧ walkLost t ∧ t.leash.gen = gen.toNat ∧
      regField t 0x120004 3 3 = regField s 0x120004 3 3) ∧
    (∀ id : BitVec 16, ∃ t, exec (.chainBreak p id) s = .next t ∧ nodeBreak t = id.toNat ∧
      (regVal t 0x120004).testBit 1 = true ∧ evtPending t 4 = true ∧ nodeId t = nodeId s ∧
      ∀ x ∈ exchLive s, ∀ n ∈ exNodes x.vert.cfg, nodeValid s = true → n ≠ nodeId s → routeSide t n = none →
        (job? t x.j).any (·.failed.isSome) = true) ∧
    ((isHead s = true → (regVal s 0x120000).testBit 5 = false) → ∃ t, exec (.chainMend p) s = .next t ∧
      nodeBreak t = 0xFFFF ∧ nodeId t = nodeId s ∧ t = { s with regs := t.regs }) ∧
    (isHead s = true → (regVal s 0x120000).testBit 5 = true → ∃ t, exec (.chainMend p) s = .next t ∧
      walking t = true ∧ nodeValid t = false ∧ t.leash.gen = (s.leash.gen + 1) % 65536 ∧ t.leash.tempId = some 0)) ∧
  (∀ s : State, isHead s = true → walking s = true → ∃ t, exec .walkTimeout s = .next t ∧ walkLost t ∧
    regField t 0x120004 3 3 = 4)

/-- An EPOCH mark goes on with its delay, and corrects the counter of a node in PHASE mode; a
fanned-out verdict is kept until its tick, or counted as late (R478 to R481). -/
def Sys2Proof.Claims.leashTime : Prop :=
  ∀ (p : Fin 4) (s : State), portUsable s p.val = true →
    (∀ (num : BitVec 48) (delay len : BitVec 32) (hold period : Nat), isHead s = false → ticksFit s 0 = true →
      s.timing.tick < 2 ^ 64 → windowKept s →
      let far := delay.toNat + regVal s (tofReg p.val)
      let k := (2 * far + period) / (2 * period)
      (∀ n, sideOut s (1 - sideOf p.val) n 0 32 → regField s 0x120000 6 2 = 0 →
        ∃ t, exec (.epochMark p num delay len 0 hold period) s = .next t ∧ t.timing = s.timing ∧
          t.out = s.out ++ [.leashTx n (lport s n).txSeq (leashFrame 4 false 0 0 (ownSrc s) 0 0
            (toLe 6 num.toNat ++ zeros 2 ++ toLe 4 (far + hold) ++ toLe 4 len.toNat))]) ∧
      (sideUp s (1 - sideOf p.val) = false → regField s 0x120000 6 2 = 1 →
        (len.toNat ≠ s.timing.len → ∃ t, exec (.epochMark p num delay len 0 hold period) s = .next t ∧
          t.timing = s.timing ∧ (regVal t 0x120004).testBit 6 = true) ∧
        (len.toNat = s.timing.len → epRunning s = true → 0 < period → num.toNat = s.timing.epoch → k < s.timing.len →
          ∃ t, exec (.epochMark p num delay len 0 hold period) s = .next t ∧ t.timing.epoch = s.timing.epoch ∧
            t.timing.count = k ∧ t.out = s.out ∧
            (k ≠ s.timing.count → k ≤ s.timing.count + s.timing.len / 16 → s.timing.count ≤ k + s.timing.len / 16 →
              counted s t 0x120010 1 ∧ regVal t 0x30008 = regVal s 0x30008) ∧
            (s.timing.count + s.timing.len / 16 < k ∨ k + s.timing.len / 16 < s.timing.count →
              regField t 0x30008 0 2 = 0 ∧ counted s t 0x120014 1)))) ∧
    (∀ (dt : Nat) (msg : Bytes) (lat : BitVec 32), ticksFit s dt = true →
      let u := passTicks s dt
      let k := be msg 2 1
      let r : RemoteVerdict := { kennel := k, lines := be msg 32 8, flags := be msg 42 1, epoch := be msg 6 6
                                 toffset := be msg 20 4 % 2 ^ 24, lat := lat.toNat }
      let runs (t : State) : Prop := exec (.leashVerdict p dt msg lat) s = .next t
      let kept : State := { u with leash := { u.leash with remote := u.leash.remote ++ [r] } }
      (nodeValid u = false ∨ inDet u k = false ∨ (regVal u (0x120060 + 8 * (k / 64))).testBit (k % 64) = false → runs u) ∧
      (nodeValid u = true → inDet u k = true → (regVal u (0x120060 + 8 * (k / 64))).testBit (k % 64) = true →
        (0 < signedDiff 48 r.epoch u.timing.epoch → runs kept) ∧
        (∀ d, remoteDue u r = some d → u.timing.tick < d → runs kept) ∧
        (∀ d, remoteDue u r = some d → d = u.timing.tick → runs (driveRemote u d r)) ∧
        (∀ d, remoteDue u r = some d → d < u.timing.tick → ∃ t, runs t ∧ t = { u with regs := t.regs } ∧ counted u t 0x12001C 1)))

/-- Pieces gather into tiles, credits let tiles go, an end is noted, an abort fails the job
here; what comes for a job not yet accepted is kept; a tile is partitioned, and waits for
credits (R482 to R486). -/
def Sys2Proof.Claims.leashExchange : Prop :=
  (∀ (p : Fin 4) (hdr : LHdr) (key : BitVec 64) (s : State), exchTaken s p.val hdr = true →
    let src := hdr.src.toNat
    (∀ x, exchTarget s hdr key.toNat = some x →
      let e := exchOf x.st
      let others := e.parts.filter (·.src != src)
      let became (c : Instr) (now : ExchSt) : Prop := ∃ t y, exec c s = .next t ∧
        vx? t { job := x.j, vid := x.vid } = some y ∧ y.st.eng = .exch now ∧ y.st.outq = x.st.outq
      (∀ (total : Nat) (seq : BitVec 64) (data : Bytes),
        (data.length < total → became (.xdata p hdr key 0 total seq data)
          { e with parts := others ++ [{ src, total, seq := seq.toNat, data }] }) ∧
        (data.length = total → exColNode x.vert.cfg = 0xFFFF → ∃ t y, exec (.xdata p hdr key 0 total seq data) s = .next t ∧
          vx? t { job := x.j, vid := x.vid } = some y ∧ y.st.outq = x.st.outq ++ [(0, .tile data)] ∧
          y.st.eng = .exch { e with parts := others, got := e.got ++ [(src, data)] }) ∧
        (∀ part, e.parts.find? (·.src == src) = some part → 0 < part.data.length → part.data.length + data.length < part.total →
          part.total ≤ total → became (.xdata p hdr key part.data.length total seq data)
            { e with parts := others ++ [{ part with data := part.data ++ data }] })) ∧
      (∀ n, e.sends = [] → ∃ t y, exec (.xcredit p hdr key n) s = .next t ∧
        vx? t { job := x.j, vid := x.vid } = some y ∧ (exchOf y.st).credits = tset e.credits src (tget e.credits src 0 + n) ∧
        (exchOf y.st).sends = []) ∧
      (∀ n b, e.sends = [(src, b)] → tget e.credits src 0 = 0 → 1 ≤ n → src ≠ nodeId s →
        ∃ t y, exec (.xcredit p hdr key n) s = .next t ∧ vx? t { job := x.j, vid := x.vid } = some y ∧
          (exchOf y.st).sends = [] ∧ tget (exchOf y.st).credits src 0 = n - 1) ∧
      (became (.xend p hdr key) { e with ended := addNew e.ended src }) ∧
      (∀ status, jobLive x.job = true → ∃ t, exec (.xabort p hdr key status) s = .next t ∧ jobFailed t x 0x1003)) ∧
    (exchTarget s hdr key.toNat = none → keyInUse s hdr.kennel.val hdr.channel.toNat key.toNat = false →
      let early (credits : Nat) (ended : Bool) : ExchEarly :=
        { kennel := hdr.kennel.val, channel := hdr.channel.toNat, jobkey := key.toNat, src, credits, ended }
      (∀ r ∈ s.leash.early, r.kennel = hdr.kennel.val → r.channel = hdr.channel.toNat → r.jobkey = key.toNat → r.src ≠ src) →
      (∀ n, exec (.xcredit p hdr key n) s =
        .next { s with leash := { s.leash with early := s.leash.early ++ [early n false] } }) ∧
      exec (.xend p hdr key) s = .next { s with leash := { s.leash with early := s.leash.early ++ [early 0 true] } })) ∧
  (∀ (v : VertexRef) (s : State) (x : Vx), liveVx s v = some x → x.vert.kind = kExch → (exchOf x.st).sends = [] →
    deferHolds x 0 = false →
    let e := exchOf x.st
    (∀ n b p outs, inHead x 0 = some (.tile n b) → readTile s x b = .ok p → exchSplit x.vert.cfg p b = .ok outs →
      (∀ o ∈ outs, tget e.credits o.1 0 = 0) → ∃ t y, exec (.leashExchTile v) s = .next t ∧ vx? t v = some y ∧
        (exchOf y.st).sends = outs ∧ (exchOf y.st).credits = e.credits ∧ inQueue y 0 = (inQueue x 0).drop 1 ∧
        (outs ≠ [] → t.out = s.out)) ∧
    (∀ n b p, inHead x 0 = some (.tile n b) → readTile s x b = .ok p →
      exchSplit x.vert.cfg p b = .ok [(nodeId s, b)] → 0 < tget e.credits (nodeId s) 0 → exColNode x.vert.cfg = 0xFFFF →
      ∃ t y, exec (.leashExchTile v) s = .next t ∧ vx? t v = some y ∧ y.st.outq = x.st.outq ++ [(0, .tile b)] ∧
        (exchOf y.st).got = e.got ++ [(nodeId s, b)] ∧ (exchOf y.st).sends = [] ∧
        tget (exchOf y.st).credits (nodeId s) 0 = tget e.credits (nodeId s) 0 - 1 ∧ inQueue y 0 = (inQueue x 0).drop 1) ∧
    (∀ q, inHead x 0 = some (.skip q) → ∃ t y, exec (.leashExchTile v) s = .next t ∧ vx? t v = some y ∧
      y.st = x.st ∧ inQueue y 0 = (inQueue x 0).drop 1 ∧ t.out = s.out))

/-- The chain messages report LSH_NODE and LSH_STATUS, start a walk at a head, choose the head
by election, reset a link, and set a kennel's fan-out (R471, R487). -/
def Sys2Proof.Claims.leashMessages : Prop :=
  ∀ (mb : Mb) (m : Msg) (s : State),
    let b := m.body
    let ans (c : Instr) (opc status : Nat) (body : Bytes) : Prop :=
      ∃ t, exec c s = .next t ∧ replied s t (dmpMsg mb opc m) status body id
    (served s (dmpMsg mb 0x0800 m) → ans (.chainStatus mb m) 0x0800 0
      (toLe 8 (regVal s 0x120008) ++ toLe 4 (regVal s 0x120004) ++ zeros 4)) ∧
    (served s (dmpMsg mb 0x0801 m) →
      (isHead s = false → ans (.chainWalk mb m) 0x0801 0x1012 []) ∧
      (isHead s = true → sideUp s 0 = false → sideUp s 1 = false → ∃ t, exec (.chainWalk mb m) s = .next t ∧
        nodeIs t false 1 0 ∧ t.leash.gen = (s.leash.gen + 1) % 65536 ∧ mbBusy t 256 = false) ∧
      (isHead s = true → sideUp s 1 = true → ∃ t, exec (.chainWalk mb m) s = .next t ∧ walking t = true ∧
        nodeValid t = false ∧ t.leash.gen = (s.leash.gen + 1) % 65536 ∧ t.leash.reply = true ∧ mbBusy t 256 = true)) ∧
    (served s (dmpMsg mb 0x0802 m) →
      (2 ≤ le b 0 1 ∨ zeroes b 1 7 = false → ans (.chainSetHead mb m) 0x0802 0x0F03 []) ∧
      (zeroes b 1 7 = true → le b 0 1 = 0 → s.pins.chainHead = true → ans (.chainSetHead mb m) 0x0802 0x1010 []) ∧
      (zeroes b 1 7 = true → le b 0 1 < 2 → (le b 0 1 = 1 ∨ s.pins.chainHead = false) →
        ∃ t, exec (.chainSetHead mb m) s = .next t ∧ isHead t = decide (le b 0 1 = 1) ∧
          t.leash = { s.leash with elected := decide (le b 0 1 = 1) } ∧ mbBusy t 256 = false)) ∧
    (served s (dmpMsg mb 0x0803 m) →
      (4 ≤ le b 0 1 ∨ zeroes b 1 7 = false → ans (.linkReset mb m) 0x0803 0x0F03 []) ∧
      (le b 0 1 < 4 → zeroes b 1 7 = true → (lport s (le b 0 1)).up = true → ∃ t, exec (.linkReset mb m) s = .next t ∧
        lport t (le b 0 1) = {} ∧ regVal t (lshPort (le b 0 1)) = 0 ∧ mbBusy t 256 = false)) ∧
    (served s (dmpMsg mb 0x0804 m) →
      (4 ≤ le b 1 1 ∨ zeroes b 2 6 = false → ans (.setVfan mb m) 0x0804 0x0F03 []) ∧
      (le b 1 1 < 4 → zeroes b 2 6 = true → kennel? s (le b 0 1) = none → ans (.setVfan mb m) 0x0804 0 []) ∧
      (le b 1 1 < 4 → zeroes b 2 6 = true → kennel? s (le b 0 1) ≠ none → ∃ t, exec (.setVfan mb m) s = .next t ∧
        ∀ k, k < 256 → (regVal t (0x120040 + 8 * (k / 64))).testBit (k % 64) =
            (if k = le b 0 1 then (le b 1 1).testBit 0 else (regVal s (0x120040 + 8 * (k / 64))).testBit (k % 64)) ∧
          (regVal t (0x120060 + 8 * (k / 64))).testBit (k % 64) =
            (if k = le b 0 1 then (le b 1 1).testBit 1 else (regVal s (0x120060 + 8 * (k / 64))).testBit (k % 64))))

def Obligations.LeashLinks : Prop := leashLinks ∧ leashStream ∧ leashDelays

def Obligations.LeashChain : Prop := leashWalks ∧ leashTime ∧ leashMessages

def Obligations.LeashExchange : Prop := leashExchange


/-! ### The whole block -/

/-- The command at the front of the queue is carried out on the state with the queue's rest. -/
def Obligations.StepTakesFrontCommand : Prop :=
  ∀ (c : Instr) (rest : List Instr) (s : State), s.pending = c :: rest →
    step s = exec c { s with pending := rest }

/-- Reset values that the register tables give: EVT_MASK and EVT_ROUTE, ING_GCFG, EP_LEN,
EP_ACCEPT, SHC_CTRL, SHC_ARB, DDR_PATROL, LSH_CFG, LSH_NODE and PWR_ARB. -/
def Sys2Proof.Claims.resetTable : List (Nat × Nat) :=
  [(0x10080, 0x0FFFFFFF000003FE), (0x10090, 0xFFFFFFFFFFFFFFFF), (0x11000, 0x80000000), (0x20000, 0xC6700000), (0x23000, 0xC6700000),
   (0x30004, 0x1000), (0x30028, 0x401), (0xD0000, 1), (0xD0008, 64), (0x10F00C, 0x80000018),
   (0x120000, 0x20), (0x120008, 0xFFFF0000), (0x130048, 64)]

/-- After reset the registers hold what their tables give; no kennel, job, plan, link or event
exists, DRAM holds nothing that is not 0, and no command waits. What reset leaves in memories,
lists and counters is the model's choice (log entries 1 and 4); that every vector is masked is PCI
Express's reset value (log entry 79). -/
def Obligations.ResetValues : Prop :=
  (∀ e ∈ resetTable, regVal State.reset e.1 = e.2) ∧
  (∀ v, v < 2048 → vectorMasked State.reset v = true) ∧
  (∀ k, kennel? State.reset k = none) ∧ (∀ j, job? State.reset j = none) ∧
  State.reset.timing.epoch = 0 ∧ State.reset.timing.tick = 0 ∧ State.reset.timing.len = 4096 ∧
  (∀ p, (lport State.reset p).up = false) ∧ State.reset.pba = [] ∧ State.reset.out = [] ∧
  fatal State.reset = false ∧ devErr State.reset = false ∧ ready State.reset = false ∧
  (∀ a, State.reset.dram.mem.get a = 0) ∧ State.reset.pending = []

/-- The block after reset satisfies the invariant that each step keeps. -/
def Obligations.InvariantAtReset : Prop := State.reset.inv = true

/-- Device DRAM stays in canonical form, whatever the command. -/
def Obligations.StepKeepsMemory : Prop :=
  ∀ s t : State, s.dram.mem.wf = true → step s = .next t → t.dram.mem.wf = true

/-- The firmware slots stay in canonical form, whatever the command. -/
def Obligations.StepKeepsImages : Prop :=
  ∀ s t : State, (s.herder.slotA.wf && s.herder.slotB.wf) = true → step s = .next t →
    (t.herder.slotA.wf && t.herder.slotB.wf) = true

/-- Every Hound keeps 32 X and V registers and 8 M registers, a VLEN that R241 admits, and a
scratchpad in canonical form, whatever the command. -/
def Obligations.StepKeepsHounds : Prop :=
  ∀ s t : State, s.hounds.all (fun e => e.2.shaped) = true → step s = .next t →
    t.hounds.all (fun e => e.2.shaped) = true

end
end

