-- ==== Sys2Proof/Laws/State.lean ====
section
/-! SUPPORT. What each plain update of the state changes and what it leaves: one
lemma per field, so that a proof never unfolds a record update. -/

namespace Sys2Proof.Machine

open Sys2Proof

@[simp] theorem setReg_regs (s : State) (off v : Nat) : (setReg s off v).regs = tset s.regs off v := rfl
@[simp] theorem setReg_groups (s : State) (off v : Nat) : (setReg s off v).groups = s.groups := rfl
@[simp] theorem setReg_timing (s : State) (off v : Nat) : (setReg s off v).timing = s.timing := rfl
@[simp] theorem setReg_kennels (s : State) (off v : Nat) : (setReg s off v).kennels = s.kennels := rfl
@[simp] theorem setReg_jobs (s : State) (off v : Nat) : (setReg s off v).jobs = s.jobs := rfl
@[simp] theorem setReg_nextJob (s : State) (off v : Nat) : (setReg s off v).nextJob = s.nextJob := rfl
@[simp] theorem setReg_nextOrder (s : State) (off v : Nat) : (setReg s off v).nextOrder = s.nextOrder := rfl
@[simp] theorem setReg_engines (s : State) (off v : Nat) : (setReg s off v).engines = s.engines := rfl
@[simp] theorem setReg_slots (s : State) (off v : Nat) : (setReg s off v).slots = s.slots := rfl
@[simp] theorem setReg_qe (s : State) (off v : Nat) : (setReg s off v).qe = s.qe := rfl
@[simp] theorem setReg_hounds (s : State) (off v : Nat) : (setReg s off v).hounds = s.hounds := rfl
@[simp] theorem setReg_scent (s : State) (off v : Nat) : (setReg s off v).scent = s.scent := rfl
@[simp] theorem setReg_scentNext (s : State) (off v : Nat) : (setReg s off v).scentNext = s.scentNext := rfl
@[simp] theorem setReg_dge (s : State) (off v : Nat) : (setReg s off v).dge = s.dge := rfl
@[simp] theorem setReg_dram (s : State) (off v : Nat) : (setReg s off v).dram = s.dram := rfl
@[simp] theorem setReg_shc (s : State) (off v : Nat) : (setReg s off v).shc = s.shc := rfl
@[simp] theorem setReg_store (s : State) (off v : Nat) : (setReg s off v).store = s.store := rfl
@[simp] theorem setReg_selfTest (s : State) (off v : Nat) : (setReg s off v).selfTest = s.selfTest := rfl
@[simp] theorem setReg_herder (s : State) (off v : Nat) : (setReg s off v).herder = s.herder := rfl
@[simp] theorem setReg_leash (s : State) (off v : Nat) : (setReg s off v).leash = s.leash := rfl
@[simp] theorem setReg_power (s : State) (off v : Nat) : (setReg s off v).power = s.power := rfl
@[simp] theorem setReg_pins (s : State) (off v : Nat) : (setReg s off v).pins = s.pins := rfl
@[simp] theorem setReg_vreq (s : State) (off v : Nat) : (setReg s off v).vreq = s.vreq := rfl
@[simp] theorem setReg_pba (s : State) (off v : Nat) : (setReg s off v).pba = s.pba := rfl
@[simp] theorem setReg_windows (s : State) (off v : Nat) : (setReg s off v).windows = s.windows := rfl
@[simp] theorem setReg_free (s : State) (off v : Nat) : (setReg s off v).free = s.free := rfl
@[simp] theorem setReg_out (s : State) (off v : Nat) : (setReg s off v).out = s.out := rfl
@[simp] theorem setReg_pending (s : State) (off v : Nat) : (setReg s off v).pending = s.pending := rfl

@[simp] theorem setRegField_regs (s : State) (off lo w x : Nat) : (setRegField s off lo w x).regs = tset s.regs off (setField (regVal s off) lo w x) := rfl
@[simp] theorem setRegField_groups (s : State) (off lo w x : Nat) : (setRegField s off lo w x).groups = s.groups := rfl
@[simp] theorem setRegField_timing (s : State) (off lo w x : Nat) : (setRegField s off lo w x).timing = s.timing := rfl
@[simp] theorem setRegField_kennels (s : State) (off lo w x : Nat) : (setRegField s off lo w x).kennels = s.kennels := rfl
@[simp] theorem setRegField_jobs (s : State) (off lo w x : Nat) : (setRegField s off lo w x).jobs = s.jobs := rfl
@[simp] theorem setRegField_nextJob (s : State) (off lo w x : Nat) : (setRegField s off lo w x).nextJob = s.nextJob := rfl
@[simp] theorem setRegField_nextOrder (s : State) (off lo w x : Nat) : (setRegField s off lo w x).nextOrder = s.nextOrder := rfl
@[simp] theorem setRegField_engines (s : State) (off lo w x : Nat) : (setRegField s off lo w x).engines = s.engines := rfl
@[simp] theorem setRegField_slots (s : State) (off lo w x : Nat) : (setRegField s off lo w x).slots = s.slots := rfl
@[simp] theorem setRegField_qe (s : State) (off lo w x : Nat) : (setRegField s off lo w x).qe = s.qe := rfl
@[simp] theorem setRegField_hounds (s : State) (off lo w x : Nat) : (setRegField s off lo w x).hounds = s.hounds := rfl
@[simp] theorem setRegField_scent (s : State) (off lo w x : Nat) : (setRegField s off lo w x).scent = s.scent := rfl
@[simp] theorem setRegField_scentNext (s : State) (off lo w x : Nat) : (setRegField s off lo w x).scentNext = s.scentNext := rfl
@[simp] theorem setRegField_dge (s : State) (off lo w x : Nat) : (setRegField s off lo w x).dge = s.dge := rfl
@[simp] theorem setRegField_dram (s : State) (off lo w x : Nat) : (setRegField s off lo w x).dram = s.dram := rfl
@[simp] theorem setRegField_shc (s : State) (off lo w x : Nat) : (setRegField s off lo w x).shc = s.shc := rfl
@[simp] theorem setRegField_store (s : State) (off lo w x : Nat) : (setRegField s off lo w x).store = s.store := rfl
@[simp] theorem setRegField_selfTest (s : State) (off lo w x : Nat) : (setRegField s off lo w x).selfTest = s.selfTest := rfl
@[simp] theorem setRegField_herder (s : State) (off lo w x : Nat) : (setRegField s off lo w x).herder = s.herder := rfl
@[simp] theorem setRegField_leash (s : State) (off lo w x : Nat) : (setRegField s off lo w x).leash = s.leash := rfl
@[simp] theorem setRegField_power (s : State) (off lo w x : Nat) : (setRegField s off lo w x).power = s.power := rfl
@[simp] theorem setRegField_pins (s : State) (off lo w x : Nat) : (setRegField s off lo w x).pins = s.pins := rfl
@[simp] theorem setRegField_vreq (s : State) (off lo w x : Nat) : (setRegField s off lo w x).vreq = s.vreq := rfl
@[simp] theorem setRegField_pba (s : State) (off lo w x : Nat) : (setRegField s off lo w x).pba = s.pba := rfl
@[simp] theorem setRegField_windows (s : State) (off lo w x : Nat) : (setRegField s off lo w x).windows = s.windows := rfl
@[simp] theorem setRegField_free (s : State) (off lo w x : Nat) : (setRegField s off lo w x).free = s.free := rfl
@[simp] theorem setRegField_out (s : State) (off lo w x : Nat) : (setRegField s off lo w x).out = s.out := rfl
@[simp] theorem setRegField_pending (s : State) (off lo w x : Nat) : (setRegField s off lo w x).pending = s.pending := rfl

@[simp] theorem emit_regs (s : State) (o : Out) : (emit s o).regs = s.regs := rfl
@[simp] theorem emit_groups (s : State) (o : Out) : (emit s o).groups = s.groups := rfl
@[simp] theorem emit_timing (s : State) (o : Out) : (emit s o).timing = s.timing := rfl
@[simp] theorem emit_kennels (s : State) (o : Out) : (emit s o).kennels = s.kennels := rfl
@[simp] theorem emit_jobs (s : State) (o : Out) : (emit s o).jobs = s.jobs := rfl
@[simp] theorem emit_nextJob (s : State) (o : Out) : (emit s o).nextJob = s.nextJob := rfl
@[simp] theorem emit_nextOrder (s : State) (o : Out) : (emit s o).nextOrder = s.nextOrder := rfl
@[simp] theorem emit_engines (s : State) (o : Out) : (emit s o).engines = s.engines := rfl
@[simp] theorem emit_slots (s : State) (o : Out) : (emit s o).slots = s.slots := rfl
@[simp] theorem emit_qe (s : State) (o : Out) : (emit s o).qe = s.qe := rfl
@[simp] theorem emit_hounds (s : State) (o : Out) : (emit s o).hounds = s.hounds := rfl
@[simp] theorem emit_scent (s : State) (o : Out) : (emit s o).scent = s.scent := rfl
@[simp] theorem emit_scentNext (s : State) (o : Out) : (emit s o).scentNext = s.scentNext := rfl
@[simp] theorem emit_dge (s : State) (o : Out) : (emit s o).dge = s.dge := rfl
@[simp] theorem emit_dram (s : State) (o : Out) : (emit s o).dram = s.dram := rfl
@[simp] theorem emit_shc (s : State) (o : Out) : (emit s o).shc = s.shc := rfl
@[simp] theorem emit_store (s : State) (o : Out) : (emit s o).store = s.store := rfl
@[simp] theorem emit_selfTest (s : State) (o : Out) : (emit s o).selfTest = s.selfTest := rfl
@[simp] theorem emit_herder (s : State) (o : Out) : (emit s o).herder = s.herder := rfl
@[simp] theorem emit_leash (s : State) (o : Out) : (emit s o).leash = s.leash := rfl
@[simp] theorem emit_power (s : State) (o : Out) : (emit s o).power = s.power := rfl
@[simp] theorem emit_pins (s : State) (o : Out) : (emit s o).pins = s.pins := rfl
@[simp] theorem emit_vreq (s : State) (o : Out) : (emit s o).vreq = s.vreq := rfl
@[simp] theorem emit_pba (s : State) (o : Out) : (emit s o).pba = s.pba := rfl
@[simp] theorem emit_windows (s : State) (o : Out) : (emit s o).windows = s.windows := rfl
@[simp] theorem emit_free (s : State) (o : Out) : (emit s o).free = s.free := rfl
@[simp] theorem emit_out (s : State) (o : Out) : (emit s o).out = s.out ++ [o] := rfl
@[simp] theorem emit_pending (s : State) (o : Out) : (emit s o).pending = s.pending := rfl

@[simp] theorem modKennel_regs (s : State) (k : Nat) (f : Kennel → Kennel) : (modKennel s k f).regs = s.regs := rfl
@[simp] theorem modKennel_groups (s : State) (k : Nat) (f : Kennel → Kennel) : (modKennel s k f).groups = s.groups := rfl
@[simp] theorem modKennel_timing (s : State) (k : Nat) (f : Kennel → Kennel) : (modKennel s k f).timing = s.timing := rfl
@[simp] theorem modKennel_kennels (s : State) (k : Nat) (f : Kennel → Kennel) : (modKennel s k f).kennels = tmod s.kennels k f := rfl
@[simp] theorem modKennel_jobs (s : State) (k : Nat) (f : Kennel → Kennel) : (modKennel s k f).jobs = s.jobs := rfl
@[simp] theorem modKennel_nextJob (s : State) (k : Nat) (f : Kennel → Kennel) : (modKennel s k f).nextJob = s.nextJob := rfl
@[simp] theorem modKennel_nextOrder (s : State) (k : Nat) (f : Kennel → Kennel) : (modKennel s k f).nextOrder = s.nextOrder := rfl
@[simp] theorem modKennel_engines (s : State) (k : Nat) (f : Kennel → Kennel) : (modKennel s k f).engines = s.engines := rfl
@[simp] theorem modKennel_slots (s : State) (k : Nat) (f : Kennel → Kennel) : (modKennel s k f).slots = s.slots := rfl
@[simp] theorem modKennel_qe (s : State) (k : Nat) (f : Kennel → Kennel) : (modKennel s k f).qe = s.qe := rfl
@[simp] theorem modKennel_hounds (s : State) (k : Nat) (f : Kennel → Kennel) : (modKennel s k f).hounds = s.hounds := rfl
@[simp] theorem modKennel_scent (s : State) (k : Nat) (f : Kennel → Kennel) : (modKennel s k f).scent = s.scent := rfl
@[simp] theorem modKennel_scentNext (s : State) (k : Nat) (f : Kennel → Kennel) : (modKennel s k f).scentNext = s.scentNext := rfl
@[simp] theorem modKennel_dge (s : State) (k : Nat) (f : Kennel → Kennel) : (modKennel s k f).dge = s.dge := rfl
@[simp] theorem modKennel_dram (s : State) (k : Nat) (f : Kennel → Kennel) : (modKennel s k f).dram = s.dram := rfl
@[simp] theorem modKennel_shc (s : State) (k : Nat) (f : Kennel → Kennel) : (modKennel s k f).shc = s.shc := rfl
@[simp] theorem modKennel_store (s : State) (k : Nat) (f : Kennel → Kennel) : (modKennel s k f).store = s.store := rfl
@[simp] theorem modKennel_selfTest (s : State) (k : Nat) (f : Kennel → Kennel) : (modKennel s k f).selfTest = s.selfTest := rfl
@[simp] theorem modKennel_herder (s : State) (k : Nat) (f : Kennel → Kennel) : (modKennel s k f).herder = s.herder := rfl
@[simp] theorem modKennel_leash (s : State) (k : Nat) (f : Kennel → Kennel) : (modKennel s k f).leash = s.leash := rfl
@[simp] theorem modKennel_power (s : State) (k : Nat) (f : Kennel → Kennel) : (modKennel s k f).power = s.power := rfl
@[simp] theorem modKennel_pins (s : State) (k : Nat) (f : Kennel → Kennel) : (modKennel s k f).pins = s.pins := rfl
@[simp] theorem modKennel_vreq (s : State) (k : Nat) (f : Kennel → Kennel) : (modKennel s k f).vreq = s.vreq := rfl
@[simp] theorem modKennel_pba (s : State) (k : Nat) (f : Kennel → Kennel) : (modKennel s k f).pba = s.pba := rfl
@[simp] theorem modKennel_windows (s : State) (k : Nat) (f : Kennel → Kennel) : (modKennel s k f).windows = s.windows := rfl
@[simp] theorem modKennel_free (s : State) (k : Nat) (f : Kennel → Kennel) : (modKennel s k f).free = s.free := rfl
@[simp] theorem modKennel_out (s : State) (k : Nat) (f : Kennel → Kennel) : (modKennel s k f).out = s.out := rfl
@[simp] theorem modKennel_pending (s : State) (k : Nat) (f : Kennel → Kennel) : (modKennel s k f).pending = s.pending := rfl

@[simp] theorem modJob_regs (s : State) (j : Nat) (f : Job → Job) : (modJob s j f).regs = s.regs := rfl
@[simp] theorem modJob_groups (s : State) (j : Nat) (f : Job → Job) : (modJob s j f).groups = s.groups := rfl
@[simp] theorem modJob_timing (s : State) (j : Nat) (f : Job → Job) : (modJob s j f).timing = s.timing := rfl
@[simp] theorem modJob_kennels (s : State) (j : Nat) (f : Job → Job) : (modJob s j f).kennels = s.kennels := rfl
@[simp] theorem modJob_jobs (s : State) (j : Nat) (f : Job → Job) : (modJob s j f).jobs = tmod s.jobs j f := rfl
@[simp] theorem modJob_nextJob (s : State) (j : Nat) (f : Job → Job) : (modJob s j f).nextJob = s.nextJob := rfl
@[simp] theorem modJob_nextOrder (s : State) (j : Nat) (f : Job → Job) : (modJob s j f).nextOrder = s.nextOrder := rfl
@[simp] theorem modJob_engines (s : State) (j : Nat) (f : Job → Job) : (modJob s j f).engines = s.engines := rfl
@[simp] theorem modJob_slots (s : State) (j : Nat) (f : Job → Job) : (modJob s j f).slots = s.slots := rfl
@[simp] theorem modJob_qe (s : State) (j : Nat) (f : Job → Job) : (modJob s j f).qe = s.qe := rfl
@[simp] theorem modJob_hounds (s : State) (j : Nat) (f : Job → Job) : (modJob s j f).hounds = s.hounds := rfl
@[simp] theorem modJob_scent (s : State) (j : Nat) (f : Job → Job) : (modJob s j f).scent = s.scent := rfl
@[simp] theorem modJob_scentNext (s : State) (j : Nat) (f : Job → Job) : (modJob s j f).scentNext = s.scentNext := rfl
@[simp] theorem modJob_dge (s : State) (j : Nat) (f : Job → Job) : (modJob s j f).dge = s.dge := rfl
@[simp] theorem modJob_dram (s : State) (j : Nat) (f : Job → Job) : (modJob s j f).dram = s.dram := rfl
@[simp] theorem modJob_shc (s : State) (j : Nat) (f : Job → Job) : (modJob s j f).shc = s.shc := rfl
@[simp] theorem modJob_store (s : State) (j : Nat) (f : Job → Job) : (modJob s j f).store = s.store := rfl
@[simp] theorem modJob_selfTest (s : State) (j : Nat) (f : Job → Job) : (modJob s j f).selfTest = s.selfTest := rfl
@[simp] theorem modJob_herder (s : State) (j : Nat) (f : Job → Job) : (modJob s j f).herder = s.herder := rfl
@[simp] theorem modJob_leash (s : State) (j : Nat) (f : Job → Job) : (modJob s j f).leash = s.leash := rfl
@[simp] theorem modJob_power (s : State) (j : Nat) (f : Job → Job) : (modJob s j f).power = s.power := rfl
@[simp] theorem modJob_pins (s : State) (j : Nat) (f : Job → Job) : (modJob s j f).pins = s.pins := rfl
@[simp] theorem modJob_vreq (s : State) (j : Nat) (f : Job → Job) : (modJob s j f).vreq = s.vreq := rfl
@[simp] theorem modJob_pba (s : State) (j : Nat) (f : Job → Job) : (modJob s j f).pba = s.pba := rfl
@[simp] theorem modJob_windows (s : State) (j : Nat) (f : Job → Job) : (modJob s j f).windows = s.windows := rfl
@[simp] theorem modJob_free (s : State) (j : Nat) (f : Job → Job) : (modJob s j f).free = s.free := rfl
@[simp] theorem modJob_out (s : State) (j : Nat) (f : Job → Job) : (modJob s j f).out = s.out := rfl
@[simp] theorem modJob_pending (s : State) (j : Nat) (f : Job → Job) : (modJob s j f).pending = s.pending := rfl

@[simp] theorem setHound_regs (s : State) (h : Nat) (x : HoundSt) : (setHound s h x).regs = s.regs := rfl
@[simp] theorem setHound_groups (s : State) (h : Nat) (x : HoundSt) : (setHound s h x).groups = s.groups := rfl
@[simp] theorem setHound_timing (s : State) (h : Nat) (x : HoundSt) : (setHound s h x).timing = s.timing := rfl
@[simp] theorem setHound_kennels (s : State) (h : Nat) (x : HoundSt) : (setHound s h x).kennels = s.kennels := rfl
@[simp] theorem setHound_jobs (s : State) (h : Nat) (x : HoundSt) : (setHound s h x).jobs = s.jobs := rfl
@[simp] theorem setHound_nextJob (s : State) (h : Nat) (x : HoundSt) : (setHound s h x).nextJob = s.nextJob := rfl
@[simp] theorem setHound_nextOrder (s : State) (h : Nat) (x : HoundSt) : (setHound s h x).nextOrder = s.nextOrder := rfl
@[simp] theorem setHound_engines (s : State) (h : Nat) (x : HoundSt) : (setHound s h x).engines = s.engines := rfl
@[simp] theorem setHound_slots (s : State) (h : Nat) (x : HoundSt) : (setHound s h x).slots = s.slots := rfl
@[simp] theorem setHound_qe (s : State) (h : Nat) (x : HoundSt) : (setHound s h x).qe = s.qe := rfl
@[simp] theorem setHound_hounds (s : State) (h : Nat) (x : HoundSt) : (setHound s h x).hounds = tset s.hounds h x := rfl
@[simp] theorem setHound_scent (s : State) (h : Nat) (x : HoundSt) : (setHound s h x).scent = s.scent := rfl
@[simp] theorem setHound_scentNext (s : State) (h : Nat) (x : HoundSt) : (setHound s h x).scentNext = s.scentNext := rfl
@[simp] theorem setHound_dge (s : State) (h : Nat) (x : HoundSt) : (setHound s h x).dge = s.dge := rfl
@[simp] theorem setHound_dram (s : State) (h : Nat) (x : HoundSt) : (setHound s h x).dram = s.dram := rfl
@[simp] theorem setHound_shc (s : State) (h : Nat) (x : HoundSt) : (setHound s h x).shc = s.shc := rfl
@[simp] theorem setHound_store (s : State) (h : Nat) (x : HoundSt) : (setHound s h x).store = s.store := rfl
@[simp] theorem setHound_selfTest (s : State) (h : Nat) (x : HoundSt) : (setHound s h x).selfTest = s.selfTest := rfl
@[simp] theorem setHound_herder (s : State) (h : Nat) (x : HoundSt) : (setHound s h x).herder = s.herder := rfl
@[simp] theorem setHound_leash (s : State) (h : Nat) (x : HoundSt) : (setHound s h x).leash = s.leash := rfl
@[simp] theorem setHound_power (s : State) (h : Nat) (x : HoundSt) : (setHound s h x).power = s.power := rfl
@[simp] theorem setHound_pins (s : State) (h : Nat) (x : HoundSt) : (setHound s h x).pins = s.pins := rfl
@[simp] theorem setHound_vreq (s : State) (h : Nat) (x : HoundSt) : (setHound s h x).vreq = s.vreq := rfl
@[simp] theorem setHound_pba (s : State) (h : Nat) (x : HoundSt) : (setHound s h x).pba = s.pba := rfl
@[simp] theorem setHound_windows (s : State) (h : Nat) (x : HoundSt) : (setHound s h x).windows = s.windows := rfl
@[simp] theorem setHound_free (s : State) (h : Nat) (x : HoundSt) : (setHound s h x).free = s.free := rfl
@[simp] theorem setHound_out (s : State) (h : Nat) (x : HoundSt) : (setHound s h x).out = s.out := rfl
@[simp] theorem setHound_pending (s : State) (h : Nat) (x : HoundSt) : (setHound s h x).pending = s.pending := rfl

end Sys2Proof.Machine
end

