-- ==== Sys2Proof/Laws/Table.lean ====
section
/-! SUPPORT. Tables by number and bit fields: a read after a write gives what was
written, and a write leaves every other number, and every other bit, alone. -/

namespace Sys2Proof.Machine

open Sys2Proof

/-! ### Tables -/

section Table

variable {α : Type}

@[simp] theorem tfind_tset_same (k : Nat) (a : α) : ∀ t : Tbl α, tfind? (tset t k a) k = some a
  | [] => by simp [tset, tfind?]
  | (j, b) :: r => by
    unfold tset
    split
    · simp [tfind?]
    · split
      · simp [tfind?]
      · rename_i h
        rw [tfind?, if_neg (Ne.symm h), tfind_tset_same k a r]

theorem tfind_tset_other {k l : Nat} (a : α) (h : l ≠ k) : ∀ t : Tbl α, tfind? (tset t k a) l = tfind? t l
  | [] => by simp [tset, tfind?, Ne.symm h]
  | (j, b) :: r => by
    unfold tset
    split
    · rw [tfind?, if_neg (Ne.symm h)]
    · split
      · rename_i hk
        subst hk
        simp [tfind?, Ne.symm h]
      · rw [tfind?, tfind?, tfind_tset_other a h r]

/-- A table after a write. -/
theorem tfind_tset (t : Tbl α) (k l : Nat) (a : α) :
    tfind? (tset t k a) l = if l = k then some a else tfind? t l := by
  by_cases h : l = k
  · rw [if_pos h, h, tfind_tset_same]
  · rw [if_neg h, tfind_tset_other a h]

/-- A table after a change of one entry. -/
theorem tfind_tmod (k l : Nat) (f : α → α) :
    ∀ t : Tbl α, tfind? (tmod t k f) l = if l = k then (tfind? t l).map f else tfind? t l
  | [] => by simp [tmod, tfind?]
  | (j, b) :: r => by
    have ih := tfind_tmod k l f r
    unfold tmod at ih ⊢
    rw [List.map_cons]
    by_cases hj : j = k
    · by_cases hl : j = l
      · simp [tfind?, hj, ← hl]
      · rw [if_pos hj, tfind?, if_neg hl, ih, tfind?, if_neg hl]
    · by_cases hl : j = l
      · have hlk : ¬ l = k := fun h => hj (hl.trans h)
        rw [if_neg hj, tfind?, if_pos hl, if_neg hlk, tfind?, if_pos hl]
      · rw [if_neg hj, tfind?, if_neg hl, ih, tfind?, if_neg hl]

/-- A table after an entry is dropped. -/
theorem tfind_tdel (k l : Nat) :
    ∀ t : Tbl α, tfind? (tdel t k) l = if l = k then none else tfind? t l
  | [] => by simp [tdel, tfind?]
  | (j, b) :: r => by
    have ih := tfind_tdel k l r
    unfold tdel at ih ⊢
    by_cases hj : j = k
    · rw [List.filter_cons_of_neg (by simp [hj]), ih]
      by_cases hl : l = k
      · rw [if_pos hl, if_pos hl]
      · rw [if_neg hl, if_neg hl, tfind?, if_neg (show ¬ j = l from fun h => hl (h.symm.trans hj))]
    · rw [List.filter_cons_of_pos (by simp [hj]), tfind?, ih, tfind?]
      by_cases hl : j = l
      · simp [hl, show ¬ l = k from fun h => hj (hl.trans h)]
      · rw [if_neg hl, if_neg hl]

theorem tget_tset (t : Tbl α) (k l : Nat) (a d : α) :
    tget (tset t k a) l d = if l = k then a else tget t l d := by
  unfold tget
  rw [tfind_tset]
  split <;> rfl

end Table

/-! ### Bit fields -/

/-- A field is made of its bits. -/
theorem testBit_field (v lo w i : Nat) :
    (field v lo w).testBit i = (decide (i < w) && v.testBit (lo + i)) := by
  unfold field
  rw [Nat.testBit_mod_two_pow, Nat.testBit_shiftRight]

theorem setField_eq (v lo w x : Nat) :
    setField v lo w x = 2 ^ lo * (2 ^ w * (v / 2 ^ (lo + w)) + x % 2 ^ w) + v % 2 ^ lo := by
  unfold setField field
  rw [Nat.shiftRight_eq_div_pow]
  have h1 : v = 2 ^ lo * (v / 2 ^ lo) + v % 2 ^ lo := (Nat.div_add_mod v (2 ^ lo)).symm
  have h2 : v / 2 ^ lo = 2 ^ w * (v / 2 ^ lo / 2 ^ w) + v / 2 ^ lo % 2 ^ w :=
    (Nat.div_add_mod _ _).symm
  have h3 : v / 2 ^ lo / 2 ^ w = v / 2 ^ (lo + w) := by rw [Nat.div_div_eq_div_mul, Nat.pow_add]
  rw [h3] at h2
  generalize v / 2 ^ (lo + w) = q at *
  generalize v / 2 ^ lo % 2 ^ w = m at *
  generalize v % 2 ^ lo = r at *
  rw [h2] at h1
  rw [h1, Nat.mul_add, Nat.mul_add, Nat.mul_comm m (2 ^ lo), Nat.mul_comm (x % 2 ^ w) (2 ^ lo)]
  omega

/-- The bits of a value with one field replaced. -/
theorem testBit_setField (v lo w x i : Nat) :
    (setField v lo w x).testBit i =
      if lo ≤ i ∧ i < lo + w then x.testBit (i - lo) else v.testBit i := by
  rw [setField_eq, Nat.testBit_two_pow_mul_add _ (Nat.mod_lt _ (Nat.two_pow_pos lo))]
  by_cases h : i < lo
  · rw [if_pos h, if_neg (by omega), Nat.testBit_mod_two_pow]
    simp [h]
  · rw [if_neg h, Nat.testBit_two_pow_mul_add _ (Nat.mod_lt _ (Nat.two_pow_pos w))]
    by_cases h2 : i - lo < w
    · rw [if_pos h2, if_pos (by omega), Nat.testBit_mod_two_pow]
      simp [h2]
    · rw [if_neg h2, if_neg (by omega), Nat.testBit_div_two_pow]
      congr 1
      omega

/-- A field reads as it was written. -/
theorem field_setField_same (v lo w x : Nat) : field (setField v lo w x) lo w = x % 2 ^ w := by
  apply Nat.eq_of_testBit_eq
  intro i
  rw [testBit_field, testBit_setField, Nat.testBit_mod_two_pow]
  by_cases h : i < w
  · rw [if_pos (by omega)]
    simp [h]
  · simp [h]

/-- A write of a field leaves every field beside it alone. -/
theorem field_setField_other (v lo w x lo' w' : Nat) (h : lo' + w' ≤ lo ∨ lo + w ≤ lo') :
    field (setField v lo w x) lo' w' = field v lo' w' := by
  apply Nat.eq_of_testBit_eq
  intro i
  rw [testBit_field, testBit_field, testBit_setField]
  by_cases hi : i < w'
  · rw [if_neg (by omega)]
  · simp [hi]

/-- A bit after a write of a field. -/
theorem bitAt_setField (v lo w x i : Nat) :
    bitAt (setField v lo w x) i = if lo ≤ i ∧ i < lo + w then x.testBit (i - lo) else bitAt v i :=
  testBit_setField v lo w x i

end Sys2Proof.Machine
end

