-- ==== Sys2Proof/Laws/Ops.lean ====
section
/-! SUPPORT. What the shared operations can do: each answers the state with only the
parts named here changed. -/

namespace Sys2Proof.Machine

open Sys2Proof

/-! ### Registers -/

theorem regVal_setReg (s : State) (off o v : Nat) :
    regVal (setReg s off v) o = if o = off then v else regVal s o := by
  unfold regVal
  rw [setReg_regs, tfind_tset]
  split <;> rfl

@[simp] theorem regVal_setReg_same (s : State) (off v : Nat) : regVal (setReg s off v) off = v := by
  rw [regVal_setReg, if_pos rfl]

theorem regVal_setReg_other (s : State) {off o : Nat} (v : Nat) (h : o ≠ off) :
    regVal (setReg s off v) o = regVal s o := by
  rw [regVal_setReg, if_neg h]

theorem regVal_setRegField (s : State) (off lo w x o : Nat) :
    regVal (setRegField s off lo w x) o =
      if o = off then setField (regVal s off) lo w x else regVal s o :=
  regVal_setReg s off o _

/-- A value of a register depends on the registers alone. -/
theorem regVal_congr {s t : State} (h : t.regs = s.regs) (o : Nat) : regVal t o = regVal s o := by
  unfold regVal
  rw [h]

/-- A counter changes the registers alone. -/
theorem cntW_eq (b : Nat) (s : State) (off n : Nat) : ∃ r, cntW b s off n = { s with regs := r } := by
  unfold cntW
  split
  · exact ⟨s.regs, rfl⟩
  · exact ⟨_, rfl⟩

theorem cnt_eq (s : State) (off n : Nat) : ∃ r, cnt s off n = { s with regs := r } := cntW_eq 32 s off n

/-- A counter saturates, and leaves every other register alone. -/
theorem regVal_cnt (s : State) (off n o : Nat) (hb : regVal s off < 2 ^ 32) :
    regVal (cnt s off n) o = if o = off then min (2 ^ 32 - 1) (regVal s off + n) else regVal s o := by
  unfold cnt cntW
  by_cases hn : n = 0
  · rw [if_pos hn]
    by_cases ho : o = off
    · rw [if_pos ho, ho, hn]
      omega
    · rw [if_neg ho]
  · rw [if_neg hn, regVal_setReg]

theorem regVal_cnt_other (s : State) {off o : Nat} (n : Nat) (h : o ≠ off) :
    regVal (cnt s off n) o = regVal s o := by
  unfold cnt cntW
  split
  · rfl
  · rw [regVal_setReg_other _ _ h]

/-! ### Free values -/

@[simp] theorem takeFree_fst (s : State) : (takeFree s).1 = Config.freeNat s.free := rfl
@[simp] theorem takeFree_snd (s : State) : (takeFree s).2 = { s with free := s.free + 1 } := rfl

/-- A free choice takes an element of the list, and changes the count of free values alone. -/
theorem pick_eq {α : Type} {s s' : State} {l : List α} {a : α} (h : pick s l = some (a, s')) :
    a ∈ l ∧ ∃ n, s' = { s with free := n } := by
  unfold pick at h
  match l, h with
  | [b], h =>
    simp only [Option.some.injEq, Prod.mk.injEq] at h
    exact ⟨by simp [h.1], s.free, by rw [← h.2]⟩
  | b :: c :: r, h =>
    simp only [Option.some.injEq, Prod.mk.injEq] at h
    obtain ⟨ha, hs⟩ := h
    refine ⟨?_, s.free + 1, by rw [← hs]; rfl⟩
    have hlt : (takeFree s).1 % ((c :: r).length + 1) < (b :: c :: r).length := by
      simpa using Nat.mod_lt _ (Nat.succ_pos _)
    rw [← ha, List.getElem?_eq_getElem hlt, Option.getD_some]
    exact List.getElem_mem hlt

/-! ### Output -/

theorem hostWrite_eq (s : State) (k addr : Nat) (data : Bytes) :
    ∃ o, hostWrite s k addr data = { s with out := o } := by
  unfold hostWrite
  split
  · exact ⟨s.out, rfl⟩
  · exact ⟨_, rfl⟩

/-! ### Vectors and events -/

theorem requestVector_eq (s : State) (v : Nat) : ∃ r, requestVector s v = { s with vreq := r } := by
  unfold requestVector
  split
  · exact ⟨s.vreq, rfl⟩
  · exact ⟨_, rfl⟩

/-- Raising a source changes the registers and the requests of vectors alone. -/
theorem raiseEvent_eq (s : State) (n : Nat) : ∃ r v, raiseEvent s n = { s with regs := r, vreq := v } := by
  unfold raiseEvent
  split
  · exact ⟨s.regs, s.vreq, rfl⟩
  · dsimp only
    split
    · obtain ⟨v, hv⟩ := requestVector_eq (setRegField s (0x10000 + 8 * (n / 64)) (n % 64) 1 1)
        (field (evtRoute (setRegField s (0x10000 + 8 * (n / 64)) (n % 64) 1 1) n) 0 11)
      exact ⟨_, v, by rw [hv]; rfl⟩
    · exact ⟨_, s.vreq, rfl⟩

theorem kennelError_eq (s : State) (k : Nat) : ∃ r v, kennelError s k = { s with regs := r, vreq := v } := by
  unfold kennelError
  obtain ⟨r, v, h⟩ := raiseEvent_eq (setRegField s (page k + 0x3100) 7 1 1) (256 + k)
  exact ⟨r, v, h⟩

theorem sendVector_eq (s : State) (v : Nat) :
    ∃ r p o, sendVector s v = { s with regs := r, pba := p, out := o } := by
  unfold sendVector
  obtain ⟨r, h⟩ := cnt_eq (emit { s with pba := s.pba.filter (· != v) } (.msix v)) 0xE0028 1
  exact ⟨r, _, _, by rw [h]; rfl⟩

theorem foldl_sendVector_eq (l : List Nat) :
    ∀ s : State, ∃ r p o, l.foldl sendVector s = { s with regs := r, pba := p, out := o } := by
  induction l with
  | nil => intro s; exact ⟨s.regs, s.pba, s.out, rfl⟩
  | cons v l ih =>
    intro s
    obtain ⟨r, p, o, h⟩ := sendVector_eq s v
    obtain ⟨r', p', o', h'⟩ := ih (sendVector s v)
    exact ⟨r', p', o', by rw [List.foldl_cons, h', h]⟩

theorem sendHeld_eq (s : State) : ∃ r p o, sendHeld s = { s with regs := r, pba := p, out := o } :=
  foldl_sendVector_eq _ s

/-! ### Jobs and plans -/

theorem cntVertex_eq (s : State) (k h vid i n : Nat) :
    ∃ ks, cntVertex s k h vid i n = { s with kennels := ks } := by
  unfold cntVertex
  split
  · exact ⟨s.kennels, rfl⟩
  · exact ⟨_, rfl⟩

/-- A failing job changes the jobs, and what its plan keeps for PLAN_STATUS. -/
theorem failJobWith_eq (s : State) (j status vid : Nat) (d : List Nat) :
    ∃ ks js, failJobWith s j status vid d = { s with kennels := ks, jobs := js } := by
  unfold failJobWith
  split
  · exact ⟨s.kennels, s.jobs, rfl⟩
  · split
    · exact ⟨s.kennels, s.jobs, rfl⟩
    · exact ⟨_, _, rfl⟩

theorem failJob_eq (s : State) (j status vid : Nat) :
    ∃ ks js, failJob s j status vid = { s with kennels := ks, jobs := js } :=
  failJobWith_eq s j status vid _

/-! ### Every command -/

/-- A command that can take place has its effect; one that cannot changes nothing. -/
theorem attempt_some {f : State → Option State} {s t : State} (h : f s = some t) :
    attempt f s = .next t := by
  unfold attempt
  rw [h]
  rfl

theorem attempt_none {f : State → Option State} {s : State} (h : f s = none) :
    attempt f s = .next s := by
  unfold attempt
  rw [h]
  rfl

end Sys2Proof.Machine
end

