-- ==== Sys2Proof/Laws/Hound.lean ====
section
/-! SUPPORT. A Hound: its register file, and what the shared parts of an instruction
change (its fetch, its counters, its trap). -/

namespace Sys2Proof.Machine

open Sys2Proof

/-! ### The register file (R210) -/

@[simp] theorem HoundRegs.wx_zero (r : HoundRegs) (v : BitVec 64) : r.wx 0 v = r := rfl
@[simp] theorem HoundRegs.rx_zero (r : HoundRegs) : r.rx 0 = 0 := rfl

theorem HoundRegs.wx_x (r : HoundRegs) (i : Nat) (v : BitVec 64) :
    (r.wx i v).x = if i = 0 then r.x else r.x.set i v := by
  unfold HoundRegs.wx
  split <;> rfl

/-- X register `j` after a write of register `i`. -/
theorem HoundRegs.rx_wx (r : HoundRegs) (i j : Nat) (v : BitVec 64) (h : i < r.x.length) :
    (r.wx i v).rx j = if i ≠ 0 ∧ j = i then v else r.rx j := by
  by_cases hi : i = 0
  · rw [if_neg (fun c => c.1 hi), hi, HoundRegs.wx_zero]
  · unfold HoundRegs.rx
    rw [HoundRegs.wx_x, if_neg hi]
    by_cases hj : j = i
    · subst hj
      rw [if_neg hi, if_pos (show j ≠ 0 ∧ j = j from ⟨hi, rfl⟩), List.getElem?_set_self h]
      rfl
    · rw [if_neg (show ¬(i ≠ 0 ∧ j = i) from fun c => hj c.2), List.getElem?_set_ne (Ne.symm hj)]

/-- A write of an X register leaves every other register of the Hound alone. -/
theorem HoundRegs.wx_eq (r : HoundRegs) (i : Nat) (v : BitVec 64) : r.wx i v = { r with x := (r.wx i v).x } := by
  unfold HoundRegs.wx
  split <;> rfl

/-! ### Hounds by number -/

@[simp] theorem hound_setHound_same (s : State) (h : Nat) (x : HoundSt) : hound (setHound s h x) h = x := by
  unfold hound
  rw [setHound_hounds, tget_tset, if_pos rfl]

theorem hound_setHound_other (s : State) {h g : Nat} (x : HoundSt) (hg : g ≠ h) :
    hound (setHound s h x) g = hound s g := by
  unfold hound
  rw [setHound_hounds, tget_tset, if_neg hg]

@[simp] theorem hound_modHound_same (s : State) (h : Nat) (f : HoundSt → HoundSt) :
    hound (modHound s h f) h = f (hound s h) := hound_setHound_same s h _

theorem hound_modHound_other (s : State) {h g : Nat} (f : HoundSt → HoundSt) (hg : g ≠ h) :
    hound (modHound s h f) g = hound s g := hound_setHound_other s _ hg

theorem hound_congr {s t : State} (h : t.hounds = s.hounds) (g : Nat) : hound t g = hound s g := by
  unfold hound
  rw [h]

@[simp] theorem modHound_regs (s : State) (h : Nat) (f : HoundSt → HoundSt) : (modHound s h f).regs = s.regs := rfl
@[simp] theorem modHound_kennels (s : State) (h : Nat) (f : HoundSt → HoundSt) :
    (modHound s h f).kennels = s.kennels := rfl
@[simp] theorem modHound_free (s : State) (h : Nat) (f : HoundSt → HoundSt) : (modHound s h f).free = s.free := rfl

@[simp] theorem hregs_setHregs (s : State) (h : Nat) (r : HoundRegs) : hregs (setHregs s h r) h = r := by
  unfold hregs setHregs
  rw [hound_modHound_same]

/-! ### What plans count -/

theorem forgetCounts_tmod (ks : Tbl Kennel) (k : Nat) (f : Kennel → Kennel)
    (hf : ∀ x, (f x).bare = x.bare) : forgetCounts (tmod ks k f) = forgetCounts ks := by
  unfold forgetCounts tmod
  rw [List.map_map]
  apply List.map_congr_left
  intro e _
  simp only [Function.comp]
  split
  · rw [hf]
  · rfl

/-- Counting for PLAN_STATUS changes the counts alone. -/
theorem forgetCounts_cntVertex (s : State) (k h vid i n : Nat) :
    forgetCounts (cntVertex s k h vid i n).kennels = forgetCounts s.kennels := by
  unfold cntVertex
  split
  · rfl
  · unfold modPlan
    rw [modKennel_kennels]
    apply forgetCounts_tmod
    intro x
    unfold Kennel.bare tmod
    simp only [List.map_map]
    congr 1
    apply List.map_congr_left
    intro e _
    simp only [Function.comp]
    split <;> rfl

/-! ### Nothing but a Hound -/

theorem onlyHound_refl (s : State) (h : Nat) : onlyHound s s h := ⟨rfl, rfl, fun _ _ => rfl⟩

theorem onlyHound_trans {s t u : State} {h : Nat} (a : onlyHound s t h) (b : onlyHound t u h) :
    onlyHound s u h := by
  refine ⟨?_, b.2.1.trans a.2.1, fun g hg => (b.2.2 g hg).trans (a.2.2 g hg)⟩
  rw [b.1, a.1]

theorem onlyHound_modHound (s : State) (h : Nat) (f : HoundSt → HoundSt) : onlyHound s (modHound s h f) h :=
  ⟨rfl, rfl, fun _ hg => hound_modHound_other s f hg⟩

/-- A counter of a Hound: the register, and the count of its vertex. -/
theorem hcnt_eq (s : State) (h i n : Nat) :
    ∃ ks, hcnt s h i n = { cnt s (houndCounter h i) n with kennels := ks } ∧
      forgetCounts ks = forgetCounts s.kennels := by
  obtain ⟨r, hr⟩ := cnt_eq s (houndCounter h i) n
  unfold hcnt
  dsimp only
  split
  · rename_i k p vid _ _
    obtain ⟨ks, hk⟩ := cntVertex_eq (cnt s (houndCounter h i) n) k p vid i n
    refine ⟨ks, hk, ?_⟩
    have := forgetCounts_cntVertex (cnt s (houndCounter h i) n) k p vid i n
    rw [hk] at this
    rw [show forgetCounts ks = _ from this, hr]
  · exact ⟨s.kennels, by rw [hr], rfl⟩

theorem onlyHound_hcnt (s : State) (h i n : Nat) : onlyHound s (hcnt s h i n) h := by
  obtain ⟨ks, hk, hf⟩ := hcnt_eq s h i n
  obtain ⟨r, hr⟩ := cnt_eq s (houndCounter h i) n
  rw [hk, hr]
  exact ⟨rfl, hf, fun _ _ => rfl⟩

@[simp] theorem hound_hcnt (s : State) (h i n g : Nat) : hound (hcnt s h i n) g = hound s g := by
  obtain ⟨ks, hk, _⟩ := hcnt_eq s h i n
  obtain ⟨r, hr⟩ := cnt_eq s (houndCounter h i) n
  rw [hk, hr]
  rfl

theorem regVal_hcnt (s : State) (h i n o : Nat) :
    regVal (hcnt s h i n) o = regVal (cnt s (houndCounter h i) n) o := by
  obtain ⟨ks, hk, _⟩ := hcnt_eq s h i n
  rw [hk]
  rfl

/-- A request whose hit is open counts at its port, and uses a free number. -/
theorem portOpen_eq (s : State) (p : Nat) :
    ∃ r n, portOpen s p = { s with regs := r, free := n } ∧
      (∀ o, o ≠ 0xD3000 + 8 * p → o ≠ 0xD3004 + 8 * p → regVal (portOpen s p) o = regVal s o) := by
  refine ⟨_, _, rfl, fun o ha hb => ?_⟩
  unfold portOpen
  rw [regVal_setReg_other _ _ hb, regVal_setReg_other _ _ ha]
  rfl

theorem onlyHound_portOpen (s : State) (p h : Nat) : onlyHound s (portOpen s p) h := by
  obtain ⟨r, n, hp, _⟩ := portOpen_eq s p
  rw [hp]
  exact ⟨rfl, rfl, fun _ _ => rfl⟩

@[simp] theorem hound_portOpen (s : State) (p g : Nat) : hound (portOpen s p) g = hound s g := by
  obtain ⟨r, n, hp, _⟩ := portOpen_eq s p
  rw [hp]
  rfl

/-- A fetch through the L1I changes that cache alone, beside its counter and those of its
SHC port. -/
theorem l1iFetch_spec (s : State) (h pc : Nat) :
    onlyHound s (l1iFetch s h pc) h ∧
    hound (l1iFetch s h pc) h = { hound s h with l1i := (hound (l1iFetch s h pc) h).l1i } ∧
    (∀ o, o ≠ houndCounter h 2 → o ≠ 0xD3000 + 8 * houndPort h → o ≠ 0xD3004 + 8 * houndPort h →
      regVal (l1iFetch s h pc) o = regVal s o) := by
  have hop : onlyHound s (portOpen (hcnt s h 2 1) (houndPort h)) h :=
    onlyHound_trans (onlyHound_hcnt s h 2 1) (onlyHound_portOpen _ _ h)
  have hh : hound (portOpen (hcnt s h 2 1) (houndPort h)) h = hound s h := by
    rw [hound_portOpen, hound_hcnt]
  have hr : ∀ o, o ≠ houndCounter h 2 → o ≠ 0xD3000 + 8 * houndPort h → o ≠ 0xD3004 + 8 * houndPort h →
      regVal (portOpen (hcnt s h 2 1) (houndPort h)) o = regVal s o := by
    intro o ho ha hb
    obtain ⟨_, _, _, hq⟩ := portOpen_eq (hcnt s h 2 1) (houndPort h)
    rw [hq o ha hb, regVal_hcnt, regVal_cnt_other _ _ ho]
  unfold l1iFetch
  dsimp only
  split
  · exact ⟨onlyHound_refl s h, rfl, fun _ _ _ _ => rfl⟩
  · split
    · refine ⟨onlyHound_trans hop (onlyHound_modHound _ h _), ?_, ?_⟩
      · rw [hound_modHound_same, hh]
      · intro o ho ha hb
        rw [regVal_congr (modHound_regs _ _ _), hr o ho ha hb]
    · rename_i v s' hp
      split at hp
      · cases hp
      · obtain ⟨_, n, hn⟩ := pick_eq hp
        subst hn
        refine ⟨onlyHound_trans hop ⟨rfl, rfl, fun g hg => hound_modHound_other _ _ hg⟩, ?_, ?_⟩
        · rw [hound_modHound_same]
          have hf : hound { portOpen (hcnt s h 2 1) (houndPort h) with free := n } h = hound s h := hh
          rw [hf]
        · intro o ho ha hb
          rw [regVal_congr (modHound_regs _ _ _)]
          exact hr o ho ha hb

/-! ### Issue -/

/-- The state in which an issued instruction has its effect: fetched and counted. -/
def issued (s : State) (h : Nat) : State := hcnt (l1iFetch s h (hregs s h).pc.toNat) h 0 1

/-- An instruction that can issue has its effect, or its own trap. -/
theorem issue_eq {s : State} {h : Nat} {long : Bool} (hc : canIssue s h long = true) (word : Nat) (body : Body) :
    issue h word long body s =
      some (match body (issued s h) with
        | (t, none) => t
        | (t, some e) => enterTrap t h word e) := by
  unfold canIssue at hc
  simp only [Bool.and_eq_true] at hc
  obtain ⟨⟨hr, hf⟩, ha⟩ := hc
  unfold issue
  rw [hr]
  simp only [Bool.not_true, Bool.false_eq_true, if_false]
  cases hft : fetchTrap s h long with
  | some t => rw [hft] at hf; cases hf
  | none =>
    dsimp only
    have hl : (long && decide ((hregs s h).pc.toNat % 8 ≠ 0)) = false := by
      cases long <;> simp_all
    have : hregs (hcnt (l1iFetch s h (hregs s h).pc.toNat) h 0 1) h = hregs s h := by
      unfold hregs
      rw [hound_hcnt, (l1iFetch_spec s h _).2.1]
    rw [this, hl]
    simp only [Bool.false_eq_true, if_false, issued]
    split <;> simp_all

theorem hound_issued (s : State) (h : Nat) :
    hound (issued s h) h = { hound s h with l1i := (hound (issued s h) h).l1i } := by
  unfold issued
  rw [hound_hcnt]
  exact (l1iFetch_spec s h _).2.1

@[simp] theorem hregs_issued (s : State) (h : Nat) : hregs (issued s h) h = hregs s h := by
  unfold hregs
  rw [hound_issued]

theorem onlyHound_issued (s : State) (h : Nat) : onlyHound s (issued s h) h :=
  onlyHound_trans (l1iFetch_spec s h _).1 (onlyHound_hcnt _ h 0 1)

/-- The Hound's counters differ by number. -/
theorem houndCounter_inj {h i j : Nat} (hi : i < 8) (hj : j < 8) (hne : i ≠ j) :
    houndCounter h i ≠ houndCounter h j := by
  unfold houndCounter
  split <;> split <;> (try split) <;> (try split) <;> omega

/-- The counters of a Hound hold 32 bits. -/
def countersOk (s : State) (h : Nat) : Prop := ∀ i, i < 8 → regVal s (houndCounter h i) < 2 ^ 32

end Sys2Proof.Machine
end

