-- ==== Sys2Proof/Laws/Memory.lean ====
section
/-! SUPPORT. Byte memories: every operation keeps the canonical form, a read after a
write gives what was written, and a write leaves every other address alone. -/

namespace Sys2Proof.Machine

open Sys2Proof

/-! ### The canonical form -/

theorem Memory.wfFrom_le {lo hi : Nat} (h : lo ≤ hi) :
    ∀ {m : Memory}, Memory.wfFrom hi m = true → Memory.wfFrom lo m = true
  | [], _ => rfl
  | (b, v) :: r, hm => by
    simp only [Memory.wfFrom, Bool.and_eq_true, decide_eq_true_eq] at hm ⊢
    exact ⟨⟨Nat.le_trans h hm.1.1, hm.1.2⟩, hm.2⟩

theorem Memory.wfFrom_set (a : Nat) (v : Byte) :
    ∀ (lo : Nat) (m : Memory), lo ≤ a → Memory.wfFrom lo m = true →
      Memory.wfFrom lo (m.set a v) = true
  | lo, [], h, _ => by
    unfold Memory.set
    split
    · rfl
    · rename_i hv
      simp only [Memory.wfFrom, Bool.and_eq_true, decide_eq_true_eq, and_true]
      exact ⟨h, by simpa using hv⟩
  | lo, (b, w) :: r, h, hm => by
    simp only [Memory.wfFrom, Bool.and_eq_true, decide_eq_true_eq] at hm
    have hw : (w != 0) = true := hm.1.2
    unfold Memory.set
    split
    · rename_i hab
      split
      · simp only [Memory.wfFrom, Bool.and_eq_true, decide_eq_true_eq]
        exact hm
      · rename_i hv
        simp only [Memory.wfFrom, Bool.and_eq_true, decide_eq_true_eq]
        exact ⟨⟨h, by simpa using hv⟩, ⟨hab, hw⟩, hm.2⟩
    · split
      · rename_i hab
        subst hab
        split
        · exact Memory.wfFrom_le (Nat.le_succ_of_le h) hm.2
        · rename_i hv
          simp only [Memory.wfFrom, Bool.and_eq_true, decide_eq_true_eq]
          exact ⟨⟨h, by simpa using hv⟩, hm.2⟩
      · rename_i h1 h2
        simp only [Memory.wfFrom, Bool.and_eq_true, decide_eq_true_eq]
        exact ⟨⟨hm.1.1, hw⟩, Memory.wfFrom_set a v (b + 1) r (by omega) hm.2⟩

/-- Writing a byte keeps the canonical form. -/
theorem Memory.wf_set {m : Memory} (a : Nat) (v : Byte) (h : m.wf = true) : (m.set a v).wf = true :=
  Memory.wfFrom_set a v 0 m (Nat.zero_le a) h

/-- Writing bytes keeps the canonical form. -/
theorem Memory.wf_write : ∀ (bs : Bytes) {m : Memory} (a : Nat), m.wf = true → (m.write a bs).wf = true
  | [], _, _, h => h
  | b :: bs, _, a, h => Memory.wf_write bs (a + 1) (Memory.wf_set a b h)

theorem Memory.wfFrom_filter (p : Host.Cell → Bool) :
    ∀ (lo : Nat) (m : Memory), Memory.wfFrom lo m = true → Memory.wfFrom lo (m.filter p) = true
  | _, [], _ => rfl
  | lo, (b, v) :: r, hm => by
    simp only [Memory.wfFrom, Bool.and_eq_true, decide_eq_true_eq] at hm
    have ih := Memory.wfFrom_filter p (b + 1) r hm.2
    by_cases hp : p (b, v) = true
    · rw [List.filter_cons_of_pos hp]
      simp only [Memory.wfFrom, Bool.and_eq_true, decide_eq_true_eq]
      exact ⟨⟨hm.1.1, hm.1.2⟩, ih⟩
    · rw [List.filter_cons_of_neg (by simpa using hp)]
      exact Memory.wfFrom_le (Nat.le_succ_of_le hm.1.1) ih

/-- Dropping cells keeps the canonical form. -/
theorem Memory.wf_filter {m : Memory} (p : Host.Cell → Bool) (h : m.wf = true) :
    Memory.wf (m.filter p) = true :=
  Memory.wfFrom_filter p 0 m h

/-- Clearing a range keeps the canonical form. -/
theorem Memory.wf_clear {m : Memory} (lo hi : Nat) (h : m.wf = true) : (m.clear lo hi).wf = true :=
  Memory.wf_filter _ h

/-- The empty memory has the form. -/
theorem Memory.wf_empty : Memory.wf [] = true := rfl

/-! ### Reads after writes -/

/-- An address below every cell reads as 0. -/
theorem Memory.get_of_wfFrom {a : Nat} :
    ∀ {lo : Nat} {m : Memory}, Memory.wfFrom lo m = true → a < lo → m.get a = 0
  | _, [], _, _ => rfl
  | lo, (b, v) :: r, hm, h => by
    simp only [Memory.wfFrom, Bool.and_eq_true, decide_eq_true_eq] at hm
    have h1 : b ≠ a := by omega
    have h2 : a < b := by omega
    simp [Memory.get, h1, h2]

theorem Memory.get_set_from (a c : Nat) (v : Byte) :
    ∀ (lo : Nat) (m : Memory), Memory.wfFrom lo m = true →
      (m.set a v).get c = if c = a then v else m.get c
  | _, [], _ => by
    unfold Memory.set
    by_cases hv : v = 0
    · rw [if_pos hv]
      by_cases hc : c = a
      · rw [if_pos hc, hv]; rfl
      · rw [if_neg hc]
    · rw [if_neg hv]
      by_cases hc : c = a
      · rw [if_pos hc, Memory.get, if_pos hc.symm]
      · rw [if_neg hc]
        show (if a = c then v else if c < a then 0 else Memory.get [] c) = Memory.get [] c
        rw [if_neg (Ne.symm hc)]
        exact ite_self _
  | lo, (b, w) :: r, hm => by
    simp only [Memory.wfFrom, Bool.and_eq_true, decide_eq_true_eq] at hm
    unfold Memory.set
    by_cases hab : a < b
    · have hc0 : c = a → (Memory.get ((b, w) :: r) c) = 0 := by
        intro h
        have h1 : b ≠ c := by omega
        have h2 : c < b := by omega
        simp [Memory.get, h1, h2]
      by_cases hv : v = 0
      · by_cases hc : c = a
        · rw [if_pos hab, if_pos hv, if_pos hc, hv]; exact hc0 hc
        · rw [if_pos hab, if_pos hv, if_neg hc]
      · by_cases hc : c = a
        · rw [if_pos hab, if_neg hv, if_pos hc, Memory.get, if_pos hc.symm]
        · rw [if_pos hab, if_neg hv, if_neg hc]
          by_cases hca : c < a
          · have h1 : b ≠ c := by omega
            have h2 : c < b := by omega
            have h3 : a ≠ c := by omega
            simp [Memory.get, h1, h2, h3, hca]
          · have h3 : a ≠ c := by omega
            rw [Memory.get, if_neg h3, if_neg hca]
    · by_cases heq : a = b
      · subst heq
        by_cases hv : v = 0
        · by_cases hc : c = a
          · rw [if_neg hab, if_pos rfl, if_pos hv, if_pos hc, hv]
            exact Memory.get_of_wfFrom hm.2 (by omega)
          · rw [if_neg hab, if_pos rfl, if_pos hv, if_neg hc]
            by_cases hca : c < a
            · rw [Memory.get_of_wfFrom hm.2 (by omega)]
              have h1 : a ≠ c := by omega
              simp [Memory.get, h1, hca]
            · have h1 : a ≠ c := by omega
              rw [Memory.get, if_neg h1, if_neg hca]
        · by_cases hc : c = a
          · rw [if_neg hab, if_pos rfl, if_neg hv, if_pos hc, Memory.get, if_pos hc.symm]
          · have h1 : a ≠ c := by omega
            rw [if_neg hab, if_pos rfl, if_neg hv, if_neg hc, Memory.get, if_neg h1, Memory.get,
              if_neg h1]
      · rw [if_neg hab, if_neg heq]
        by_cases hbc : b = c
        · have : c ≠ a := by omega
          simp [Memory.get, hbc, this]
        · by_cases hcb : c < b
          · have : c ≠ a := by omega
            simp [Memory.get, hbc, hcb, this]
          · rw [Memory.get, if_neg hbc, if_neg hcb, Memory.get_set_from a c v (b + 1) r hm.2]
            by_cases hc : c = a
            · simp [hc]
            · rw [if_neg hc, if_neg hc, Memory.get, if_neg hbc, if_neg hcb]

/-- A byte reads as it was last written, and every other byte as before. -/
theorem Memory.get_set {m : Memory} (h : m.wf = true) (a c : Nat) (v : Byte) :
    (m.set a v).get c = if c = a then v else m.get c :=
  Memory.get_set_from a c v 0 m h

/-- Writing bytes leaves every address outside them alone. -/
theorem Memory.get_write_other :
    ∀ (bs : Bytes) {m : Memory} (a c : Nat), m.wf = true → (c < a ∨ a + bs.length ≤ c) →
      (m.write a bs).get c = m.get c
  | [], _, _, _, _, _ => rfl
  | b :: bs, m, a, c, h, hc => by
    have hne : c ≠ a := by
      rcases hc with hc | hc
      · omega
      · simp at hc; omega
    have hrest : c < a + 1 ∨ a + 1 + bs.length ≤ c := by
      rcases hc with hc | hc
      · left; omega
      · right; simp at hc; omega
    rw [Memory.write, Memory.get_write_other bs (a + 1) c (Memory.wf_set a b h) hrest,
      Memory.get_set h, if_neg hne]

end Sys2Proof.Machine
end

