-- ==== Sys2Proof/Tests/Fixtures.lean ====
section
/-! SUPPORT. Small states and helpers for the tests. -/

set_option Elab.async false

namespace Sys2Proof.Tests

open Sys2Proof Sys2Proof.Machine Sys2Proof.Claims

/-- The next state of a command, from which a test reads one thing. -/
def run (c : Instr) (s : State) : State :=
  match exec c s with
  | .next t => t
  | _ => { State.reset with nextJob := 99999 }

/-- A plan: vertex 0 reads a table space, vertex 1 runs on Hound 0 with buffers of 1 KiB, vertex 2
writes to the host. Its CODE section is 64 bytes of 0 at byte 128. -/
def planImage : Bytes := zeros 64 ++ toLe 4 192 ++ toLe 4 192 ++ zeros 8 ++ toLe 4 128 ++ toLe 4 64 ++ zeros 40 ++ zeros 256

def vertTs : Vertex :=
  { kind := 0x21, flags := 0, nin := 0, nout := 1, place := 0, nhounds := 0, cfg := zeros 64, body := [],
    sramKib := 0, spillKib := 0 }
def vertHound : Vertex :=
  { kind := 0x01, flags := 0, nin := 1, nout := 1, place := 0, nhounds := 1,
    cfg := [0, 0, 1, 1] ++ toLe 4 1 ++ toLe 4 1 ++ zeros 52, body := zeros 64, sramKib := 0, spillKib := 4,
    units := [0] }
def vertSink : Vertex :=
  { kind := 0x30, flags := 0, nin := 1, nout := 0, place := 0, nhounds := 0, cfg := zeros 64, body := [],
    sramKib := 0, spillKib := 0 }
def edgeTo (src dst : Nat) : Edge :=
  { src, srcPort := 0, credits := 4, dsts := [(dst, 0)], flags := 0, log2cap := 8, tileBytes := 4096 }
def plan0 : Plan :=
  { kennel := 0, handle := 1, planId := 7, mode := 0, image := planImage, verts := [vertTs, vertHound, vertSink],
    edges := [edgeTo 0 1, edgeTo 1 2], binds := [], dicts := [], maxJobs := 4, tileSlots := 16, scentBanks := 0,
    dgeContexts := 0, shcWays := 0, dramBytes := 0, granules := [] }

/-- Kennel 0 with weights and limits of 1 and more, without KEEP_WARM, and that plan. -/
def share0 : Bytes := [1, 0] ++ (zeros 62).map (fun _ => 1)
def kennel0 : Kennel := { pasid := 5, share := share0, plans := [(1, plan0)] }

/-- A job of the plan, with edges and vertices at their start. -/
def job0 : Job :=
  { kennel := 0, wq := 0, seq := 3, plan := 1, entry := zeros 64,
    edges := [{ queues := [[]] }, { queues := [[]] }], verts := [{}, {}, {}] }

/-- Hound 0 runs job 9 as vertex 1 of the plan, with registers `r`. -/
def houndRun (r : HoundRegs) : HoundSt :=
  { regs := r, job := some 9, serves := some (0, 1, 1, 0), setUp := true }

/-- The state in which it does, with a runtime of 4 KiB. -/
def busy (x : HoundSt) : State :=
  { State.reset with
    hounds := [(0, x)], kennels := [(0, kennel0)], jobs := [(9, job0)], nextJob := 10,
    herder := { State.reset.herder with runtime := zeros 4096 }, pins := { State.reset.pins with busMaster := true } }

/-- S mode at the start of the runtime, and U mode at the start of CODE. -/
def sRegs : HoundRegs := { pc := BitVec.ofNat 64 rtBase, status := 1 }
def uRegs : HoundRegs := { pc := BitVec.ofNat 64 codeBase, status := 0 }
def onS : State := busy (houndRun sRegs)
def onU : State := busy (houndRun uRegs)

/-- S mode with an X register set. -/
def sWith (i : Nat) (v : Word) : State := busy (houndRun (sRegs.wx i v))

/-- The X register of Hound 0 after a command. -/
def xAfter (c : Instr) (s : State) (i : Nat) : Word := (hregs (run c s) 0).rx i

/-- A Hound whose stack takes one frame, with handlers at the start of the runtime. -/
def readyH (r : HoundRegs) : HoundSt :=
  { houndRun { r with ssp := 0xBC040, sstkBase := 0xBC000, sstkLimit := 0xBC040 } with
    vec := [(1, BitVec.ofNat 64 (rtBase + 1)), (6, BitVec.ofNat 64 (rtBase + 1)),
      (7, BitVec.ofNat 64 (rtBase + 1)), (0x20, BitVec.ofNat 64 (rtBase + 1)), (0x21, BitVec.ofNat 64 (rtBase + 1))] }

/-- A tile of two rows of one column of 64 bits, with PART 0 and LAST 1. -/
def tile0 : Bytes :=
  buildTile { log2cap := 8, rows := 2, seq := mkSeq 0 3 1 0, rowidBase := 0, kennel := 0, dense := true, event := false }
    [{ colid := 1, ty := 8, vals := [some 5, some 6] }]

/-- The state with items waiting on the input of vertex 1, or of vertex 2, of job 9. -/
def withQueue (s : State) (e : Nat) (q : List EItem) : State :=
  modEdge s 9 e (fun g => { g with queues := [q] })

/-- Hound 0 at the SYSCALL handler of a service with its arguments. -/
def service (n : Nat) (a b c : Word) (x : HoundSt) : HoundSt :=
  let r := { ((sRegs.wx 10 a).wx 11 b).wx 12 c with ssp := 0xBC000, sstkBase := 0xBC000, sstkLimit := 0xBC040 }
  let frame := toLe 8 codeBase ++ toLe 8 0 ++ toLe 8 7 ++ zeros 8 ++ toLe 8 (n * 2 ^ 32) ++ zeros 24
  { x with regs := r, spad := Memory.write x.spad 0xBC000 frame, vec := [(7, BitVec.ofNat 64 (rtBase + 1))] }

/-- Registers set. -/
def withRegs (s : State) (l : List (Nat × Nat)) : State := l.foldl (fun s p => setReg s p.1 p.2) s

/-- The device with its Herder ready, DRAM of 256 GiB in use, and job 9 of kennel 0 in flight. -/
def up : State :=
  let s := withRegs { State.reset with pins := { State.reset.pins with busMaster := true } } [(0x110000, 1), (0x10F004, 4), (0x10F000, 38 * 256)]
  { s with kennels := [(0, kennel0)], jobs := [(9, job0)], nextJob := 10, herder := { s.herder with hello := true } }

/-- A message with a body, as it comes from a host. -/
def msg (b : Bytes) : Msg := { length := BitVec.ofNat 16 b.length, status := 0, seq := 0x01020304, rsv := false, body := b }

end Sys2Proof.Tests
end

