-- ==== Sys2Proof/Tests/Device.lean ====
section
/-! SUPPORT. Tests of registers, events, ingest, timing, mailboxes, DRAM and the shared
cache. -/

set_option Elab.async false

namespace Sys2Proof.Tests

open Sys2Proof Sys2Proof.Machine Sys2Proof.Claims

/-! ### Registers and events -/

/-- RegisterWrites: EP_LEN is open and has no effect of its own but for what its row gives; offsets
that are no push window, at both ends of one; a busy and an idle mailbox; the first and last word of
the window. -/
theorem witness_RegisterWrites : barOpen up = true ∧ pageThere up 0x31000 = true ∧ (regFam 0x30020).isSome = true ∧
    windowAt 0x30020 8 = none ∧ ownEffect 0x30020 = false ∧ isDoor 0x30020 = false ∧
    ((regFam 0x30020).map (·.size)) = some 8 ∧ isPush 0x1000FFF = false ∧ isPush 0x1001400 = false ∧
    (regFam 0x1001400).isNone = true ∧ windowAt 0x1001400 4 = none ∧ (kennel? up 0).isSome = true ∧
    windowAt 0x30000 2 = none ∧ mbBusy up mb0 = false ∧ mbBusy (withRegs up [(0x2001008, 1)]) mb0 = true ∧
    4088 % 8 = 0 ∧ barOpen (withRegs up [(0x2001008, 1)]) = true := by decide +kernel

/-- RegisterReads: a counter that a read clears. -/
theorem witness_RegisterReads : readOpen up 0x20100 = true ∧ pageThere up 0x20100 = true ∧
    ((regFam 0x20100).map (fun f => (f.size, f.rc != 0))) = some (4, true) ∧ windowAt 0x20100 4 = none ∧
    shePeak 0x20100 = false ∧ shePeak 0x57008 = true ∧ ((regFam 0x57008).map (·.size)) = some 4 ∧
    readOpen up 0x57008 = true ∧ windowAt 0x57008 4 = none ∧ pageThere up 0x57008 = true ∧
    (∀ o ∈ [0xE0010, 0xE0028], (regFam o).isSome = true ∧ readOpen up o = true ∧ pageThere up o = true) := by
  decide +kernel

/-- RegisterReads: the two halves of a word of the PBA. -/
theorem test_pba_half : readOpen up 0x3F08004 = true ∧
    (run (.counterReadClear 0x3F08004 4 0) { up with pba := [3, 33] }).out = [.regRead 0x3F08004 2] := by decide +kernel

theorem test_read_clears : (run (.counterReadClear 0x20100 4 2) (withRegs up [(0x20100, 7)])).out = [.regRead 0x20100 7] ∧
    regVal (run (.counterReadClear 0x20100 4 2) (withRegs up [(0x20100, 7)])) 0x20100 = 2 := by decide +kernel
theorem test_short_write_ignored : run (.registerWrite 0x30020 4 5 {}) up = up := by decide +kernel

/-- An armed source with its vector. -/
def armed (n : Nat) : State := withRegs up [(0x11000 + 4 * n, 2 ^ 31 + 1), (0x10080 + 8 * (n / 64), 0)]

/-- eventsRaised, eventsCleared and eventsArmed: listed sources at the ends of their ranges, and one between. -/
theorem witness_events : barOpen (armed 9) = true ∧ evtListed 9 = true ∧ evtListed 10 = false ∧ evtListed 767 = true ∧
    evtListed 768 = false ∧ evtPending (armed 9) 9 = false ∧ evtArmed (armed 9) 9 = true ∧
    (kennel? up 0).isSome = true ∧ (regFam 0x100F8).isSome = true ∧
    (let s := withRegs (armed 9) [(0x10000, 2 ^ 9), (0x10080, 2 ^ 9)]
     evtPending s 9 = true ∧ evtArmed s 9 = false) ∧ vecGranted up 0 257 = true ∧ vecGranted up 0 0 = false := by
  decide +kernel

theorem test_event_requests_vector : (run (.evtTest 9) (armed 9)).vreq = [1] := by decide +kernel
theorem test_event_clear_loses_to_rise : evtPending (run (.evtStatusClear 0 (2 ^ 9) (2 ^ 9)) (withRegs (armed 9)
    [(0x10000, 2 ^ 9)])) 9 = true := by decide +kernel

/-- VectorsDelivered: a vector that can be sent, and one that its mask holds. -/
theorem witness_VectorsDelivered :
    (let s := withRegs { up with vreq := [2047] } [(0x3F0000C + 16 * 2047, 0)]
     s.vreq.contains 2047 = true ∧ vectorOpen s 2047 = true ∧ barOpen s = true) ∧
    (let s := withRegs { up with vreq := [0] } [(0x3F0000C, 1)]; s.vreq.contains 0 = true ∧ vectorOpen s 0 = false) ∧
    (hostUp { up with pins := { up.pins with d3 := true } } = false ∧ fatal up = false) ∧ up.pins.pmeStatus = false ∧
    (let c : Cq := { ring := 0, shadow := 0, log2 := 6, modCount := 1, irq := false, wake := true, modTime := 0, vector := 0 }
     let e : Compl := { wq := 0, cq := 3, seq := 0, bytes := zeros 31, solicit := false, retires := true, job := none }
     let x := { kennel0 with cqs := [(3, c)], ovf := [e] }
     cqBacklog x 3 = true ∧ (x.cqs.map (fun c => c.2.wake)) = [true]) := by decide +kernel

theorem test_msix_held : (run (.msixSend 0) (withRegs { up with vreq := [0] } [(0x3F0000C, 1)])).pba = [0] := by
  decide +kernel
theorem test_pme_repeat : (run (.pmeRepeat false) { up with pins := { up.pins with pmeStatus := true } }).out =
    [.pme true] := by decide +kernel

/-! ### Ingest -/

/-- Group 0 in mode 2, with port 1 up; group 1 in RawLink mode, with lane 0 up; per-class pause on group 0. -/
def ing : State :=
  let s := withRegs up [(0x20000, 2 + 2 * 256 + 0x3039 * 65536), (0x21000, 4), (0x20040, 1), (0x21040, 1)]
  let s := modPort s 0 1 (fun q => { q with up := true })
  modPort s 1 0 (fun q => { q with up := true })

/-- ingestLinks: a port that can come up, one that is up with a class asserted, and a lane. -/
theorem witness_ingestLinks : ing.groups.length = 4 ∧ (∀ x ∈ ing.groups, x.ports.length = 4) ∧ barOpen ing = true ∧
    (1 : Nat) < modePorts (ingMode ing 0) ∧ (ingPort ing 0 0).up = false ∧ (ingPort ing 0 1).up = true ∧ pState ing < 2 ∧
    (modPort ing 0 1 (fun q => { q with asserted := [7] })).groups.length = 4 ∧
    (ingPort (modPort ing 0 1 (fun q => { q with asserted := [7] })) 0 1).asserted.contains 7 = true ∧
    isEth ing 0 1 = true ∧ ingPause ing 0 = 2 ∧ isRaw ing 1 = true ∧ (ingPort ing 1 0).up = true ∧
    (ingPort ing 1 0).skipping = false ∧ ingMode ing 1 = 4 ∧ ingMode ing 0 ≠ 4 ∧
    (let s := modPort ing 1 0 (fun q => { q with asserted := [0] })
     (ingPort s 1 0).up = true ∧ (ingPort s 1 0).asserted.contains 0 = true) := by decide +kernel

/-- An RFX close fragment of kennel 0, epoch 0, with its HCRC. -/
def rfx : Bytes :=
  let h : Bytes := [0x14, 0, 0, 2] ++ zeros 12 ++ [0, 32] ++ zeros 10
  h ++ (toLe 4 (crc32c h)).reverse

/-- An Ethernet frame to port 1 of group 0 with UDP over IPv4 around it. -/
def ethFrame : Bytes :=
  let udp : Bytes := [0, 1, 0x30, 0x39, 0, 40, 0, 0] ++ rfx
  let ip : Bytes := [0x45, 0, 0, 60, 0, 0, 0, 0, 64, 17] ++ zeros 10
  let sum := 65535 - onesSum (sumWords ip)
  let ip : Bytes := ip.take 10 ++ (toLe 2 sum).reverse ++ ip.drop 12
  let f : Bytes := zeros 12 ++ [8, 0] ++ ip ++ udp
  f ++ toLe 4 (crc32 f)

/-- The MAC of the port is 0. -/
def ingMac : State := withRegs ing [(0x20018, 0)]

/-- ingestFrames: each outcome of an Ethernet frame, and a frame of one block on a lane. -/
theorem witness_ingestFrames :
    isEth ingMac 0 1 = true ∧ (ingPort ingMac 0 1).up = true ∧ 64 ≤ ethFrame.length ∧ ethFrame.length ≤ 9216 ∧
    crc32 (ethFrame.take (ethFrame.length - 4)) = le ethFrame (ethFrame.length - 4) 4 ∧
    slice ethFrame 0 6 = toLe 6 (regVal ingMac 0x20018) ∧ be ethFrame 0 1 % 2 = 0 ∧ be ethFrame 12 2 = 0x0800 ∧
    (match ipView false ((ethFrame.take (ethFrame.length - 4)).drop 14) with
      | .udp v6 pseudo d => !v6 && be d 2 2 == field (ingCfg ingMac 0) 16 16 &&
          udpSumOk v6 (bitAt (ingCfg ingMac 0) 11) pseudo d && 40 ≤ d.length
      | _ => false) = true ∧
    slice ethFrame 0 6 ≠ toLe 6 (regVal (withRegs ing [(0x20018, 5)]) 0x20018) ∧
    (let ws : List (BitVec 64) := [1, 2, 3, 4]
     let sof : BitVec 64 := 0x0100005A
     let eof := BitVec.ofNat 64 (leNat ([0xA5, 8, 0, 0] ++ (toLe 4 (crc32 (rawBytes ws))).reverse))
     let b := (rawBytes ws).take (8 * (ws.length - 1) + le (toLe 8 eof.toNat) 1 1)
     le (toLe 8 sof.toNat) 0 1 = 0x5A ∧ be (toLe 8 sof.toNat) 2 2 = 1 ∧ le (toLe 8 eof.toNat) 0 1 = 0xA5 ∧
      crc32 b = be (toLe 8 eof.toNat) 4 4 ∧ 32 ≤ b.length ∧ ws.length ≤ 2048 ∧
      le (toLe 8 (0xC3 : BitVec 64).toNat) 0 1 = 0xC3) := by decide +kernel

/-- ingestFragments: a wrong HCRC, a kennel not permitted, one that does not exist, a fault, and one that fills the FIFO's share. -/
theorem witness_ingestFragments : crc32c (rfx.take 28) = be rfx 28 4 ∧ crc32c ((rfx.set 0 0).take 28) ≠ be (rfx.set 0 0) 28 4 ∧
    kPermitted ing 0 0 = true ∧ kPermitted up 0 0 = false ∧ (rfxFault ing 0 rfx).isSome = true ∧
    kennel? ing 0 ≠ none ∧ kennel? { ing with kennels := [] } 0 = none ∧
    (let s := { ing with kennels := [(0, { kennel0 with plans := [(1, { plan0 with binds :=
        [{ first := 0, last := 16383, vid := 0, groups := 1 }] })] })] }
     rfxFault s 0 rfx = none ∧ fifoLevel (ingPort s 0 1) 0 + rfx.length ≤ fifoShare s 0) ∧
    flowUsed ing 0 = true ∧ 32 ≤ rfx.length := by decide +kernel

/-- A plan that takes its fragments, and one that waits on port 1. -/
def bound : State :=
  let s := modPort ing 0 1 (fun q => { q with fifo := [(0, { port := 32, link := 0, tick := 0, bytes := rfx })] })
  { s with kennels := [(0, { kennel0 with plans := [(1, { plan0 with mode := 1, binds :=
    [{ first := 0, last := 16383, vid := 0, groups := 1 }] })] })] }

/-- ingestForwarding: no job covers the epoch; a kennel in reset; no such kennel. -/
theorem witness_ingestForwarding : tickTo bound 0 = bound ∧ moverUp bound = true ∧ (fifoTake 0 (ingPort bound 0 1).fifo []).isSome = true ∧
    (kennel? bound 0).isSome = true ∧ bindingOf bound 0 0 (rfxSource rfx) = some (1, 0) ∧
    jobTaking { bound with jobs := [] } 0 1 0 (rfxEpoch rfx) = none ∧
    ((plan? bound 0 1).bind (fun p => outEdge? p 0 0)).any (fun e => (0 : Nat) < e.2.credits) = true ∧
    (kennel? { bound with kennels := [] } 0).isNone = true := by decide +kernel

theorem test_wrong_fcs : regVal (run (.ethFrameReceive 0 1 (ethFrame.set 20 1) false) ingMac) 0x20100 = 1 := by
  decide +kernel
theorem test_fragment_enters_fifo : (ingPort (run (.ethFrameReceive 0 1 ethFrame false) { ingMac with
    kennels := bound.kennels }) 0 1).fifo.map (fun e => e.2.bytes) = [rfx] := by decide +kernel

/-! ### Timing -/

/-- The counter runs with ESYNC enabled, at a count of its epoch of 4096 ticks. -/
def ep (count : Nat) : State :=
  let s := withRegs up [(0x30000, 3), (0x30008, 0)]
  { s with timing := { s.timing with count, tick := 5000 + count, startClosed := false, bTable := [(0, 5000)] } }

/-- EpochBoundaries: the last count at which the starting window can still pass. -/
theorem witness_EpochBoundaries : epRunning (ep 256) = true ∧ esyncEn (ep 256) = true ∧ (ep 256).timing.startUsed = false ∧
    (ep 256).timing.startClosed = false ∧ (ep 256).timing.count ≤ (ep 256).timing.len / 16 ∧
    (ep 256).leash.remote = [] ∧ (0 : Nat) < (ep 256).timing.len := by decide +kernel

/-- EsyncEdges: an edge at count 0, at the ends of both windows, between them, and with a resync armed. -/
theorem witness_EsyncEdges :
    (∀ c ∈ [0, 1, 256, 257, 3839, 3840, 4094], epRunning (ep c) = true ∧ esyncEn (ep c) = true ∧
      (ep c).timing.count + 1 < (ep c).timing.len ∧ (ep c).leash.remote = []) ∧
    epStatus (ep 0) 5 = false ∧ epStatus (withRegs (ep 0) [(0x30008, 32)]) 5 = true ∧
    epRunning (withRegs (ep 0) [(0x30008, 32)]) = true ∧ (ep 0).timing.startUsed = false ∧
    4096 - 256 ≤ 3840 ∧ (256 : Nat) < 4096 - 256 := by decide +kernel

/-- TimingControl: the least and most lengths, and one beyond; TCLK there and lost. -/
theorem witness_TimingControl : barOpen (ep 0) = true ∧ (256 : BitVec 32).toNat % 2 ^ 25 = 256 ∧
    (16777216 : BitVec 32).toNat % 2 ^ 25 = 16777216 ∧ (255 : BitVec 32).toNat % 2 ^ 25 < 256 ∧
    (ep 0).timing.events = [] ∧ tclkLost (ep 0) = false ∧ tclkLost (withRegs (ep 0) [(0x30008, 128)]) = true := by
  decide +kernel

def ev0 : EventRef := { kennel := 0, epoch := 0, event := 1, toffset := 100 }
/-- Kennel 0 is deterministic, with LAT 1000 and accept on line 3. -/
def det (count : Nat) : State := withRegs { ep count with jobs := [] } [(0x31000, 1000 * 2 ^ 32 + 2 ^ 31 + 3 * 2 ^ 24)]

/-- An event that waits until tick 6100. -/
def held (count : Nat) (result : Option Nat) : State :=
  let s := det count
  { s with timing := { s.timing with events :=
    [{ kennel := 0, epoch := 0, event := 1, toffset := 100, due := some 6100, result }] } }

/-- The window of the boundary has been closed. -/
def closed (s : State) : State := { s with timing := { s.timing with startClosed := true } }

/-- Verdicts: a result at its due tick, and one tick after it; one after its verdict; a verdict due now,
with and without a result; a message with no way out. -/
theorem witness_Verdicts :
    (closed (det 1100)).timing.startClosed = true ∧ (det 256).timing.count ≤ (det 256).timing.len / 16 ∧
    (∀ s ∈ [closed (det 1100), closed (det 1101)], epRunning s = true ∧ 0 < s.timing.len - s.timing.count ∧ s.jobs = [] ∧
      s.leash.remote = [] ∧ inDet s 0 = true ∧ evIssued s 0 0 1 = none ∧ evFind s 0 0 1 = none ∧
      (s.timing.bTable.find? (fun p => p.1 == 0)).map (·.2) = some 5000 ∧ signedDiff 48 0 s.timing.epoch ≤ 0) ∧
    (det 1100).timing.tick = 5000 + 100 + regVal (det 1100) 0x31000 / 2 ^ 32 % 2 ^ 18 ∧
    (let s := { det 1100 with timing := { (det 1100).timing with issued :=
        [{ kennel := 0, epoch := 0, event := 1, accept := true, late := false }] } }
     (evIssued s 0 0 1).isSome = true ∧ inDet s 0 = true) ∧
    (∀ s ∈ [held 1000 none, held 1100 (some 8)], epRunning s = true ∧ inDet s 0 = true ∧ evIssued s 0 0 1 = none ∧
      (evFind s 0 0 1).map (fun x => (x.due, x.dead)) = some (some 6100, false) ∧ s.timing.tick ≤ 6100 ∧
      s.timing.count + (6100 - s.timing.tick) < s.timing.len) ∧
    (sendFirst (passQuanta (det 0) 0) (passQuanta (det 0) 0).timing.txq).isNone = true := by decide +kernel

theorem test_boundary : (run .epochBoundary (ep 4000)).timing.epoch = 1 ∧ (run .epochBoundary (ep 4000)).timing.tick = 9096 := by
  decide +kernel
theorem test_third_rejected_arms : epStatus (run (.esyncEdge 0) (withRegs (ep 1000) [(0x30008, 2)])) 5 = true := by
  decide +kernel
theorem test_verdict_line : (run (.verdictDue ev0) (held 1000 (some 8))).timing.issued =
    [{ kennel := 0, epoch := 0, event := 1, accept := true, late := false }] := by decide +kernel
theorem test_verdict_default_late : (run (.verdictDue ev0) (held 1000 none)).timing.issued =
    [{ kennel := 0, epoch := 0, event := 1, accept := false, late := true }] := by decide +kernel

/-! ### Mailboxes -/

/-- MailboxProtocol: idle, busy, waiting and at fault; an opcode that no row has. -/
theorem witness_MailboxProtocol :
    dmpDead up = false ∧ mbExists up mb0 = true ∧ mbBusy up mb0 = false ∧ mbBusy (withRegs up [(0x2001008, 1)]) mb0 = true ∧
    dmpWaits (withRegs up [(0x110000, 0)]) (dmpMsg .mb0 2 (msg [])) = true ∧ dmpDead (withRegs up [(0x110000, 0)]) = false ∧
    dmpWaits up (dmpMsg .mb0 2 (msg (zeros 8))) = false ∧ dmpFault up (dmpMsg .mb0 2 (msg (zeros 8))) = some 0x0F02 ∧
    dmpRow 0x0FFF = none ∧ ready up = true ∧ up.herder.act = none ∧ devErr up = false ∧ pState up < 2 := by
  decide +kernel

/-- What `served` asks, as one Boolean. -/
theorem served_of {s : State} {r : HeldMsg} (h : (!dmpDead s && mbExists s r.mb && !mbBusy s r.mb && !dmpWaits s r &&
    (dmpFault s r).isNone) = true) : served s r := by
  simpa [served, and_assoc] using h

/-- HELLO has not come yet. -/
def early : State := { up with herder := { up.herder with hello := false } }

theorem witness_hello : served early (dmpMsg .mb0 1 (msg (toLe 4 (2 ^ 20 - 1) ++ zeros 4))) := served_of (by decide +kernel)
theorem witness_getVersion : served up (dmpMsg (.kn 0) 2 (msg [])) := served_of (by decide +kernel)
theorem witness_getEnvironment : served up { dmpMsg .mb0 3 (msg (toLe 8 1)) with fresh := zeros 1600 } :=
  served_of (by decide +kernel)
theorem witness_getLog : served up (dmpMsg .mb0 4 (msg (toLe 8 5))) := served_of (by decide +kernel)
theorem witness_getMlog : served up (dmpMsg .mb0 5 (msg (zeros 8))) := served_of (by decide +kernel)
theorem witness_getIdentity : served up (dmpMsg .mb0 6 (msg [])) := served_of (by decide +kernel)
theorem witness_attest : served up (dmpMsg .mb0 7 (msg (zeros 32))) := served_of (by decide +kernel)

/-- A table space of one granule, number 5 of kennel 0. -/
def spaced : State :=
  { up with store := { up.store with spaces := [(5, { owner := some 0, former := 0, pasid := 5, eighths := 255, granules := [3] })] } }

/-- herderBindings: a quarantine column of the least length, unbound, and asked for. -/
theorem witness_bindQuarantine : served spaced (dmpMsg .mb0 0x0400 (msg (toLe 2 5 ++ zeros 6 ++ toLe 8 32 ++ toLe 8 16416))) ∧
    served spaced (dmpMsg .mb0 0x0400 (msg (toLe 3 0x10005 ++ zeros 21))) ∧ (ownSpace spaced 0 5).isSome = true ∧
    inSpace spaced 0 5 32 16416 = true := ⟨served_of (by decide +kernel), served_of (by decide +kernel), by decide +kernel⟩
/-- No destination, and one on RawLink group 0; nine are too many. -/
theorem witness_bindVerdict : served up (dmpMsg .mb0 0x0401 (msg (zeros 16))) ∧
    (let s := withRegs up [(0x20000, 4)]; let d := toLe 2 0x0200 ++ zeros 46
     served s (dmpMsg .mb0 0x0401 (msg (toLe 1 1 ++ zeros 15 ++ d))) ∧ destOk s 0 d = true) ∧
    served up (dmpMsg .mb0 0x0401 (msg (toLe 1 9 ++ zeros (15 + 9 * 48)))) := by
  exact ⟨served_of (by decide +kernel), ⟨served_of (by decide +kernel), by decide +kernel⟩, served_of (by decide +kernel)⟩
/-- LAT of exactly 2 µs and 1 ms at 100 MHz, and one tick beyond each. -/
theorem witness_setDeterministic : (∀ l ∈ [199, 200, 100000, 100001], le (toLe 4 0x10501 ++ toLe 4 l) 4 4 = l ∧ l ≤ 262143) ∧
    served (ep 0) { dmpMsg .mb0 0x0402 (msg (toLe 4 0x00501 ++ toLe 4 200)) with tclkKhz := 100000 } ∧
    served up { dmpMsg .mb0 0x0402 (msg (toLe 8 1)) with tclkKhz := 100000 } ∧ epRunning up = false ∧ epRunning (ep 0) = true :=
  ⟨by decide +kernel, served_of (by decide +kernel), served_of (by decide +kernel), by decide +kernel, by decide +kernel⟩

theorem test_reply : (tget (run (.getVersion (.kn 0) (msg (zeros 8))) up).windows 0 []).take 16 =
    [2, 0x80, 0, 0, 4, 3, 2, 1, 2, 0xF, 0, 0, 0, 0, 0, 0] := by decide +kernel
/-- In recovery mode, before HELLO: GET_LOG is served, HELLO is not. -/
theorem test_recovery :
    let s := withRegs { up with herder := { up.herder with hello := false } } [(0x110000, 5)]
    dmpFault s (dmpMsg .mb0 4 (msg (zeros 8))) = none ∧
    dmpFault s (dmpMsg .mb0 1 (msg (zeros 8))) = some eHrdRecovery := by decide +kernel
theorem test_set_deterministic : regVal (run (.setDeterministic .mb0 (msg (toLe 4 0x10501 ++ toLe 4 200)) 100000) (ep 0)) 0x31000 =
    200 * 2 ^ 32 + 2 ^ 31 + 2 ^ 30 + 5 * 2 ^ 24 := by decide +kernel

/-- A self-test runs with channel 1 held; unit 0 of channel 0 comes next. -/
def testing : State :=
  withRegs { up with selfTest := { running := true } } [(0x10F020, 1 + 2 ^ 17)]

theorem witness_selfTests : testing.selfTest.running = true ∧ testHeld testing 0 = false ∧ channelTested testing 0 = false ∧
    tget testing.selfTest.units 0 0 = 0 ∧ bitAt (gstatus testing) 2 = true ∧ bitAt (gstatus testing) 4 = false ∧
    testHeld testing 1 = true ∧ testing.selfTest.stopping = false ∧ linePoison testing (channelLine 0 3) = false := by decide +kernel
theorem witness_selfTests_messages : served testing (dmpMsg .mb0 0x0503 (msg (toLe 8 1))) ∧
    served up (dmpMsg .mb0 0x0503 (msg (zeros 8))) ∧ served testing (dmpMsg .mb0 0x0504 (msg [])) ∧
    served testing (dmpMsg .mb0 0x0505 (msg [])) := ⟨served_of (by decide +kernel), served_of (by decide +kernel),
      served_of (by decide +kernel), served_of (by decide +kernel)⟩

theorem test_selftest_counts : tget (run (.selftestUnit 0 0 [3, 3, 5] [5] 9) testing).selfTest.errs 0 0 = 3 ∧
    (run (.selftestUnit 0 0 [3, 3, 5] [5] 9) testing).dram.poison = [channelLine 0 5] := by decide +kernel

/-! ### DRAM and the shared cache -/

def queued (n : Nat) (poison : Bool) : State :=
  { up with dram := { up.dram with wqs := [(0, (List.range n).map (fun i => { line := 32 * i, data := 7, poison }))] } }
def poisoned : State := { up with dram := { up.dram with poison := [0] } }

/-- Channel 0 pauses, and a reply waits for the end. -/
def pausing : State := { up with dram := { up.dram with pause := some 0, pauseReply := some 256 } }

/-- dramReads: in the queue, in DRAM, poisoned with a vertex that waits, the last line, and a channel
that pauses. -/
theorem witness_dramReads : dramUp up 0 = true ∧ dramUp up (2 ^ 32 - 1) = true ∧ dramUp up (2 ^ 32) = false ∧
    (wqFind (queued 1 false) 0).map (·.poison) = some false ∧ wqFind up 0 = none ∧ linePoison up 0 = false ∧
    dramUp (queued 1 false) 0 = true ∧ linePoison poisoned 0 = true ∧ (vx? poisoned { job := 9, vid := 0 }).isSome = true ∧
    jobLive job0 = true ∧ regField up (errlogReg 0) 62 2 < 2 ∧
    2 ≤ regField (withRegs up [(errlogReg 0, 2 ^ 63)]) (errlogReg 0) 62 2 ∧
    dramUp pausing 0 = true ∧ paused pausing 0 = true ∧ paused up 0 = false ∧ paused pausing 1 = false := by
  decide +kernel

/-- dramPatrol: a line in DRAM, one that the queue holds, and the first and last of a channel. -/
theorem witness_dramPatrol :
    (∀ s ∈ [withRegs up [(0x10F00C, 2 ^ 31)], withRegs (queued 1 false) [(0x10F00C, 2 ^ 31)]],
      tget s.dram.patrol 0 0 % channelLines s = 0 ∧ channelLine 0 0 = 0 ∧ dramUp s 0 = true ∧
      (regVal s 0x10F00C).testBit 31 = true ∧ paused s 0 = false ∧ lineLost s 0 = false ∧ 0 ∉ s.dram.poison) ∧
    wqFind up 0 = none ∧ wqFind (queued 1 false) 0 ≠ none ∧ 11 ≤ log2Cap up ∧ chanOfLine 31 = 15 ∧
    chanOfLine (2 ^ 32 - 1) = 15 ∧ 64 * (2 ^ 32 - 1) < 2 ^ log2Cap up := by decide +kernel

/-- Line 5 stands in way 0 of its set; the cache is enabled with every way open to every port. -/
def cached0 (dirty poison : Bool) : State :=
  withRegs { up with shc := { up.shc with lines := [(16 * shcSet 5, { line := 5, dirty, poison, age := 0, data := 9 })] } }
    [(0xD0000, 1), (0xD1000, 0xFFFF), (0xD2000, 0xFFFFFFFF)]

/-- Line 5 stands in the eviction buffer. -/
def buffered : State :=
  { cached0 false false with shc := { up.shc with ebuf := [{ line := 5, data := 9, poison := false }] } }

/-- dramWrites: a queue of 63 and of 64 lines, a line that merges, and a burst of 16 from 48; a line
that stands in the cache, and in its eviction buffer. -/
theorem witness_dramWrites :
    (∀ n ∈ [1, 47, 48, 64], let s := queued n false
      let es := tget s.dram.wqs 0 []
      dramUp s 0 = true ∧ es.length = n ∧ (gstatus s).testBit 4 = false ∧ tget s.dram.held 0 [] = [] ∧
      paused s 0 = false ∧ s.shc.misses = [] ∧ shcFind s 0 = none ∧ s.shc.ebuf = [] ∧
      s.dram.mem.wf = true ∧ s.dram.lost = 0 ∧ (es.map (·.line)).Nodup ∧ (∀ e ∈ es, wqOfLine e.line = 0)) ∧
    (tget (queued 64 false).dram.wqs 0 []).any (fun e => e.line == 32 * 64) = false ∧ wqOfLine (32 * 64) = 0 ∧
    (tget (queued 63 false).dram.wqs 0 []).length = 63 ∧ paused pausing 0 = true ∧ linePoison up 0 = false ∧
    (∀ d ∈ [true, false], (shcFind (cached0 d false) 5).map (·.2.dirty) = some d) ∧
    shcFind buffered 5 = none ∧ buffered.shc.ebuf.any (fun e => e.line == 5) = true ∧ dramUp buffered 5 = true := by
  decide +kernel

theorem test_write_forwarded : (dramLine (run (.dramWrite 64 (BitVec.ofNat 64 1) { data := 0xFF }) up) 64).1 = 0xFF ∧
    (run (.dramWrite 64 (BitVec.ofNat 64 1) { data := 0xFF }) up).dram.mem = [] := by decide +kernel
/-- R19: a mover's write invalidates the cache's copy. -/
theorem test_write_invalidates : (run (.dramWrite 5 (BitVec.allOnes 64) { data := 1 }) (cached0 true false)).shc.lines = [] ∧
    (cohLine (run (.dramWrite 5 (BitVec.allOnes 64) { data := 1 }) (cached0 true false)) 5).1 = 1 := by decide +kernel
theorem test_patrol_poisons : (run (.dramPatrolRead 0 .uncorrectable 3) (withRegs up [(0x10F00C, 2 ^ 31)])).dram.poison = [0] := by
  decide +kernel
theorem test_patrol_goes_on : tget (run (.dramPatrolRead 2 .ok 0) (withRegs up [(0x10F00C, 2 ^ 31)])).dram.patrol 2 0 = 1 := by
  decide +kernel

/-- Row tables of the bank of line 0; THRESH 4, radius 1. -/
def rowed (t : List (Nat × Nat)) : State :=
  withRegs { up with dram := { up.dram with rows := [(bankKey 0 0 0, t)] } } [(0x10F008, 4 + 65536)]

/-- dramRows: the four ways to count an activate. -/
theorem witness_dramRows : dramUp (rowed []) 0 = true ∧ 0 < bankCount (rowed []) ∧ rowUp (rowed []) 0 0 0 0 = true ∧ paused (rowed []) 0 = false ∧
    lineRow (rowed []) 0 = 0 ∧ actThresh (rowed []) = 4 ∧ actRadius (rowed []) = 1 ∧
    tget (rowed [(0, 2)]).dram.rows (bankKey 0 0 0) [] = [(0, 2)] ∧ (∀ e ∈ [(0, 2)], e.2 + 1 < 4) ∧
    (let full := (List.range 16).map (fun i => (i + 1, 1)); full.length = 16 ∧ (0 : Nat) ∉ full.map (·.1) ∧
      full = [] ++ (1, 1) :: full.drop 1 ∧ (∀ e ∈ full.drop 1, 1 ≤ e.2) ∧ ∀ e ∈ full, e.2 + 1 < 4) ∧
    [(0, 4 - 1)] = [(0, actThresh (rowed []) - 1)] ∧ 0 + 1 < bankRows (rowed []) := by decide +kernel

/-- dramUpkeep: a re-tune by temperature and by errors, a pause that ends with and without a reply, and
the end of the zeroing. -/
theorem witness_dramUpkeep : (gstatus up).testBit 2 = true ∧ (gstatus up).testBit 4 = false ∧ up.dram.pause = none ∧
    (8 : Nat) ≤ 8 ∧ 1024 ≤ tget { up.dram with ceSince := [(0, 1024)] }.ceSince 0 0 ∧
    paused pausing 0 = true ∧ pausing.dram.pauseReqs = [] ∧ pausing.dram.pauseReply = some 256 ∧
    (gstatus (withRegs up [(0x10F004, 32)])).testBit 5 = true ∧ up.dram.mem.wf = true := by decide +kernel

theorem test_retune_pauses : paused (run (.ddrRetuneAuto 3 8 0) up) 3 = true ∧
    paused (run (.ddrRetuneAuto 3 7 0) up) 3 = false := by decide +kernel
theorem test_pause_holds : (run (.dramRead 0 .none .ok 0) pausing).dram.pauseReqs = [.read 0 .none .ok 0] := by
  decide +kernel
theorem witness_ddrRetune : served up (dmpMsg .mb0 0x0600 (msg (toLe 8 15))) ∧ served up (dmpMsg .mb0 0x0600 (msg (toLe 8 16))) :=
  ⟨served_of (by decide +kernel), served_of (by decide +kernel)⟩

/-- sliceRounds: ports 3 and 9 ask; the pointer decides, or port 9 that has lost AGE rounds. -/
theorem witness_sliceRounds :
    (sliceRound (cached0 false false) 0 (portsOf (BitVec.ofNat 64 (2 ^ 3 + 2 ^ 9)))).map (·.1) = some 3 ∧
    (sliceRound { cached0 false false with shc := { up.shc with arbs := [(0, { last := 3 })] } } 0
      (portsOf (BitVec.ofNat 64 (2 ^ 3 + 2 ^ 9)))).map (·.1) = some 9 ∧
    (sliceRound { cached0 false false with shc := { up.shc with arbs := [(0, { last := 9, lost := [(9, 64)] })] } } 0
      (portsOf (BitVec.ofNat 64 (2 ^ 3 + 2 ^ 9)))).map (·.1) = some 9 := by decide +kernel

/-- shcLookups: a hit, by port 0 and by mover port 38; a poisoned line that a vertex reads; a line of the
eviction buffer; a line that is absent with and without a way; a port that drains, the flush, and a lost
round. -/
theorem witness_shcLookups :
    (∀ s ∈ [cached0 false false, cached0 false true, buffered], ∀ line ∈ [5, 6], dramThere s line = true ∧
      shcBlocked s 0 line = false ∧ shcBlocked s 38 line = false ∧ tfind? s.shc.misses 0 = none ∧
      (sliceRound s (shcSlice line) (portsOf (0 ||| BitVec.ofNat 64 (2 ^ 0)))).map (·.1) = some 0 ∧
      (sliceRound s (shcSlice line) (portsOf (0 ||| BitVec.ofNat 64 (2 ^ 38)))).map (·.1) = some 38 ∧
      fatal s = false) ∧
    portMover 0 = false ∧ portMover 38 = true ∧ portSystem 0 = false ∧
    (let s := cached0 false false
     shcFind s 5 = some (16 * shcSet 5, { line := 5, dirty := false, poison := false, age := 0, data := 9 }) ∧
      shcFind s 6 = none ∧ s.shc.ebuf = [] ∧ s.shc.misses = [] ∧ (shcMask s 0 0).testBit 15 = true ∧
      wayLine s (shcSet 6) 15 = none) ∧
    (shcFind (cached0 false true) 5).map (·.2.poison) = some true ∧
    (vx? (cached0 false true) { job := 9, vid := 0 }).isSome = true ∧
    shcFind buffered 5 = none ∧ (buffered.shc.ebuf.find? (fun e => e.line == 5)).map (·.poison) = some false ∧
    wayLine buffered (shcSet 5) 15 = none ∧ (shcMask buffered 0 0).testBit 15 = true ∧
    shcMask (withRegs buffered [(0xD0000, 0)]) 0 0 = 0 ∧ shcMask (withRegs up [(0xD0000, 0)]) 0 0 = 0 ∧
    shcBlocked (withRegs up [(0xD1000, 2 ^ 62)]) 0 5 = true ∧ shcBlocked (withRegs up [(0xD0004, 1)]) 0 5 = true ∧
    (sliceRound up (shcSlice 5) (portsOf (BitVec.ofNat 64 1 ||| BitVec.ofNat 64 (2 ^ 9)))).map (·.1) ≠ some 9 := by
  decide +kernel

/-- shcMoves: a miss that a fill ends, with and without a way; an eviction; a port that drains and has
drained; a drain that a kennel mask waits for. -/
theorem witness_shcMoves :
    (∀ w ∈ [none, some (16 * shcSet 6)],
      let s := { up with shc := { up.shc with misses := [(0, { kennel := 0, line := 6, op := .read, way := w })] } }
      (tfind? s.shc.misses 0).map (fun m => (m.joined, m.came, m.way)) = some (false, none, w) ∧ dramUp s 6 = true ∧
      paused s (chanOfLine 6) = false ∧ s.shc.kmasks = [] ∧
      shcFlushing s = false ∧ s.shc.waiting = [] ∧ (dramLine s 6).2 = false ∧ (s.shc.misses.map (·.1)).Nodup ∧
      s.shc.misses.all (fun e => e.1 == 0) = true) ∧
    (let s := { up with shc := { up.shc with ebuf := [{ line := 6, data := 1, poison := false }] } }
     s.shc.waiting = [] ∧ (tget s.dram.wqs (wqOfLine 6) []).length < 64 ∧ paused s (chanOfLine 6) = false) ∧
    portDrains up 0 = false ∧ tfind? up.shc.misses 0 = none ∧ up.shc.kmasks = [] ∧
    (portCfg (withRegs up [(0xD1000, 2 ^ 62 + 2 ^ 63)]) 0).testBit 63 = true ∧
    portDrains (withRegs up [(0xD1000, 2 ^ 62 + 2 ^ 63)]) 0 = true ∧ 0 ∈ maskPorts up 0 1 := by decide +kernel

/-- shcSwitching: EN written 0 and 1, and the end of a write-back of one dirty line. -/
theorem witness_shcSwitching : let s := withRegs (cached0 true false) [(0xD0004, 1)]
    barOpen s = true ∧ shcFlushing s = true ∧ s.shc.misses = [] ∧ s.shc.waiting = [] ∧ s.dram.mem.wf = true ∧
    s.dram.lost = 0 ∧ (s.shc.lines.map (·.2.line)).Nodup ∧ fatal s = false ∧ shcFlushing (cached0 true false) = false ∧
    (1 : BitVec 32).getLsbD 0 = true ∧ (0 : BitVec 32).getLsbD 0 = false := by decide +kernel

theorem test_flush_writes_back : (dramLine (run (.shcFlushDone {}) (withRegs (cached0 true false) [(0xD0004, 1)])) 5).1 = 9 := by
  decide +kernel
theorem test_hit_counts : regVal (run (.shcLookup 0 0 5 { op := .read } {}) (cached0 false false)) 0xD3000 = 1 := by
  decide +kernel
/-- R358: the port that loses its slice has not been served. -/
theorem test_round_lost : (run (.shcLookup 9 0 5 { op := .read, rivals := 8 } {}) (cached0 false false)).shc.lines =
    (cached0 false false).shc.lines ∧
    regVal (run (.shcLookup 9 0 5 { op := .read, rivals := 8 } {}) (cached0 false false)) 0xD3048 = 0 := by decide +kernel

end Sys2Proof.Tests
end

