-- ==== Sys2Proof/Tests/Engines.lean ====
section
/-! SUPPORT. Tests and witnesses for plans, jobs and engines. -/

set_option Elab.async false

namespace Sys2Proof.Tests

open Sys2Proof Sys2Proof.Machine Sys2Proof.Claims

theorem served_when {s : State} {r : HeldMsg} (h : (!dmpDead s && mbExists s r.mb && !mbBusy s r.mb && !dmpWaits s r &&
    (dmpFault s r).isNone) = true) : served s r := by
  simpa [served, and_assoc] using h

/-- A computation that gives a value. -/
def done {α : Type} (r : Except Nat α) : Bool :=
  match r with
  | .ok _ => true
  | .error _ => false

/-! ### Plans -/

/-- An image as R87 to R96 lay it out: an SRC_TS vertex and a SINK_HOST vertex, one edge with two
credits of 4,096 bytes, one job, and `dram` bytes of DRAM for each job. -/
def image (dram : Nat) : Bytes :=
  let secs := [(128, 128), (256, 32), (0, 0), (0, 0), (320, 128), (448, 64), (0, 0), (0, 0)].flatMap
    (fun p => toLe 4 p.1 ++ toLe 4 p.2)
  let vert := fun (v kind nin nout len : Nat) => toLe 2 v ++ toLe 1 kind ++ [0] ++ toLe 1 nin ++ toLe 1 nout ++
    toLe 2 0xFFFF ++ zeros 4 ++ toLe 4 (if len = 0 then 0 else 64) ++ toLe 4 len ++ zeros 44
  let edge := toLe 2 0 ++ toLe 2 0 ++ [0, 1] ++ toLe 2 2 ++ toLe 2 1 ++ toLe 2 0xFFFF ++ toLe 2 0xFFFF ++ toLe 2 0xFFFF ++
    [0, 0xFF, 0xFF, 0xFF, 0, 0, 0, 0] ++ toLe 4 4096 ++ zeros 4
  let const := zeros 64 ++ [1, 0, 0, 0] ++ toLe 4 0 ++ toLe 4 1 ++ zeros 52
  let res := toLe 2 1 ++ zeros 2 ++ toLe 4 2 ++ zeros 8 ++ toLe 8 dram ++ zeros 40
  let body := secs ++ vert 0 0x21 0 1 0 ++ vert 1 0x30 1 0 64 ++ edge ++ zeros 32 ++ const ++ res
  let head := toLe 4 0x4E4C5045 ++ [1, 0, 8, 0] ++ toLe 8 77 ++ toLe 4 512 ++ toLe 2 2 ++ toLe 2 1 ++ zeros 4
  head ++ toLe 4 (crc32c (head ++ zeros 4 ++ zeros 32 ++ body)) ++ zeros 32 ++ body

/-- The device with DRAM of 64 MiB, and no plan in kennel 0. -/
def smallUp : State :=
  { withRegs up [(0x10F000, 26 * 256)] with kennels := [(0, { kennel0 with plans := [] })], jobs := [] }

/-- The message that offers 512 bytes. -/
def loadMsg : Msg := msg (zeros 8 ++ toLe 4 512 ++ zeros 4)
def noStands : Places → Nat → Vertex → List Nat := fun _ _ _ => []

/-- planCommands: a host error, an image that passes, one with a wrong CRC; unloading and status. -/
theorem witness_planCommands :
    served smallUp { dmpMsg .mb0 0x0300 loadMsg with host := none } ∧
    served smallUp { dmpMsg .mb0 0x0300 loadMsg with host := some (image 8192) } ∧
    served up (dmpMsg .mb0 0x0301 (msg (toLe 8 1))) ∧ served up (dmpMsg .mb0 0x0301 (msg (toLe 8 2))) ∧
    served up (dmpMsg .mb0 0x0302 (msg (toLe 8 0xFFFF0001))) ∧
    (0 < jobsOfPlan up 0 1 ∧ jobsOfPlan { up with jobs := [] } 0 1 = 0 ∧ (plan? up 0 1).isSome = true ∧
      plan? up 0 2 = none) ∧ served { up with jobs := [] } (dmpMsg .mb0 0x0301 (msg (toLe 8 1))) :=
  ⟨served_when (by decide +kernel), served_when (by decide +kernel), served_when (by decide +kernel),
   served_when (by decide +kernel), served_when (by decide +kernel), by decide +kernel, served_when (by decide +kernel)⟩

theorem witness_planFault : (let x := { kennel0 with plans := [] }
      let p := planOf (image 8192) 0
      let stands := standsAt smallUp x p.verts (Config.freeNat smallUp.free)
      planFault smallUp 0 x (image 8192) stands = none ∧
      (bestPlaces stands (splitsAt p.verts p.edges) (vertsOf p.verts (fun v => v.kind == kHound || onEngine v))).isSome = true ∧
      planFault smallUp 0 x (image 8192 ++ zeros 64) stands = some (0x0401, 0xFFFF) ∧
      planFault smallUp 0 x (image 8191) stands = some (0x0401, 0xFFFF)) := by decide +kernel

theorem test_unload_busy : ((tget (run (.planUnload .mb0 (msg (toLe 8 1))) up).windows 256 []).drop 8).take 2 = [0x0A, 0x04] := by
  decide +kernel

/-! ### Grants -/

/-- Two kennels wait for a job slot; the lower won last. -/
def waiting : State :=
  let waits : List SlotReq := [{ kennel := 0, a := 0 }, { kennel := 1, a := 0 }]
  { up with
    kennels := [(0, kennel0), (1, kennel0)]
    slots := { up.slots with jobWait := waits, jobArb := { last := 0 }, tileWait := [{ kennel := 0, a := 9, b := 1 }] } }

theorem witness_slotGrants : slotFor waiting .job 0 = true ∧ slotFor waiting .job 1 = true ∧ slotFor waiting .tile 0 = true := by
  decide +kernel
theorem test_slot_round_robin : (run (.slotGrant .job) waiting).slots.jobArb.last = 1 := by decide +kernel

/-- Plan 1 with vertex 1 an engine vertex that has `nin` inputs, the first from vertex 0. -/
def engVert (kind nin : Nat) (cfg : Bytes) : Vertex :=
  { kind, flags := 0, nin, nout := 1, place := 0, nhounds := 0, cfg, body := [], sramKib := 0, spillKib := 0 }
def engPlan (v : Vertex) : Plan :=
  { plan0 with
    verts := [vertTs, v, vertSink]
    edges := [edgeTo 0 1, edgeTo 1 2] ++ (if v.nin = 2 then [{ edgeTo 0 1 with dsts := [(1, 1)] }] else []) }

/-- An engine serves that vertex of job 9; items wait on its first input, and on its second. -/
def onEng (e : EngineId) (v : Vertex) (st : VertSt) (q q1 : List EItem) : State :=
  { up with
    kennels := [(0, { kennel0 with plans := [(1, engPlan v)] })]
    jobs := [(9, { job0 with
      edges := [{ queues := [q] }, { queues := [[]] }] ++ (if v.nin = 2 then [{ queues := [q1] }] else [])
      verts := [{}, st, {}] })]
    engines := [(e, { serving := some { job := 9, vid := 1 } })] }

/-! ### Facet -/

/-- One predicate, column 1 greater than 5, and one FILTER port that carries every column. -/
def facetCfg : Bytes :=
  zeros 2 ++ toLe 2 1 ++ zeros 60 ++ [0, 0, 2, 0] ++ zeros 4 ++ toLe 4 0xFFFFFFFF ++ zeros 4 ++ zeros 112 ++
  toLe 2 1 ++ [5, 8, 0] ++ zeros 3 ++ toLe 8 5 ++ zeros 16
def facetV : Vertex := engVert 0x02 1 facetCfg
def facetOn (q : List EItem) : State := onEng (.fe 0) facetV {} q []

/-- A tile of an event with EPOCH 3 and EVENT 4. -/
def eventTile : Bytes :=
  buildTile { log2cap := 8, rows := 1, seq := mkSeq 0 3 1 0, rowidBase := 0, kennel := 0, dense := true, event := true }
    [{ colid := 0xFF01, ty := 8, vals := [some 3] }, { colid := 0xFF02, ty := 6, vals := [some 4] },
     { colid := 0xFF03, ty := 6, vals := [some 0] }, { colid := 0xFF04, ty := 8, vals := [some 0] },
     { colid := 0xFF05, ty := 6, vals := [some 0] }]
/-- A GATE port holds that tile, and its verdict has been issued. -/
def gated : State :=
  let s := onEng (.fe 0) facetV { eng := .facet { gate := [{ port := 0, item := .tile eventTile }] } } [] []
  { s with timing := { s.timing with issued := [{ kennel := 0, epoch := 3, event := 4, accept := true, late := false }] } }

theorem witness_facet : (servedIdle (facetOn [.tile 1 tile0]) (.fe 0)).any (fun x =>
      x.vert.kind == kFacet && !gateFull x && headTile x 0 == some tile0 &&
      (match readTile up x tile0 with
       | .ok p => done (facetRun x.vert.cfg x.vert.body (planConst x.plan) x.vert.nout false [] [] x.j p)
       | .error _ => false)) = true ∧
    (servedIdle (facetOn [.skip 3]) (.fe 0)).any (fun x => headSkip x 0 == some 3 && (facetOf x.st).gate.isEmpty) = true ∧
    (servedIdle (facetOn [.tile 1 (zeros 64)]) (.fe 0)).any (fun x => !done (readTile up x (zeros 64))) = true ∧
    (vx? gated { job := 9, vid := 1 }).any (fun x => vxLive x &&
      (match readTile gated x eventTile with
       | .ok p => gateVerdicts gated 0 p == some [(true, false)] &&
           (match gateEmit p (fun _ => (true, false)) with | .ok (.tile _) => true | _ => false)
       | .error _ => false)) = true := by decide +kernel

/-- One row of two is above 5. -/
theorem test_facet_filters : (vx? (run (.facetTile 0) (facetOn [.tile 1 tile0])) { job := 9, vid := 1 }).any (fun x =>
    x.st.outq.all (fun o => match o.2 with | .tile b => le b 4 4 == 1 | .skip _ => false) && x.st.outq.length == 1) = true := by
  decide +kernel

/-! ### Sort, aggregation -/

/-- One ascending key, column 1; stable; every column carried. -/
def sortCfg : Bytes := [1, 1] ++ zeros 2 ++ toLe 4 1000 ++ toLe 4 0 ++ [8, 3] ++ zeros 2 ++ toLe 4 1024 ++ zeros 44 ++
  toLe 2 1 ++ [8] ++ zeros 13
def sortOn (st : SortSt) (q : List EItem) : State := onEng (.srt 0) (engVert 0x04 1 sortCfg) { eng := .sort st } q []
def srow (k : Int) : SRow := { key := [k], ref := 0, tie := 0, rowid := 0, cols := [] }

theorem witness_sort : (servedSort (sortOn {} [.tile 1 tile0]) 0).any (fun x => headTile x 0 == some tile0 &&
      (match readTile up x tile0 with
       | .ok p => done (sortTake x.vert.cfg (fun _ => 0) (sortOf x.st) p (tileTotal tile0)) &&
           !done (sortTake (sortCfg.take 4 ++ toLe 4 1 ++ sortCfg.drop 8) (fun _ => 0) (sortOf x.st) p (tileTotal tile0))
       | .error _ => false)) = true ∧
    (servedSort (sortOn {} [.skip 3]) 0).any (fun x => headSkip x 0 == some 3) = true ∧
    (let runs := (List.range 9).map (fun i => [srow (Int.ofNat i)])
     sortFanin sortCfg < (sortClose sortCfg { runs }).runs.length ∧
     (servedSort (sortOn { runs } [.endMark]) 0).any (fun x => portEnded x 0) = true) ∧
    (sortClose sortCfg { runs := [[srow 1], [srow 2]] }).runs.length ≤ sortFanin sortCfg ∧
    (servedSort (sortOn { runs := [[srow 1], [srow 2]] } [.endMark]) 0).any (fun x => portEnded x 0 &&
      !(sortOf x.st).finished) = true := by decide +kernel

theorem test_merge : (vx? (run (.sortMergePass 0) (sortOn { runs := (List.range 9).map (fun i => [srow (Int.ofNat i)]) } [.endMark]))
    { job := 9, vid := 1 }).any (fun x => (sortOf x.st).runs.length ≤ 8) = true := by decide +kernel

/-- Groups by column 1, with no accumulator and a count in column 2. -/
def aggCfg : Bytes := [1, 1, 1, 0, 0, 0, 0, 0] ++ toLe 4 16 ++ toLe 4 100 ++ toLe 2 2 ++ toLe 2 0xFFFF ++ zeros 2 ++
  toLe 2 0xFFFF ++ zeros 40 ++ toLe 2 1 ++ toLe 2 1 ++ [8] ++ zeros 11
def aggOn (q : List EItem) : State := onEng (.agg 0) (engVert 0x05 1 aggCfg) {} q []

theorem witness_agg : (servedAgg (aggOn [.tile 1 tile0]) 0).any (fun x => aggPort 64 x == some 0 && headTile x 0 == some tile0 &&
      (match readTile up x tile0 with
       | .ok p => done (aggTake x.vert.cfg (aggOf x.st) p) &&
           !done (aggTake (aggCfg.take 64 ++ toLe 2 3 ++ aggCfg.drop 66) (aggOf x.st) p)
       | .error _ => false)) = true ∧
    (servedAgg (aggOn [.skip 3]) 0).any (fun x => aggPort 64 x == some 0 && headTile x 0 == none) = true ∧
    (servedAgg (aggOn [.endMark]) 0).any (fun x => allEnded x && !(aggOf x.st).finished) = true := by decide +kernel

theorem test_groups : (vx? (run (.aggInputTile 0) (aggOn [.tile 1 tile0])) { job := 9, vid := 1 }).any (fun x =>
    (aggOf x.st).groups.length == 2 && (aggOf x.st).groups.all (·.rows == 1)) = true := by decide +kernel

/-! ### Joins and event building -/

/-- One key, column 1, on both ports, and no carried column; times in column 1 for a windowed join. -/
def joinCfg (mode : Nat) : Bytes := [BitVec.ofNat 8 mode, 1, 0, 1] ++ toLe 4 1000 ++ toLe 4 10 ++ toLe 2 1 ++ toLe 2 1 ++
  toLe 2 0xFFFF ++ toLe 2 0xFFFF ++ [0, 0, 0, 0] ++ toLe 2 1 ++ toLe 2 1 ++ zeros 36
def joinOn (mode : Nat) (q q1 : List EItem) : State := onEng (.she 0) (engVert 0x03 2 (joinCfg mode)) {} q q1
/-- This one has no column 1. -/
def badTile : Bytes :=
  buildTile { log2cap := 8, rows := 1, seq := mkSeq 0 3 1 0, rowidBase := 0, kennel := 0, dense := true, event := false }
    [{ colid := 2, ty := 7, vals := [some 1] }]

theorem witness_join : (servedJoin (joinOn 2 [.tile 1 tile0] []) 0 2).any (fun x => headTile x 0 == some tile0 &&
      (match readTile up x tile0, readTile up x badTile with
       | .ok p, .ok q => done (joinBuild x.vert.cfg (joinOf x.st) p) && !done (joinBuild x.vert.cfg (joinOf x.st) q)
       | _, _ => false)) = true ∧
    (servedJoin (joinOn 2 [.skip 3] []) 0 2).any (fun x => headSkip x 0 == some 3) = true ∧
    (servedJoin (joinOn 2 [.endMark] [.tile 1 tile0]) 0 2).any (fun x => portEnded x 0 && headTile x 1 == some tile0 &&
      (match readTile up x tile0 with
       | .ok p => done (joinProbe x.vert.cfg (joinOf x.st) p)
       | _ => false)) = true ∧
    (servedJoin (joinOn 3 [.tile 1 tile0] []) 0 3).any (fun x =>
      (match readTile up x tile0 with
       | .ok p => done (joinWindow x.vert.cfg 0 false (joinOf x.st) p)
       | _ => false)) = true := by decide +kernel

theorem test_join_builds : (vx? (run (.joinBuildTile 0) (joinOn 2 [.tile 1 tile0] [])) { job := 9, vid := 1 }).any (fun x =>
    (joinOf x.st).rows0.length == 2) = true := by decide +kernel

/-- An event-build record: 1,024 open events, a window of 64, and source 1 expected. -/
def buildCfg : Bytes := [1, 1, 0, 0] ++ toLe 4 1024 ++ toLe 4 64 ++ toLe 4 64 ++ toLe 4 16 ++ toLe 4 8 ++ zeros 6 ++
  toLe 2 0xFFFF ++ toLe 2 0xFFFF ++ zeros 30 ++ [6] ++ zeros 2047
def fragment (ty source event : Nat) : Frag :=
  { port := 0, link := 0, tick := 0, bytes := rfxHeader 0 ty source 3 event 32 0 0 }
def buildOn (b : BuildSt) (f : List Frag) : State :=
  onEng (.she 0) { engVert 0x03 1 buildCfg with nout := 1 } { eng := .build b } [.block 1 (fragBlock (f.map (fun f => (0, f))))] []
def opened (e : Nat) (srcs : List Nat) : OpenEv := { epoch := 3, event := e, toffset := 0, srcs, flags := 0, opened := 0, caps := [] }

/-- A vertex with one slot, which another event holds. -/
def buildFull (f : List Frag) : State :=
  onEng (.she 0) { engVert 0x03 1 (buildCfg.take 4 ++ toLe 4 1 ++ buildCfg.drop 8) with nout := 1 }
    { eng := .build { opens := [opened 9 [1]] } } [.block 1 (fragBlock (f.map (fun f => (0, f))))] []
/-- A vertex that holds the tombstone of event 7 of job 9 up to FCLK tick 8. -/
def buriedEvent : State :=
  modPlan (buildOn {} [fragment 1 1 7]) 0 1 (fun p => { p with tombs := [(1, [⟨9, 3, 7, 8⟩])] })

/-- shepherdFragments: a new event with a slot and without one, its second source, the same source again, a late one, a CLOSE
before and after its epoch has closed, a HEARTBEAT. -/
theorem witness_shepherdFragments :
    (let u := tickTo (buildOn {} [fragment 1 1 7]) 5
     (servedVx u (.she 0)).any (fun x => isBuild x && x.st.outq.isEmpty && (nextBlock x).length == 1 &&
      !isLate u x 3 7 && !shbStoreEn x.vert.cfg && shbNExpect x.vert.cfg == 2 &&
      slotsUsed u x < shbMaxOpen x.vert.cfg && !shbCloseBySrc x.vert.cfg) = true) ∧
    (let u := tickTo (buildFull [fragment 1 1 7]) 5
     (servedVx u (.she 0)).any (fun x => !isLate u x 3 7 && decide (shbMaxOpen x.vert.cfg ≤ slotsUsed u x)) = true) ∧
    (let f := fragment 1 2 7
     rfxType f.bytes = 1 ∧ rfxSource f.bytes = 2 ∧ rfxEpoch f.bytes = 3 ∧ rfxEvent f.bytes = 7 ∧
     (keepIn buildCfg (opened 7 [1]) 0 f).srcs.countP (shbExpects buildCfg) = shbNExpect buildCfg) ∧
    ({ opens := [opened 7 [1]] : BuildSt }.opens.find? (isEvent 3 7)).any (fun o => o.srcs.contains 1) = true ∧
    (let u := tickTo buriedEvent 8
     (servedVx u (.she 0)).any (fun x => isLate u x 3 7) = true) ∧
    rfxType (fragment 2 1 0).bytes = 2 ∧ rfxType (fragment 3 1 0).bytes = 3 ∧
    (servedVx (buildOn { closed := [(3, 3)] } [fragment 2 1 7]) (.she 0)).any (fun x => epochClosed x (buildOf x.st) 3) = true := by
  decide +kernel

theorem test_event_opens : (vx? (run (.sheDataFragment 0 5) (buildOn {} [fragment 1 1 7])) { job := 9, vid := 1 }).any (fun x =>
    (buildOf x.st).opens.map (fun o => (o.event, o.srcs, o.opened)) == [(7, [1], 5)]) = true := by decide +kernel
theorem test_event_completes : (vx? (run (.sheDataFragment 0 5) (buildOn { opens := [opened 7 [1]] } [fragment 1 2 7]))
    { job := 9, vid := 1 }).any (fun x => (buildOf x.st).opens.isEmpty) = true := by decide +kernel
theorem test_event_buried : (let t := run (.sheDataFragment 0 5) (buildOn { opens := [opened 7 [1]] } [fragment 1 2 7])
    (vx? t { job := 9, vid := 1 }).any (fun x => (tombsOf t x).map (fun t => (t.job, t.event)) == [(9, 7)]) = true) := by
  decide +kernel

def brow : BuildRow := { epoch := 3, event := 7, toffset := 0, srcsum := 2, build := 0, fields := [], evref := 0, evbytes := 0 }

/-- shepherdUpkeep: an open tile of one row, a row held back, an event past its window; an ingest
source with an open block. -/
theorem witness_shepherdUpkeep :
    (let s := buildOn { opens := [opened 7 [1]], outs := [(0, [brow])] } []
     ∀ now ∈ [63, 64], (buildVx (tickTo s now) { job := 9, vid := 1 }).any (fun x =>
      tget (buildOf x.st).outs 0 [] == [brow] && tget (buildOf x.st).outs 1 [] == [] &&
      tget (buildOf x.st).firsts 0 0 + shbFlush x.vert.cfg == 64) = true) ∧
    (buildVx (onEng (.she 0) (engVert 0x03 1 buildCfg) { eng := .build { heldRows := [(0, brow)] } } [] []) { job := 9, vid := 1 }).any
      (fun x => (nextBlock x).isEmpty && x.st.outq.isEmpty && 1 < 2 ^ outCap x.plan x.vid 0) = true ∧
    (let s := onEng (.she 0) (engVert 0x20 0 []) { eng := .ingest { opens := [(0, ⟨1, 0, [(0, fragment 1 1 7)]⟩)] } } [] []
     (∀ now ∈ [255, 256], (vx? (tickTo s now) { job := 9, vid := 1 }).any (fun x => x.vert.kind == kSrcIngest && vxLive x && !x.st.endSent &&
       (ingestOf x.st).early.isEmpty && (outEdge? x.plan x.vid 0).any (fun e => x.job.edges[e.1]?.isSome) &&
       (ingestOf x.st).opens.map (fun o => blockDue o.2) == [256]) = true)) := by decide +kernel

theorem test_window : (vx? (run (.eventWindowTimeout { job := 9, vid := 1 } 64) (buildOn { opens := [opened 7 [1]] } []))
    { job := 9, vid := 1 }).any (fun x => (buildOf x.st).opens.isEmpty) = true := by decide +kernel

/-! ### Flow of a job -/

theorem witness_engineSchedule : (let s := { facetOn [.tile 1 tile0] with engines := [] }
    (servedVx s (.fe 0)).isNone = true ∧ unitGated s (.fe 0) = false ∧ (engineCands s kFacet 0).length = 1 ∧
    0 < kennelWeight s 0 kFacet) := by decide +kernel

def outs (o : List (Nat × OItem)) : State := onEng (.fe 0) facetV { outq := o } [] []

/-- jobFlow: a tile and a skip mark to publish, with a slot and without; a spilled tile; ends. -/
theorem witness_jobFlow :
    (vx? (outs [(0, .tile tile0)]) { job := 9, vid := 1 }).any (fun x => vxLive x && !isBuild x &&
      (outEdge? x.plan 1 0).map (·.1) == some 1 && x.job.edges[1]? == some { queues := [[]] } && x.st.inHold.isEmpty &&
      tileSlotFree (outs [(0, .tile tile0)]) x &&
      !lastReserved (outs [(0, .tile tile0)]) x (edgeTo 1 2) 0 (tileSeq tile0)) = true ∧
    (let s := modKennel (outs [(0, .tile tile0)]) 0 (fun k => { k with share := zeros 64 })
     (vx? s { job := 9, vid := 1 }).any (fun x => vxLive x && !tileSlotFree s x) = true) ∧
    (let s := onEng (.fe 0) facetV {} [.endMark] []
     (vx? s { job := 9, vid := 1 }).any (fun x => vxLive x && allEnded x && !isSink x.vert.kind && workDone s x) = true) ∧
    (let s := onEng (.she 0) (engVert 0x03 2 (joinCfg 2)) {} [.endMark] [.spilled tile0]
     (liveVx s { job := 9, vid := 1 }).any (fun x => inHead x 1 == some (.spilled tile0) && portEnded x 0) = true) ∧
    (vx? (sortOn {} [.endMark]) { job := 9, vid := 1 }).any (fun x => allEnded x && !workDone (sortOn {} [.endMark]) x) = true := by
  decide +kernel

theorem test_publish : (vx? (run (.tilePublish { job := 9, vid := 1 } 0) (outs [(0, .tile tile0)])) { job := 9, vid := 2 }).any
    (fun x => inHead x 0 == some (.tile 1 tile0)) = true := by decide +kernel
theorem test_end_mark : (vx? (run (.endMarkSend { job := 9, vid := 1 }) (onEng (.fe 0) facetV {} [.endMark] []))
    { job := 9, vid := 2 }).any (fun x => inHead x 0 == some .endMark) = true := by decide +kernel

def wq3 : Wq :=
  { ring := 4096, shadow := 64, log2 := 3, cq := 1
    inflight := [{ seq := 3, opc := 1, tag := 2, solicit := false, work := .job 9 }] }
def cq8 : Cq :=
  { ring := 8192, shadow := 128, log2 := 3, modCount := 0, irq := false, wake := false, modTime := 0, vector := 0 }
/-- Job 9 came from WQ 0 with SEQNO 3; its CQ 1 is empty. -/
def queuedJob (b : Job) : State :=
  { up with
    kennels := [(0, { kennel0 with wqs := [(0, wq3)], cqs := [(1, cq8)] })]
    jobs := [(9, b)] }
def failedJob : Job := { job0 with failed := some (0x0201, 1), verts := [{ stopped := true }, { stopped := true }, { stopped := true }] }

/-- jobEnds: sinks closed, every vertex stopped, a time limit, a unit that stops and a Hound. -/
theorem witness_jobEnds :
    (let s := queuedJob { job0 with verts := [{}, {}, { eng := .sink { closed := true } }] }
     (job? s 9).any jobLive = true ∧ (jobSinks s 9).all (fun x => (sinkOf x.st).closed) = true ∧ (jobSinks s 9).length = 1 ∧
     hostUp s = true ∧ devErr s = false ∧
     (wq? s 0 0).any (fun q => (q.inflight.find? (·.seq == 3)).isSome) = true ∧ (cq? s 0 1).any (fun c => cqUsed c != cqSize c) = true ∧
     (kennel? s 0).any (fun x => x.ovf.isEmpty) = true) ∧
    failedJob.verts.all (·.stopped) = true ∧
    (let b := { job0 with entry := zeros 19 ++ [1] ++ zeros 44 }; jobLive b = true ∧ jeFlags b.entry = 1) ∧
    (let s := { onU with jobs := [(9, { job0 with failed := some (0x0201, 1) })] }
     (vx? s { job := 9, vid := 1 }).any (fun x => !x.st.stopped && x.job.failed.isSome && !x.job.retired &&
       x.vert.units.filter (fun h => x.vert.kind == kHound && (hound s h).job == some x.j) == [0]) = true ∧
     (vx? s { job := 9, vid := 2 }).any (fun x => x.vert.kind != kExch &&
       (x.vert.units.filter (fun h => x.vert.kind == kHound && (hound s h).job == some x.j)).isEmpty) = true) := by decide +kernel

theorem test_complete_out : (run (.jobComplete 9) (queuedJob { job0 with verts := [{}, {}, { eng := .sink { closed := true } }] })).out =
    [.hostWrite 5 8192 (toLe 2 2 ++ [0, 0, 1, 0, 0xFF, 0xFF] ++ zeros 16 ++ toLe 7 3 ++ [1]), .hostWrite 5 128 (toLe 4 1)] := by
  decide +kernel
theorem test_unit_stop : (hound (run (.unitStop { job := 9, vid := 1 })
    { onU with jobs := [(9, { job0 with failed := some (0x0201, 1) })] }) 0).ipend = 1 := by decide +kernel

/-- A source with one range of space 5 that holds one tile; a host sink with a window of one page and one of
space 5. -/
def rangeEntry : Bytes := zeros 36 ++ toLe 2 1 ++ zeros 10 ++ toLe 2 0 ++ toLe 2 5 ++ zeros 4 ++ toLe 8 0 ++ toLe 8 256 ++ zeros 8
def space5 : TSpace := { owner := some 0, former := 0, pasid := 5, eighths := 255, granules := [3] }
def tsOn (b : Bytes) : State :=
  let s := tsWrite { up with store := { up.store with spaces := [(5, space5)] } } space5 0 b
  { s with jobs := [(9, { job0 with entry := rangeEntry })] }
def sinkOn (kind : Nat) (cfg : Bytes) (q : List EItem) : State :=
  let s := tsOn []
  { s with
    kennels := [(0, { kennel0 with plans := [(1, { plan0 with verts := [vertTs, vertHound, { vertSink with kind, cfg }] })] })]
    jobs := [(9, { job0 with edges := [{ queues := [[]] }, { queues := [q] }] })] }
def hostCfg (pages : Nat) : Bytes := [1, 0, 0, 0] ++ toLe 4 0 ++ toLe 4 pages ++ zeros 52

theorem witness_sources : (liveVx (tsOn tile0) { job := 9, vid := 0 }).any (fun x => x.vert.kind == kSrcTs && x.st.outq.isEmpty &&
      tsRange x == some (5, 0, 256) && (ownSpace (tsOn tile0) 0 5).isSome &&
      moverUp (tsOn tile0) && (match tsNextTile (tsOn tile0) space5 0 256 0 with
       | .ok b => done (readWhole (tsOn tile0) x b)
       | .error _ => false)) = true ∧ done (tsNextTile (tsOn (zeros 64)) space5 0 256 0) = false ∧
    (let s := tsOn (tile0.set 130 0xFF)
     (liveVx s { job := 9, vid := 0 }).any (fun x => match tsNextTile s space5 0 256 0 with
       | .ok b => !done (readWhole s x b)
       | .error _ => false) = true) := by decide +kernel

theorem witness_sinks : tileHeaderOk tile0 = true ∧ tileTotal tile0 ≤ tile0.length ∧ 0 < tileTotal tile0 ∧
    (∀ c ∈ [(0x30, hostCfg 1), (0x31, [1, 0] ++ toLe 2 5 ++ zeros 12 ++ toLe 8 4096 ++ zeros 40), (0x32, []), (0x30, hostCfg 0)],
      let s := sinkOn c.1 c.2 [.tile 1 tile0]
      (liveVx s { job := 9, vid := 2 }).any (fun x => sinkUp s x && !deferHolds x 0 && !vOrdered x.vert &&
        inHead x 0 == some (.tile 1 tile0) && x.vert.kind == c.1) = true ∧ inDet s 0 = false ∧ (ownSpace s 0 5).isSome = true) ∧
    (liveVx (sinkOn 0x30 (hostCfg 1) [.skip 3]) { job := 9, vid := 2 }).any (fun x => inHead x 0 == some (.skip 3)) = true := by
  decide +kernel

theorem test_source_reads : (vx? (run (.srcTsTile { job := 9, vid := 0 }) (tsOn tile0)) { job := 9, vid := 0 }).any (fun x =>
    x.st.outq.length == 1) = true := by decide +kernel

end Sys2Proof.Tests
end

