-- ==== Sys2Proof/Tests/Hounds.lean ====
section
/-! SUPPORT. Tests of Hounds: memory, vectors, jobs and services. -/

set_option Elab.async false

namespace Sys2Proof.Tests

open Sys2Proof Sys2Proof.Machine Sys2Proof.Claims

/-! ### Loads and stores -/

/-- S and U mode with X1 at an address. -/
def sAt (a : Nat) : State := sWith 1 (BitVec.ofNat 64 a)
def uAt (a : Nat) : State := busy (houndRun (uRegs.wx 1 (BitVec.ofNat 64 a)))

/-- houndScratchpadAccesses: the last double of each privilege, the first beyond it, and a misaligned one. -/
theorem witness_houndScratchpadAccesses :
    (addrOf (hregs (uAt 0xBBFF8) 0) 1 0 % 8 = 0 ∧ addrOf (hregs (uAt 0xBBFF8) 0) 1 0 < spadLimit (hregs (uAt 0xBBFF8) 0)) ∧
    (addrOf (hregs (sAt 0xBFFF8) 0) 1 0 % 8 = 0 ∧ addrOf (hregs (sAt 0xBFFF8) 0) 1 0 < spadLimit (hregs (sAt 0xBFFF8) 0)) ∧
    accessOk (uAt 0xBC000) 0 false false .load 0xBC000 8 = false ∧
    accessOk (uAt 0xBC000) 0 false false .store 0xBC000 8 = false ∧
    accessOk (sAt 0xC0000) 0 true false .load 0xC0000 1 = false ∧
    addrOf (hregs (uAt 0xBBFF8) 0) 1 1 % 2 ≠ 0 ∧ canIssue (uAt 0xBBFF8) 0 false = true ∧
    canIssue (sAt 0xBFFF8) 0 false = true ∧ canIssue (uAt 0xBC000) 0 false = true ∧
    (hound (uAt 0xBBFF8) 0).spad.wf = true := by decide +kernel

/-- houndCachedAccesses: a line of the runtime that is not held, one of the spill area that is, and the
first and last register of the control page. -/
theorem witness_houndCachedAccesses :
    (let s := sAt rtBase; canIssue s 0 false = true ∧ 0x08000000 ≤ rtBase ∧
      accessOk s 0 true false .load rtBase 8 = true ∧ tfind? (hound s 0).l1d (rtBase / 64) = none ∧
      (l1Set (hound s 0).l1d (rtBase / 64)).length < 4) ∧
    (∀ f, (houndLine { sAt rtBase with free := f } 0 (rtBase / 64)).2 = false) ∧
    (let s := busy { houndRun (uRegs.wx 1 0x1000000FF8) with l1d := [(0x1000000FF8 / 64, { data := zeros 64, dirty := false })] }
     canIssue s 0 false = true ∧ addrOf (hregs s 0) 1 0 = 0x1000000FF8 ∧
      accessOk s 0 false false .store 0x1000000FF8 8 = true ∧ accessOk s 0 false false .store 0x1000001000 8 = false ∧
      tfind? (hound s 0).l1d (0x1000000FF8 / 64) = some { data := zeros 64, dirty := false } ∧ (zeros 64).length = 64) ∧
    (∀ a ∈ [0xFFFFFF0000000000, 0xFFFFFF0000000200, 0xFFFFFF000000FFF8], canIssue (sAt a) 0 false = true ∧
      (hregs (sAt a) 0).smode = true ∧ addrOf (hregs (sAt a) 0) 1 0 = a ∧ a % 8 = 0) := by
  refine ⟨by decide +kernel, fun _ => rfl, by decide +kernel, by decide +kernel⟩

/-- MisalignedAccesses: an odd address for each size. -/
theorem witness_MisalignedAccesses : addrOf (hregs (uAt 0xBBFF9) 0) 1 0 % 2 ≠ 0 ∧ addrOf (hregs (uAt 0xBBFF9) 0) 1 0 % 4 ≠ 0 ∧
    addrOf (hregs (uAt 0xBBFF9) 0) 1 0 % 8 ≠ 0 ∧ canIssue (uAt 0xBBFF9) 0 false = true := by decide +kernel

theorem test_store_then_load : xAfter (.lb 0 3 1 0) (run (.sh 0 2 1 0)
    (busy (houndRun ((uRegs.wx 1 0x100).wx 2 0x1280)))) 3 = 0xFFFFFFFFFFFFFF80 := by decide +kernel
theorem test_store_vector_entry : tget (hound (run (.sd 0 2 1 8)
    (busy (houndRun ((sRegs.wx 1 0xFFFFFF0000000000).wx 2 (BitVec.allOnes 64))))) 0).vec 1 0 = 0xFFF8FFFFFFFFFFFD := by
  decide +kernel
theorem test_misaligned : (hregs (run (.lw 0 3 1 2) (busy (readyH (uRegs.wx 1 0x100)))) 0).ecause = 6 ∧
    (hregs (run (.lw 0 3 1 2) (busy (readyH (uRegs.wx 1 0x100)))) 0).eaddr = 0x102 := by decide +kernel

/-! ### Vectors -/

/-- Registers 4 to 7 hold the bytes 0 to 63 and 64 to 127; one or two registers to an operand. -/
def vRegs (k : Nat) : HoundRegs :=
  let v := fun (n : Nat) => BitVec.ofNat 512 (leNat ((List.range 64).map (fun i => BitVec.ofNat 8 (i + n))))
  { sRegs with v := ((sRegs.v.set 4 (v 0)).set 5 (v 64)).set 6 (v 128), vlen := BitVec.ofNat 64 (512 * k),
               m := sRegs.m.set 1 0xF }
def onV (k : Nat) : State := busy (houndRun (vRegs k))

def fields (vd vs1 vs2 : Fin 32) (ew : Fin 4) : VFields := { vd, vs1, vs2, men := false, msk := 0, ew }
def masked (vd vs1 vs2 : Fin 32) (ew : Fin 4) : VFields := { vd, vs1, vs2, men := true, msk := 1, ew }

/-- The element-wise statements: the last groups that fit, a group that does not, and two that meet. -/
theorem witness_groupsOk : canIssue (onV 2) 0 false = true ∧ (hregs (onV 2) 0).shaped = true ∧
    canIssue (onV 8) 0 false = true ∧ (hregs (onV 8) 0).shaped = true ∧
    groupsOk (vRegs 2) (fields 30 4 28 3) true = true ∧ groupsOk (vRegs 2) (fields 31 4 28 3) true = false ∧
    groupsOk (vRegs 2) (fields 5 4 28 3) true = false ∧ groupsOk (vRegs 2) (fields 4 4 28 3) true = true ∧
    groupsOk (vRegs 8) (fields 24 8 0 0) true = true ∧ groupsOk (vRegs 2) (masked 30 4 0 2) false = true ∧
    (fields 30 4 0 2).vs2 = 0 ∧ (fields 30 4 0 2).ew.val < 3 ∧ 2 ≤ (fields 30 4 0 3).ew.val ∧
    groupsOk (vRegs 2) (fields 30 4 0 3) false = true := by decide +kernel

/-- vectorSaturating: the narrowing from the four registers at 28 to 31, and next to its source. -/
theorem witness_vqnrw : (26 : Fin 32).val + 2 ≤ 28 ∧ (28 : Fin 32).val + 2 * 2 ≤ 32 ∧ kOf (vRegs 2) = 2 := by decide +kernel

/-- VectorCompares: the last mask group, with and without SCAL. -/
theorem witness_compareOk : compareOk (vRegs 2) (fields 6 4 30 2) = true ∧ compareOk (vRegs 2) (fields 22 4 31 2) = true ∧
    compareOk (vRegs 2) (fields 7 4 30 2) = false ∧ 7 < vcmpTable.length := by decide +kernel

/-- vectorMoves: masked and not, and an element within and beyond the operand. -/
theorem witness_vectorMoves : (fields 30 4 0 0).men = false ∧ (fields 30 4 0 0).msk = 0 ∧ (masked 30 4 8 0).men = true ∧
    groupsOk (vRegs 2) (masked 30 4 8 0) true = true ∧ (fields 30 0 0 0).vs1 = 0 ∧ (fields 30 0 0 0).vd.val + 2 ≤ 32 ∧
    (fields 0 30 1 0).vs1.val + 2 ≤ 32 ∧ (vRegs 2).vlen.toNat / 8 = 128 := by decide +kernel

/-- vectorReductions and vectorPermutes: the last group of each operand, and masks of the last group. -/
theorem witness_vectorPermutes : let f : VFields := { vd := 28, vs1 := 30, vs2 := 0, men := true, msk := 6, ew := 0 }
    f.vd.val + kOf (vRegs 2) ≤ 32 ∧ f.vs1.val + kOf (vRegs 2) ≤ 32 ∧ f.vd.val + kOf (vRegs 2) ≤ f.vs1.val ∧
    f.msk.val + kOf (vRegs 2) ≤ 8 ∧ f.vs2.val + kOf (vRegs 2) ≤ 32 ∧ f.vs2.val + kOf (vRegs 2) ≤ f.vd.val ∧
    f.vs2 = 0 ∧ f.men = true := by decide +kernel

/-- X1 at a base, X2 a stride; register 8 holds the indices 3, 3, 0 and so on of 64 bits. -/
def mRegs (base stride : Nat) : HoundRegs :=
  { ((vRegs 1).wx 1 (BitVec.ofNat 64 base)).wx 2 (BitVec.ofNat 64 stride) with v := (vRegs 1).v.set 8 (BitVec.ofNat 512 (3 * 2 ^ 64 + 3)) }

theorem inSpad_of {r : HoundRegs} {f : VFields} {w groups : Nat} {addr : Nat → Nat → Nat}
    (h : (List.range (r.vlen.toNat / w)).all (fun e => !takes r f w e || (List.range groups).all (fun g =>
      addr e g % (w / 8) == 0 && addr e g < spadLimit r)) = true) : inSpad r f w groups addr := by
  intro e he ht g hg
  have h1 := List.all_eq_true.mp h e (List.mem_range.mpr he)
  simp only [ht, Bool.not_true, Bool.false_or] at h1
  simpa using List.all_eq_true.mp h1 g (List.mem_range.mpr hg)

/-- vectorMemory: each KIND up to the last bytes that U mode reaches, and an index used twice. -/
theorem witness_vectorMemory : canIssue (busy (houndRun (mRegs 0xBFFC0 8))) 0 false = true ∧
    (hregs (busy (houndRun (mRegs 0xBFFC0 8))) 0).shaped = true ∧ (hound (busy (houndRun (mRegs 0xBFFC0 8))) 0).spad.wf = true ∧
    9 + 1 ≤ 8 + 2 := by decide +kernel
theorem witness_vectorMemory_unit :
    inSpad (mRegs 0xBFFC0 8) (fields 9 1 0 3) 64 1 (kindAddr (mRegs 0xBFFC0 8) (fields 9 1 0 3) 0 64) :=
  inSpad_of (by decide +kernel)
theorem witness_vectorMemory_strided :
    inSpad (mRegs 0xBFFC0 0) (fields 9 1 2 3) 64 1 (kindAddr (mRegs 0xBFFC0 0) (fields 9 1 2 3) 1 64) :=
  inSpad_of (by decide +kernel)
theorem witness_vectorMemory_segments :
    inSpad (mRegs 0xBFF00 8) (fields 9 1 0 3) 64 4 (kindAddr (mRegs 0xBFF00 8) (fields 9 1 0 3) 4 64) :=
  inSpad_of (by decide +kernel)
theorem witness_vectorMemory_indexed : inSpad (mRegs 0xBFF00 8) (fields 9 1 8 3) 64 1
    (fun e _ => indexAddr (mRegs 0xBFF00 8) (fields 9 1 8 3) 3 64 e) := inSpad_of (by decide +kernel)

/-- vectorFaults: the first element is off by one byte, and the second one, taken first, is beyond the scratchpad. -/
theorem witness_vectorFaults :
    (let r := mRegs 0x101 0; let f := fields 9 1 0 3
     canIssue (busy (houndRun r)) 0 false = true ∧ r.shaped = true ∧ r.vprog.toNat % 8 = 0 ∧ takes r f 64 0 = true ∧
     kindAddr r f 0 64 0 0 % 8 ≠ 0) ∧
    (let r := { mRegs 0xBFFF8 0 with m := sRegs.m.set 1 2 }; let f := masked 9 1 0 3
     canIssue (busy (houndRun r)) 0 false = true ∧ takes r f 64 1 = true ∧ (∀ d, d < 1 → takes r f 64 d = false) ∧
     kindAddr r f 0 64 1 0 % 8 = 0 ∧ accessOk (busy (houndRun r)) 0 r.smode true .load (kindAddr r f 0 64 1 0) 8 = false ∧
     accessOk (busy (houndRun r)) 0 r.smode true .store (kindAddr r f 0 64 1 0) 8 = false) := by decide +kernel

/-- partedBy: interrupts closed, nothing pending, and line 1 pending; the issues that can be parted. -/
theorem witness_partedBy :
    (hregs (onV 8) 0).ie = false ∧
    (let x := houndRun { vRegs 8 with status := 5 }; x.regs.ie = true ∧ (x.ipend &&& x.ien) = 0) ∧
    (let x := { houndRun { vRegs 8 with status := 5 } with ipend := (2 : BitVec 3) }
     canIssue (busy x) 0 false = true ∧ x.regs.ie = true ∧ (x.ipend &&& x.ien) ≠ 0 ∧
     issueEdge x.regs 2 = true ∧ issueEdge x.regs 3 = false ∧ anyPass x.regs 0 = true ∧ 2 < kOf x.regs) := by decide +kernel

/-- Element `e` of `w` bits of a vector register of Hound 0 after a command. -/
def vAfter (c : Instr) (s : State) (v w e : Nat) : Nat := (vAt (hregs (run c s) 0).v v w e).toNat

theorem test_vadd_wraps : vAfter (.vadd 0 false (fields 30 6 6 0)) (onV 1) 30 8 0 = 0 ∧
    vAfter (.vadd 0 false (fields 30 6 6 0)) (onV 1) 30 8 63 = 126 := by decide +kernel
theorem test_vrsub_masked : vAfter (.vrsub 0 true (masked 30 4 0 0)) (onV 1) 30 8 3 = 253 ∧
    vAfter (.vrsub 0 true (masked 30 4 0 0)) (onV 1) 30 8 4 = 0 := by decide +kernel
theorem test_sadd_saturates : vAfter (.sadd 0 0 (fields 30 6 6 0)) (onV 1) 30 8 0 = 0x80 ∧
    (hregs (run (.sadd 0 0 (fields 30 6 6 0)) (onV 1)) 0).vprog = 0x100 := by decide +kernel
theorem test_vqshr_rounds : vAfter (.vqshr 0 1 2 (fields 30 4 0 0)) (onV 1) 30 8 6 = 2 ∧
    vAfter (.vqshr 0 0 2 (fields 30 4 0 0)) (onV 1) 30 8 10 = 3 ∧
    vAfter (.vqshr 0 2 2 (fields 30 4 0 0)) (onV 1) 30 8 7 = 1 := by decide +kernel
theorem test_vcmp_clears_above : (hregs (run (.vcmp 0 2 (fields 18 4 1 2)) (busy (houndRun { vRegs 1 with
    x := sRegs.x.set 1 0x0B0A0909, m := sRegs.m.set 2 (BitVec.allOnes 64) }))) 0).m[2]? = some 7 := by decide +kernel
theorem test_vredmax_empty : xAfter (.vredMax 0 { fields 3 4 0 0 with men := true, msk := 0 }) (onV 1) 3 =
    0xFFFFFFFFFFFFFF80 := by decide +kernel
theorem test_vslup : vAfter (.vslup 0 (fields 30 4 2 0)) (busy (houndRun ((vRegs 1).wx 2 2))) 30 8 5 = 3 := by decide +kernel
theorem test_fadd_f32 : vAfter (.fadd 0 (fields 30 7 7 2)) (busy (houndRun { vRegs 1 with
    v := sRegs.v.set 7 0x3F800000 })) 30 32 0 = 0x40000000 := by decide +kernel
theorem test_vscatter_last_wins : let r := { mRegs 0x100 0 with v := ((vRegs 1).v.set 8 0).set 9 (BitVec.ofNat 512 (7 * 2 ^ 448 + 5)) }
    (hound (run (.vscatter 0 3 0 (fields 9 1 8 3)) (busy (houndRun r))) 0).spad.get 0x100 = 7 := by decide +kernel

/-! ### Jobs and services -/

/-- houndJobStarts: Hound 0 serves vertex 1 and job 9 is its next. -/
def idleHound : HoundSt := { houndRun {} with job := none }

theorem witness_houndJobStarts : let s := busy idleHound
    (hound s 0).serves = some (0, 1, 1, 0) ∧ plan? s 0 1 = some plan0 ∧ plan0.verts[1]? = some vertHound ∧
    nextHoundJob s 0 = some 9 ∧ (hound s 0).job = none ∧ (hound s 0).lockup = false ∧
    unitGated s (.hound 0) = false ∧ pState s < 2 ∧ mayStart s 0 = true ∧ (hound s 0).spad.wf = true ∧
    le vertHound.body 20 4 ≤ 0xBC000 := by decide +kernel

theorem test_job_start : let t := run (.houndJobStart 0) (busy idleHound)
    (hregs t 0).pc = BitVec.ofNat 64 codeBase ∧ (hregs t 0).rx 2 = 0xBC000 ∧ (hregs t 0).rx 11 = 1 ∧
    (hound t 0).job = some 9 := by decide +kernel

/-- houndStaging: a tile, and skip marks for a vertex with and without outputs and an origin. -/
theorem witness_houndStaging :
    ((houndVx (withQueue onS 0 [.tile 1 tile0]) 0).any (fun x => vxLive x && portReady x 0 &&
      (inHead x 0 == some (.tile 1 tile0)) && cycleAllows (withQueue onS 0 [.tile 1 tile0]) x 0 && (hcNin x.vert.cfg == 1) &&
      (tfind? (hound onS 0).inbufs 0).isNone)) = true ∧ (hound onS 0).lockup = false ∧ pState onS < 2 ∧
    ((houndVx (withQueue onS 0 [.skip 5]) 0).any (fun x => vxLive x && portReady x 0 &&
      (inHead x 0 == some (.skip 5)) && !hcOrigin x.vert.cfg)) = true ∧
    hcOrigin [0, 1, 1, 1] = true := by decide +kernel

/-- houndStaging: the Hound waits in TAKE for port 0, or none does. -/
theorem witness_stageWinner :
    (let s := withQueue (busy (service 0 0 0 0 { houndRun sRegs with waiting := true })) 0 [.tile 1 tile0]
     (houndVx s 0).any (fun x => takeWaits s x 0 == [0] && stageWinner s x 0 0 == 0) = true ∧ moverUp s = true) ∧
    (let s := withQueue onS 0 [.tile 1 tile0]
     (houndVx s 0).any (fun x => takeWaits s x 0 == [] && stageWinner s x 0 0 == 0) = true) := by decide +kernel

def okTile (r : Except Nat PTile) : Bool :=
  match r with
  | .ok _ => true
  | .error _ => false

theorem own_noSpaces (u : State) (h : u.store.spaces = []) (k n : Nat) : ownSpace u k n = none := by
  simp [ownSpace, space?, h, tfind?]
theorem dictEnv_noSpaces {s t : State} (hs : s.store.spaces = []) (ht : t.store.spaces = []) (k : Nat) (p : Plan) :
    dictEnv s k p [] = dictEnv t k p [] := by
  funext r
  simp only [dictEnv, spaceDict, tfind?, own_noSpaces s hs, own_noSpaces t ht]
theorem dictPoison_noSpaces {s t : State} (hs : s.store.spaces = []) (ht : t.store.spaces = []) :
    dictPoison s = dictPoison t := by
  funext k p
  simp only [dictPoison, own_noSpaces s hs, own_noSpaces t ht]
/-- With no table space in the directory, what a tile reads as rests on its plan alone, for a job
that has read no dictionary. -/
theorem readTile_noSpaces {s t : State} (hs : s.store.spaces = []) (ht : t.store.spaces = []) (x : Vx) (b : Bytes)
    (hd : x.job.dicts = []) : readTile s x b = readTile t x b := by
  unfold readTile
  rw [hd, dictEnv_noSpaces hs ht, dictPoison_noSpaces hs ht]

theorem readTile_free (s : State) (n : Nat) (x : Vx) (b : Bytes) (h : s.store.spaces = []) (hd : x.job.dicts = []) :
    readTile { s with free := n } x b = readTile s x b :=
  readTile_noSpaces (s := { s with free := n }) (t := s) h h x b hd
theorem staged_noSpaces : (withQueue onS 0 [.tile 1 tile0]).store.spaces = [] := by decide +kernel

theorem witness_houndStaging_tile :
    ((houndVx (withQueue onS 0 [.tile 1 tile0]) 0).any (fun x => x.job.dicts.isEmpty &&
      okTile (readTile (withQueue onS 0 [.tile 1 tile0]) x tile0))) = true ∧
    ∀ x n, x.job.dicts = [] → readTile { withQueue onS 0 [.tile 1 tile0] with free := n } x tile0 =
      readTile (withQueue onS 0 [.tile 1 tile0]) x tile0 :=
  ⟨by decide +kernel, fun x n => readTile_free _ n x _ staged_noSpaces⟩

theorem test_stage : let t := run (.houndStageTile 0 0) (withQueue onS 0 [.tile 1 tile0])
    (tfind? (hound t 0).inbufs 0).map (·.len) = some tile0.length ∧ (hound t 0).ipend = 2 ∧
    (hound t 0).spad.read 0 64 = tile0.take 64 := by decide +kernel

def buf0 : InBuf := { port := 0, seq := mkSeq 0 3 1 0, len := tile0.length }
def atSvc (n : Nat) (a b c : Word) (ins : Tbl InBuf) (outs : Tbl Nat) : State :=
  busy (service n a b c { houndRun sRegs with inbufs := ins, outbufs := outs })

/-- houndBufferServices: TAKE of a port that is not there, with no buffer left, of a staged tile, of an
ended port, and one that waits; RELEASE and ALLOC each way. -/
theorem witness_houndBufferServices :
    ((atService (atSvc 0 1 0 0 [] []) 0 0).any (fun x => x.vert.nin ≤ 1)) = true ∧
    ((atService (atSvc 0 0 0 0 [(0, { buf0 with taken := true })] []) 0 0).any (fun x => 0 < x.vert.nin &&
      hcNin x.vert.cfg == 1)) = true ∧
    ((atService (atSvc 0 0 0 0 [(0, buf0)] []) 0 0).isSome && stagedIn (atSvc 0 0 0 0 [(0, buf0)] []) 0 0 ==
      some (0, buf0)) = true ∧
    ((atService (withQueue (atSvc 0 0 0 0 [] []) 0 [.endMark]) 0 0).any (fun x => portEnded x 0)) = true ∧
    ((atService (atSvc 0 0 0 0 [] []) 0 0).any (fun x => !portEnded x 0)) = true ∧
    stagedIn (atSvc 0 0 0 0 [] []) 0 0 = none ∧
    ((atService (atSvc 1 0 0 0 [(0, { buf0 with taken := true })] []) 0 1).any (fun x =>
      (heldIn (atSvc 1 0 0 0 [(0, { buf0 with taken := true })] []) 0 x.vert 0).isSome && (entryCycle x).isNone &&
      ((inEdge? x.plan x.vid 0).bind (fun e => cycleOf x.plan e.1)).isNone &&
      (heldIn (atSvc 1 4 0 0 [(0, { buf0 with taken := true })] []) 0 x.vert 4).isNone)) = true ∧
    ((atService (atSvc 2 0 0 0 [] [(0, 0)]) 0 2).any (fun x => hcNout x.vert.cfg == 1 && x.vert.nout == 1)) = true ∧
    (atService (atSvc 2 0 0 0 [] []) 0 2).isSome = true := by decide +kernel

theorem test_take : xAfter (.take 0) (atSvc 0 0 0 0 [(0, buf0)] []) 11 = BitVec.ofNat 64 tile0.length ∧
    (hregs (run (.take 0) (atSvc 0 0 0 0 [(0, buf0)] [])) 0).smode = false := by decide +kernel
theorem test_take_no_port : (job? (run (.take 0) (atSvc 0 1 0 0 [] [])) 9).map (·.failed) = some (some (0x0901, 1)) := by
  decide +kernel

/-- A tile stands in the output buffer at 1024. -/
def atPublish (b : Word) (tile : Bytes) : State :=
  let s := atSvc 3 1024 b 0x800 [(0, { buf0 with taken := true, seq := mkSeq 0 3 1 0 })] [(0, 0)]
  modHound s 0 (fun y => { y with spad := y.spad.write 1024 tile })

/-- houndOutputServices: PUBLISH each way, then SKIP, DONE and FAIL. -/
theorem witness_houndOutputServices :
    ((atService (atPublish 0 tile0) 0 3).any (fun x => boundOut (atPublish 0 tile0) 0 x.vert 1024 == some (0, 0) &&
      (boundOut (atPublish 0 tile0) 0 x.vert 0).isNone)) = true ∧
    ((atService (atPublish 8 tile0) 0 3).any (fun x => (heldIn (atPublish 8 tile0) 0 x.vert 8).isNone)) = true ∧
    hcOutSize vertHound.cfg = 1024 ∧ tileTotal tile0 ≤ 1024 ∧
    ((atService (atSvc 4 0 0 0 [(0, { buf0 with taken := true })] []) 0 4).any (fun x =>
      (heldIn (atSvc 4 0 0 0 [(0, { buf0 with taken := true })] []) 0 x.vert 0).isSome && 0 < x.vert.nout &&
      (heldIn (atSvc 4 0 0 0 [] []) 0 x.vert 0).isNone && x.vert.nout ≤ 1)) = true ∧
    (atService (atSvc 5 0 0 0 [] []) 0 5).isSome = true ∧
    ((atService (atSvc 6 9 0 0 [] []) 0 6).any (fun x => vxLive x)) = true := by decide +kernel

theorem test_done : (hound (run (.done 0) (atSvc 5 0 0 0 [] [])) 0).past = [9] := by decide +kernel
theorem test_fail : (job? (run (.fail 0) (atSvc 6 9 0 0 [] [])) 9).map (·.failed) = some (some (0x0903, 1)) := by
  decide +kernel
theorem test_skip_forwards : ((job? (run (.skip 0) (atSvc 4 0 0 0 [(0, { buf0 with taken := true })] [])) 9).bind
    (fun b => b.edges[1]?)).map (·.queues) = some [[.skip (mkSeq 0 3 1 0)]] := by decide +kernel

end Sys2Proof.Tests
end

