-- ==== Sys2Proof/Tests/Streams.lean ====
section
/-! SUPPORT. Tests and witnesses for Scent, compression, digests, queues, kennels and table spaces. -/

set_option Elab.async false

namespace Sys2Proof.Tests

open Sys2Proof Sys2Proof.Machine Sys2Proof.Claims

/-! ### Queues -/

def q0 : QueueRef := { k := 0, w := 0 }
def c1 : CqRef := { k := 0, c := 1 }

/-- WQ 0 of kennel 0 has 64 units, of which `n` are filled. -/
def wqRing (n : Nat) : Wq := { ring := 4096, shadow := 64, log2 := 6, cq := 1, pi := n }
def ringing (n : Nat) (q : Wq) : State :=
  withRegs { up with kennels := [(0, { kennel0 with wqs := [(0, { q with pi := n })], cqs := [(1, cq8)] })] }
    [(0xF0000, 2 ^ 63)]

/-- An entry with TAG 7 and no flag. -/
def entryOf (opc len : Nat) (b : Bytes) : Bytes := toLe 1 opc ++ toLe 1 len ++ zeros 2 ++ toLe 2 7 ++ zeros 10 ++ b

/-- What `headEntry` asks, as one Boolean. -/
def atHead (s : State) (q : Wq) (e : Bytes) : Bool :=
  wq? s 0 0 == some q && q.push.isNone && fetchable s 0 q && q.waits == 0 && fetchTurn s == some (0, 0) &&
  e.length == 16 * (le e 1 1 + 1) && q.ci % wqUnits q + le e 1 1 + 1 ≤ wqUnits q && le e 1 1 + 1 ≤ wqLeft q &&
  le e 2 2 < 4 && zeroes e 6 10 && (!bitAt (le e 2 2) 0 || q.inflight.isEmpty)

theorem head_of {s : State} {q : Wq} {e : Bytes} (h : atHead s q e = true) : headEntry s q0 q e := by
  simp [atHead] at h
  simp only [headEntry, q0]
  obtain ⟨⟨⟨⟨⟨⟨⟨⟨⟨⟨a, b⟩, c⟩, d⟩, f⟩, g⟩, i⟩, j⟩, k⟩, l⟩, m⟩ := h
  refine ⟨a, b, c, d, f, g, i, j, k, l, fun n => ?_⟩
  rcases m with m | m
  · simp [m] at n
  · exact m

theorem room_of {s : State} {k c : Nat} {q : Cq} (h : (cq? s k c == some q && ((kennel? s k).any (·.ovf.isEmpty)) && hostUp s &&
    !devErr s && cqUsed q != cqSize q) = true) : cqRoom s k c q := by
  simp only [Bool.and_eq_true, beq_iff_eq, Bool.not_eq_true', bne_iff_ne] at h
  obtain ⟨⟨⟨⟨a, b⟩, c⟩, d⟩, e⟩ := h
  refine ⟨a, ?_, c, d, e⟩
  cases hk : kennel? s k with
  | none => simp [hk] at b
  | some x => exact ⟨x, rfl, by simpa [hk] using b⟩

theorem witness_room : cqRoom (ringing 64 (wqRing 0)) 0 1 cq8 := room_of (by decide +kernel)

/-- fetchCommands: NOP, an OPC that no command has, a LEN beyond the ring and beyond PI, at the
last unit of the ring. -/
theorem witness_fetch : headEntry (ringing 64 (wqRing 0)) q0 (wqRing 64) (entryOf 1 0 []) ∧
    headEntry (ringing 64 (wqRing 0)) q0 (wqRing 64) (entryOf 0xFF 1 (zeros 16)) ∧
    (let q := { wqRing 65 with ci := 63 }
     fetchable (ringing 65 q) 0 q = true ∧ fetchTurn (ringing 65 q) = some (0, 0) ∧
     wqUnits q < q.ci % wqUnits q + 1 + 1 ∧ ¬ wqUnits q < q.ci % wqUnits q + 0 + 1 ∧ ¬ wqLeft q < 0 + 1) ∧ freshSeq (wqRing 64) :=
  ⟨head_of (by decide +kernel), head_of (by decide +kernel), by decide +kernel, by simp [freshSeq, wqRing]⟩

theorem test_nop_completes : (run (.nop q0 (entryOf 1 0 [])) (ringing 64 (wqRing 0))).out =
    [.hostWrite 5 8192 (toLe 2 7 ++ [0, 0, 1, 0, 0xFF, 0xFF] ++ zeros 16 ++ zeros 7 ++ [1]), .hostWrite 5 128 (toLe 4 1)] := by
  decide +kernel

/-- A JOB_START with one range of space 5 for the source and a host buffer of one page. -/
def startEntry : Bytes :=
  entryOf 0x20 4 (toLe 2 1 ++ zeros 6 ++ toLe 8 65536 ++ toLe 4 1 ++ toLe 2 1 ++ zeros 10 ++
    (toLe 2 0 ++ toLe 2 5 ++ zeros 4 ++ toLe 8 0 ++ toLe 8 256) ++ zeros 8)
def startable : State := { ringing 64 (wqRing 0) with store := { up.store with spaces := [(5, space5)] } }
theorem witness_jobStart_ok : headEntry startable q0 (wqRing 64) startEntry ∧ jobFault startable 0 startEntry = none ∧
    jobSlotFree startable 0 0 1 = true := ⟨head_of (by decide +kernel), by decide +kernel, by decide +kernel⟩
theorem test_job_starts : (run (.jobStart q0 startEntry) startable).nextJob = 11 := by decide +kernel

/-- jobStarts: a plan that is there with a slot free, one that is not, and no slot. -/
theorem witness_jobStart : headEntry (ringing 64 (wqRing 0)) q0 (wqRing 64) (entryOf 0x20 3 (toLe 2 1 ++ zeros 46)) ∧
    (let s := ringing 64 (wqRing 0)
     let e := entryOf 0x20 3 (toLe 2 1 ++ zeros 46)
     jobSlotFree s 0 0 (jePlan e) = true ∧ (plan? s 0 (jePlan e)).isSome = true ∧
     (∀ v ∈ plan0.verts, v.kind ≠ kExch) ∧ plan? s 0 (jePlan (entryOf 0x20 3 (toLe 2 2 ++ zeros 46))) = none ∧
     jobSlotFree (modKennel s 0 (fun x => { x with share := zeros 64 })) 0 0 1 = false) ∧ up.nextJob = 10 :=
  ⟨head_of (by decide +kernel), by decide +kernel, by decide⟩

/-- doorbellCommands: a doorbell, a push with and without its 64 bytes, a shadow at the edge of the
ring, and a CI that must go back. -/
theorem witness_doorbells : (let s := ringing 0 (wqRing 0); barOpen s = true ∧ doorsOpen s 0 = true ∧ hostFor s 0 = true ∧
      wq? s 0 0 = some (wqRing 0)) ∧
    (let d : Bytes := toLe 4 4 ++ [1] ++ zeros 59; d.length = 64 ∧ bitAt (le d 4 1) 0 = true ∧
      (le d 0 4 + 2 ^ 32 - 0) % 2 ^ 32 ≤ wqUnits (wqRing 0)) ∧
    (64 : BitVec 32).toNat ≤ wqUnits (wqRing 0) ∧ wqUnits (wqRing 0) < (65 : BitVec 32).toNat ∧
    (wq? (ringing 0 { wqRing 0 with reading := true, ciDirty := true }) 0 0).any (fun q => q.reading && q.ciDirty) = true := by
  decide +kernel

theorem test_push : (wq? (run (.pushDoorbell q0 (toLe 4 4 ++ [1] ++ zeros 59) true) (ringing 0 (wqRing 0))) 0 0).map
    (fun q => (q.pi, q.push)) = some (4, some (0, zeros 56)) := by decide +kernel
theorem test_bad_pi : (wq? (run (.wqShadowRead q0 (some 65)) (ringing 0 { wqRing 0 with reading := true })) 0 0).map (·.stopped) =
    some true := by decide +kernel

/-- completionCommands: the CQ of 4 entries is full, then read up to each edge; a buffered
completion; moderation. -/
def compl0 : Compl := { cq := 1, wq := 0, seq := 0, bytes := zeros 31, solicit := false, retires := false, job := none }
def fullCq (q : Cq) (l : List Compl) : State :=
  withRegs { up with kennels := [(0, { kennel0 with cqs := [(1, q)], ovf := l })] } [(0xF0000, 2 ^ 63)]

theorem witness_completions : hostFor (fullCq { cq8 with tail := 4 } [compl0]) 0 = true ∧
    cqUsed { cq8 with tail := 4 } = cqSize cq8 ∧ (4 + 2 ^ 32 - (0 : BitVec 32).toNat) % 2 ^ 32 ≤ cqSize cq8 ∧
    cqSize cq8 < (4 + 2 ^ 32 - (4294967295 : BitVec 32).toNat) % 2 ^ 32 ∧
    cqUsed cq8 ≠ cqSize cq8 ∧ compl0.cq = 1 ∧ devErr (fullCq cq8 [compl0]) = false ∧
    (cq? (fullCq { cq8 with timer := true, pend := 1, irq := true } []) 0 1).any (·.timer) = true := by decide +kernel

theorem test_drain : (run (.cqOverflowDrain c1) (fullCq cq8 [compl0])).out.length = 2 := by decide +kernel

/-! ### Queue messages -/

def wqBody (w cq : Nat) : Bytes := toLe 8 4096 ++ toLe 8 64 ++ [6] ++ toLe 1 w ++ toLe 1 cq ++ zeros 13
def cqBody (c vec : Nat) : Bytes := toLe 8 8192 ++ toLe 8 128 ++ [6] ++ toLe 1 c ++ [1, 0] ++ toLe 2 0 ++ toLe 2 vec ++ zeros 8
def two : State := ringing 0 (wqRing 0)

theorem witness_queueMessages :
    (∀ b ∈ [wqBody 1 1, wqBody 0 1, wqBody 1 2, zeros 32], served two (dmpMsg .mb0 0x0200 (msg b))) ∧
    (wqFieldsOk (wqBody 1 1) = true ∧ wqFieldsOk (zeros 32) = false ∧ wq? two 0 1 = none ∧ (cq? two 0 1).isSome = true) ∧
    served two (dmpMsg .mb0 0x0201 (msg (toLe 8 0))) ∧
    (∀ b ∈ [cqBody 2 257, cqBody 1 257, zeros 32], served two (dmpMsg .mb0 0x0202 (msg b))) ∧
    (cqFieldsOk (cqBody 2 257) = true ∧ vecBase share0 ≤ 257 ∧ 257 < vecBase share0 + vecCount share0) ∧
    served two (dmpMsg .mb0 0x0203 (msg (toLe 8 1))) ∧ served (fullCq cq8 []) (dmpMsg .mb0 0x0203 (msg (toLe 8 1))) := by
  refine ⟨?_, by decide +kernel, served_when (by decide +kernel), ?_, by decide +kernel, served_when (by decide +kernel),
    served_when (by decide +kernel)⟩
  · intro b hb
    simp only [List.mem_cons, List.not_mem_nil, or_false] at hb
    rcases hb with rfl | rfl | rfl | rfl <;> exact served_when (by decide +kernel)
  · intro b hb
    simp only [List.mem_cons, List.not_mem_nil, or_false] at hb
    rcases hb with rfl | rfl | rfl <;> exact served_when (by decide +kernel)

theorem test_wq_create : wq? (run (.wqCreate .mb0 (msg (wqBody 1 1))) two) 0 1 =
    some { ring := 4096, shadow := 64, log2 := 6, cq := 1 } := by decide +kernel

/-- queueResets: an idle WQ, one with a job in flight, one with a table-store command. -/
theorem witness_queueReset : served two (dmpMsg .mb0 0x0204 (msg (toLe 8 1))) ∧
    served two (dmpMsg .mb0 0x0204 (msg (toLe 8 2))) ∧ zeroes (toLe 8 1) 2 6 = true ∧ wq? two 0 1 = none ∧
    (let s := queuedJob job0; s.dge.cmds = [] ∧ (∃ v ∈ job0.verts, v.stopped = false) ∧ wq? s 0 0 = some wq3 ∧
      wq3.pi = wq3.ci ∧ s.store.cmds = []) ∧
    (let n : QReset := { discarded := 1, abandoned := 0, finished := 0, waitFor := [] }
     let s := ringing 0 { wqRing 0 with reset := some n }
     (wq? s 0 0).any (fun q => q.reset == some n) = true ∧ fatal s = false) :=
  ⟨served_when (by decide +kernel), served_when (by decide +kernel), by decide +kernel, by decide +kernel, by decide +kernel,
    by decide +kernel⟩

/-- A reset that waits for nothing completes: a reply is due, or none is. -/
def resetting (l : List QReply) : State :=
  let n : QReset := { discarded := 1, abandoned := 0, finished := 0, waitFor := [] }
  let s := ringing 0 { wqRing 0 with reset := some n }
  modKennel s 0 (fun x => { x with qreplies := l })
theorem witness_queueResetComplete : ∀ l ∈ [[], [{ mailbox := 256, left := [0] }]],
    (kennel? (resetting l) 0).any (fun x => x.state != 3 && x.qreplies == l) = true ∧
    (wq? (resetting l) 0 0).any (fun q => q.reset.any (·.waitFor.isEmpty)) = true := by decide +kernel
theorem witness_queueResetComplete_room : ∀ l ∈ [[], [{ mailbox := 256, left := [0] }]], cqRoom (resetting l) 0 1 cq8 := by
  intro l hl
  simp only [List.mem_cons, List.not_mem_nil, or_false] at hl
  rcases hl with rfl | rfl <;> exact room_of (by decide +kernel)

/-- cqReset: a CQ that resets, with the host there and in D3hot. -/
theorem witness_cqReset : let s := fullCq { cq8 with resetting := true } []
    (cq? s 0 1).any (·.resetting) = true ∧ (kennel? s 0).any (fun x => x.wqs.isEmpty && (x.ovf ++ x.stalled).isEmpty) = true ∧
    hostFor s 0 = true ∧ hostFor { s with pins := { s.pins with d3 := true } } 0 = false := by decide +kernel

/-! ### Scent -/

/-- One key field, column 1 in 64 bits, and one mask that takes all of it; matches go to column 9. -/
def scentCfg : Bytes := [1, 1, 1, 0] ++ toLe 2 0xFFFF ++ toLe 2 9 ++ toLe 2 0xFFFF ++ [1] ++ zeros 53 ++
  toLe 2 1 ++ [8, 0, 0] ++ zeros 3 ++ toLe 8 0xFFFFFFFFFFFFFFFF ++ zeros 8
def bank0 : ScentBank := { owner := some (0, 1, 1, 0), matchArr := [(7, (6, true))], verify := [(7, (6, true))] }
def scentV : Vertex := { engVert 0x06 1 scentCfg with units := [0] }
def scentOn (q : List EItem) : State := { onEng (.fe 0) scentV {} q [] with scent := [(0, bank0)] }

theorem witness_scent : (liveVx (scentOn [.tile 1 tile0]) { job := 9, vid := 1 }).any (fun x => x.vert.kind == kScent &&
      x.st.outq.isEmpty && headTile x 0 == some tile0 &&
      (match readTile up x tile0 with
       | .ok p =>
         (match scentRows x.vert.cfg p with
          | .ok rows => let r := rows.foldl (scentRow false (fun _ => [])) { banks := [bank0], counts := [noScentCounts], next := 0 }
                        !r.ue && done (scentEmit x.vert.cfg p r.results)
          | .error _ => false)
       | .error _ => false)) = true ∧
    (liveVx (scentOn [.skip 3]) { job := 9, vid := 1 }).any (fun x => headSkip x 0 == some 3) = true ∧
    bank0.matchArr = bank0.verify ∧ (bank0.verify.map (·.1)).Nodup := by decide +kernel

theorem test_scent_search : (scentBankSearch 6 0xFF [] bank0).rows = [7] ∧ (scentBankSearch 5 0xFF [] bank0).rows = [] := by
  decide +kernel
theorem test_scent_patrol_clears :
    scentBank (run (.scentPatrol 0 .uncorrectable) { scentOn [] with scent := [(0, { bank0 with patrol := 7 })] }) 0 = { bank0 with matchArr := [(7, (6, false))], verify := [(7, (6, false))], patrol := 8, patrolled := true } := by decide +kernel

/-- The vertex of plan 1 takes loads from host memory and invalidations; vertex 0 is no target. -/
def scnEntry (opc len vid count : Nat) : Bytes :=
  entryOf opc len (toLe 2 1 ++ toLe 2 vid ++ zeros 4 ++ toLe 4 0 ++ toLe 4 count ++ zeros (16 * len - 16))
def loading : State :=
  withRegs { ringing 64 (wqRing 0) with
    kennels := [(0, { kennel0 with wqs := [(0, wqRing 64)], cqs := [(1, cq8)], plans := [(1, engPlan scentV)] })]
    scent := [(0, bank0)] } []

theorem witness_scnLoad : headEntry loading q0 (wqRing 64) (scnEntry 0x28 2 1 3) ∧
    headEntry loading q0 (wqRing 64) (scnEntry 0x29 1 1 3) ∧ cqRoom loading 0 1 cq8 ∧
    (scnFault loading 0 0x28 (scnEntry 0x28 2 1 3) = none ∧ scnFault loading 0 0x29 (scnEntry 0x29 1 1 3) = none ∧
     (scnFault loading 0 0x28 (scnEntry 0x28 2 0 3)).isSome = true ∧ scnTarget loading 0 (scnEntry 0x28 2 1 3) = some scentV ∧
     seCount (scnEntry 0x28 2 1 3) = 3 ∧ scentV.units.Nodup ∧ scentReplica scentCfg = false) :=
  ⟨head_of (by decide +kernel), head_of (by decide +kernel), room_of (by decide +kernel), by decide +kernel⟩

/-! ### Compression -/

/-- Streams with a window of 64 KiB and blocks of 4 KiB, whole tiles on one side and bytes in column 3 on
the other. -/
def czeCfg (dir flags : Nat) : Bytes := [1, BitVec.ofNat 8 dir, 1, 16, BitVec.ofNat 8 flags, 12] ++ toLe 2 3 ++ toLe 4 5 ++
  toLe 2 5 ++ zeros 50
def czeOn (dir flags : Nat) (st : CzeSt) (fin : Bool) (q : List EItem) : State :=
  { onEng (.cze 0) (engVert 0x07 1 (czeCfg dir flags)) { eng := .cze st, finished := fin } q [] with
    store := { up.store with spaces := [(5, space5)] } }
/-- The stream of no bytes: a header, and an END block. -/
def noStream : Bytes := streamHeader 16 0 1 5
def streamTile : Bytes := byteTile 8 0 (mkSeq 0 3 1 0) 0 3 2 noStream

theorem witness_compress :
    (servedCze (czeOn 0 0 {} false [.tile 1 tile0]) 0 0).any (fun x => headTile x 0 == some tile0 && czeClass x.vert.cfg == 0 &&
      (match readTile up x tile0 with
       | .ok p => done (czeInput x.vert.cfg p tile0)
       | .error _ => false)) = true ∧
    (servedCze (czeOn 0 0 {} false [.skip 3]) 0 0).any (fun x => headSkip x 0 == some 3) = true ∧
    (servedCze (czeOn 1 0 {} false [.skip 3]) 0 1).any (fun x => headSkip x 0 == some 3) = true ∧
    (servedCze (czeOn 1 0 {} false [.tile 1 streamTile]) 0 1).any (fun x =>
      (match readTile up x streamTile with
       | .ok p => done (byteStrip (czeCol x.vert.cfg) 2 p)
       | .error _ => false)) = true := by decide +kernel

/-- A skip mark behind a held output; an input tile behind one, whose stream bytes are some. -/
theorem witness_compress_held :
    (servedCze (czeOn 0 0 { held := some ([1], 0, 0) } false [.skip 3]) 0 0).any (fun x => headSkip x 0 == some 3 &&
      (czeOf x.st).held.isSome) = true ∧
    (∀ held ∈ [none, some ([1], 0, 0)], (servedCze (czeOn 0 0 { isOpen := true, held } false [.tile 1 tile0]) 0 0).any (fun x =>
      headTile x 0 == some tile0 && (czeOf x.st).held == held) = true) ∧
    16 ≤ (streamHeader 16 0 1 5).length ∧ (blockBytes 3 1 (toLe 8 0 ++ toLe 8 0)).isEmpty = false := by decide +kernel

theorem witness_czeEnds :
    (liveCze (czeOn 1 0 { isOpen := true } false [.endMark]) { job := 9, vid := 1 }).any (fun x => portEnded x 0 && !x.st.finished &&
      x.st.outq.isEmpty && !(czeRestore x.vert.cfg && !(czeOf x.st).restored) && (czeOf x.st).isOpen) = true ∧
    (liveCze (czeOn 0 4 { held := some ([1], 0, 0) } false [.endMark]) { job := 9, vid := 1 }).any (fun x => portEnded x 0 &&
      czeSave x.vert.cfg && (czeOf x.st).held.isSome) = true ∧
    (let s := czeOn 0 12 {} false []
     (liveCze s { job := 9, vid := 1 }).any (fun x => czeRestore x.vert.cfg && !(czeOf x.st).restored &&
       (ownSpace s 0 (czeTs x.vert.cfg)) == some space5 && czeOff x.vert.cfg + czeAreaLen x.vert.cfg ≤ spaceSize space5) = true) ∧
    (let s := czeOn 0 4 {} true []
     (liveCze s { job := 9, vid := 1 }).any (fun x => czeSave x.vert.cfg && !(czeOf x.st).saved && x.st.finished &&
       inSpace s 0 (czeTs x.vert.cfg) (czeOff x.vert.cfg) (czeAreaLen x.vert.cfg)) = true) := by decide +kernel

theorem test_truncated_stream : (job? (run (.czeEndMark { job := 9, vid := 1 }) (czeOn 1 0 { isOpen := true } false [.endMark])) 9).map
    (fun b => b.failed.map (·.2)) = some (some 1) := by decide +kernel

/-! ### Digests -/

/-- MSG_ID 5 has a context of SHA-256. -/
def ctx5 : DgeCtx := { kennel := 0, user := .msg 5, alg := 1, slot := 0xFF, outlen := 32 }
def digesting (x : DgeCtx) : State := { ringing 64 (wqRing 0) with dge := { ctxs := [(0, x)] } }
def dge0 (opc : Nat) (b : Bytes) (h c : HostRead) : DgeCmd :=
  { order := up.nextOrder, kennel := 0, wq := 0, seq := 0, opc, body := b, host := h, cust := c }
def initBody (id : Nat) : Bytes := toLe 2 id ++ [1, 0xFF, 32] ++ zeros 11
def updateBody (n : Nat) : Bytes := toLe 2 5 ++ [0, 0] ++ zeros 4 ++ toLe 8 4096 ++ toLe 8 n ++ zeros 8

theorem witness_digest_heads : (∀ e ∈ [entryOf 0x30 1 (initBody 6), entryOf 0x31 2 (updateBody 4), entryOf 0x32 1 (toLe 8 5 ++ toLe 8 4096),
      entryOf 0x33 5 (toLe 2 5 ++ [0, 32] ++ zeros 76), entryOf 0x34 1 (toLe 8 5 ++ zeros 8),
      entryOf 0x35 2 ([3, 7, 0, 0] ++ zeros 2 ++ toLe 2 16 ++ zeros 24)],
      headEntry (digesting ctx5) q0 (wqRing 64) e ∧ dgeLenOk (le e 0 1) (le e 1 1) = true) ∧
    cqRoom (digesting ctx5) 0 1 cq8 ∧ unitGated (digesting ctx5) .dge = false := by
  refine ⟨?_, room_of (by decide +kernel), by decide +kernel⟩
  intro e he
  simp only [List.mem_cons, List.not_mem_nil, or_false] at he
  rcases he with rfl | rfl | rfl | rfl | rfl | rfl <;> exact ⟨head_of (by decide +kernel), by decide +kernel⟩

theorem witness_digest_commands :
    (let s := digesting ctx5
     dgeFault s (dge0 0x30 (initBody 6) none none) = none ∧ dgePoolFree s 0 = false ∧
     dgePoolFree { s with dge := {} } 0 = true ∧ (dgeFault s (dge0 0x30 (initBody 5) none none)).isSome = true ∧
     dgeFault s (dge0 0x31 (updateBody 4) (some (zeros 4)) none) = none ∧ msgCtx s 0 5 = some (0, ctx5) ∧
     ctxReady (ctxTake ctx5 none (zeros 4) false) = false ∧ ctxReady (ctxTake ctx5 none (zeros 64) false) = true) ∧
    (let s := digesting { ctx5 with state := .finished, output := zeros 32 }
     dgeFault s (dge0 0x32 (toLe 8 5 ++ toLe 8 4096) none none) = none ∧
     dgeFault s (dge0 0x33 (toLe 2 5 ++ [0, 32] ++ zeros 76) none none) = none ∧
     dgeFault s (dge0 0x34 (toLe 8 5 ++ zeros 8) none none) = none) ∧
    (let b : Bytes := [3, 7, 0, 0] ++ zeros 2 ++ toLe 2 16 ++ zeros 24
     dgeFault (digesting ctx5) (dge0 0x35 b (some (zeros 16)) (some [])) = none ∧
     (match dgeSource (digesting ctx5) 0 0 0 0 16 (some (zeros 16)) with | .ok k => k == zeros 16 | .error _ => false) = true) := by
  decide +kernel

/-- digestWork: a waiting DGE_INIT, a context with a whole block, a vertex with a tile. -/
def dgeV : Vertex := engVert 0x08 1 ([1, 1, 0xFF, 32, 0, 1] ++ toLe 2 0xFFFF ++ toLe 2 9 ++ zeros 54)
def dgeOn (q : List EItem) : State :=
  { onEng (.fe 0) dgeV {} q [] with
    dge := { ctxs := [(0, { kennel := 0, user := .vertex 1 1 0, alg := 1, slot := 0xFF, outlen := 32 })] } }

theorem witness_digestWork :
    (let s := { up with dge := { cmds := [dge0 0x30 (initBody 6) none none] } }
     (dgeNextInit s).any (fun c => c.1 == 0) = true ∧ freeCtx s = some 0) ∧
    (let s := digesting (ctxTake ctx5 none (zeros 64) false)
     s.dge.pipeArb.pick (arbAge s) (pipeReady s) = some 0 ∧ (tfind? s.dge.ctxs 0).isSome = true) ∧
    (let s := dgeOn [.tile 1 tile0]
     (liveVx s { job := 9, vid := 1 }).any (fun x => x.vert.kind == kDge && x.st.outq.isEmpty && headTile x 0 == some tile0 &&
       (match readTile s x tile0 with
        | .ok p => done (digestInput x.vert.cfg p tile0) && digestKeyed s x && !dvJob x.vert.cfg && (idleCtx s x).isSome
        | .error _ => false)) = true) ∧
    (liveVx (dgeOn [.skip 3]) { job := 9, vid := 1 }).any (fun x => headSkip x 0 == some 3) = true := by decide +kernel

/-- SHA-256 of "abc" (FIPS 180-4's own example). -/
theorem test_sha256 : (ctxBlock (ctxTake ctx5 none [0x61, 0x62, 0x63] true) none).output.take 4 = [0xBA, 0x78, 0x16, 0xBF] := by
  decide +kernel

end Sys2Proof.Tests
end

