-- ==== Sys2Proof/Tests/Links.lean ====
section
/-! SUPPORT. Tests and witnesses for kennels, table spaces and the Leash, and for the block as a whole. -/

set_option Elab.async false

namespace Sys2Proof.Tests

open Sys2Proof Sys2Proof.Machine Sys2Proof.Claims

/-! ### Kennels -/

/-- Shares that freeze a kennel, without DRAM and with 8 granules, and a DMP body of KENNEL_CREATE for kennel `k`. -/
def frozen : Bytes := [1] ++ zeros 63
def roomy : Bytes := [1] ++ zeros 39 ++ toLe 4 8 ++ zeros 20
def createBody (k flags pasid : Nat) (sh : Bytes) : Bytes := toLe 1 k ++ toLe 1 flags ++ zeros 2 ++ toLe 4 pasid ++ sh
/-- Kennel 3 exists and holds nothing; kennel 4 has a work queue; an orphan of kennel 2 is left. -/
def few : State :=
  withRegs { up with
    kennels := [(0, kennel0), (3, { pasid := 6, share := frozen }), (4, { pasid := 8, share := frozen, wqs := [(0, wqRing 0)] })]
    store := { up.store with spaces := [(5, { space5 with owner := none, former := 2, pasid := 9 })] } }
    [(0xF0018, 2 ^ 63 + 6), (0xF0020, 2 ^ 63 + 8)]

theorem witness_kennels :
    (∀ b ∈ [createBody 2 1 9 roomy, createBody 2 0 9 frozen, createBody 0 0 9 frozen, createBody 3 0 9 frozen, createBody 2 0 6 frozen],
      served few (dmpMsg .mb0 0x0100 (msg b))) ∧
    createFault few (createBody 2 1 9 roomy) = none ∧ createFault few (createBody 2 0 9 frozen) = none ∧
    createFault few (createBody 3 0 9 frozen) = some 0x0D02 ∧ createFault few (createBody 2 0 6 frozen) = some 0x0D03 ∧
    (∀ k ∈ [0, 2, 3, 4], served few (dmpMsg .mb0 0x0101 (msg (toLe 8 k)))) ∧
    (kennelHolds few 3 { pasid := 6, share := frozen } = false ∧
      kennelHolds few 4 { pasid := 8, share := frozen, wqs := [(0, wqRing 0)] } = true ∧ kennel? few 2 = none) := by
  refine ⟨?_, by decide +kernel, by decide +kernel, by decide +kernel, by decide +kernel, ?_, by decide +kernel⟩
  · intro b hb
    simp only [List.mem_cons, List.not_mem_nil, or_false] at hb
    rcases hb with rfl | rfl | rfl | rfl | rfl <;> exact served_when (by decide +kernel)
  · intro k hk
    simp only [List.mem_cons, List.not_mem_nil, or_false] at hk
    rcases hk with rfl | rfl | rfl | rfl <;> exact served_when (by decide +kernel)

/-- Shares: one that fits, one of 17 Hounds in a pack, one that K0's plan does not fit. -/
theorem witness_shares :
    (∀ k ∈ [0, 2, 3], served few (dmpMsg .mb0 0x0102 (msg (toLe 8 k ++ frozen))) ∧ served few (dmpMsg .mb0 0x0104 (msg (toLe 8 k)))) ∧
    shareFieldsOk frozen = true ∧ (kennel? few 3).any (fun x => shareFits (otherShares few 3) frozen && shareCovers few 3 x frozen) = true ∧
    (kennel? few 0).any (fun x => shareFits (otherShares few 0) frozen && !shareCovers few 0 x frozen) = true ∧
    (let sh := [1, 0, 0x10] ++ zeros 61
     shareFieldsOk sh = true ∧ shareFits (otherShares few 3) sh = false) := by
  refine ⟨?_, by decide +kernel, by decide +kernel, by decide +kernel, by decide +kernel⟩
  intro k hk
  simp only [List.mem_cons, List.not_mem_nil, or_false] at hk
  rcases hk with rfl | rfl | rfl <;> exact ⟨served_when (by decide +kernel), served_when (by decide +kernel)⟩

/-- maskTaken: a share of one engine way, while an engine port has a miss in flight and while none has. -/
def wayShare : Bytes := [1] ++ zeros 15 ++ toLe 2 1 ++ zeros 46
def missing : State :=
  { few with shc := { few.shc with misses := [(0, { kennel := 3, line := 5, op := .read, way := none })] } }
theorem witness_maskTaken : served missing (dmpMsg .mb0 0x0102 (msg (toLe 8 3 ++ wayShare))) ∧
    (shHoundWays wayShare * 2 ^ 16 + shEngineWays wayShare = 1 ∧ shareFieldsOk wayShare = true ∧
     (kennel? missing 3).any (fun x => shareFits (otherShares missing 3) wayShare && shareCovers missing 3 x wayShare) = true ∧
     0 ∈ maskPorts missing 3 1 ∧ tfind? missing.shc.misses 0 ≠ none ∧ bitAt (portCfg missing 0) 63 = false ∧
     missing.shc.kmasks = [] ∧ ∀ p ∈ maskPorts few 3 1, tfind? few.shc.misses p = none) :=
  ⟨served_when (by decide +kernel), by decide +kernel⟩

theorem test_adopts : ((space? (run (.kennelCreate .mb0 (msg (createBody 2 1 9 roomy))) few) 5).map (·.owner),
    regVal (run (.kennelCreate .mb0 (msg (createBody 2 1 9 roomy))) few) 0xF0010) = (some (some 2), 2 ^ 63 + 9) := by decide +kernel
theorem test_destroy_busy : ((tget (run (.kennelDestroy .mb0 (msg (toLe 8 4))) few).windows 256 []).drop 8).take 2 = [6, 0xD] := by
  decide +kernel

/-- Kennel 3 drains: one vertex of an abandoned job has stopped, another has not. -/
def draining (stopped : Bool) : State :=
  { few with
    kennels := [(0, kennel0), (3, { pasid := 6, share := frozen, state := 3, resetReply := some 256 })]
    jobs := [(8, { job0 with kennel := 3, abandoned := true, verts := [{ stopped := true }, { stopped }] })] }

theorem witness_kennelReset : served few (dmpMsg .mb0 0x0103 (msg (toLe 8 4))) ∧ served (draining true) (dmpMsg (.kn 0) 0x0103 (msg (toLe 8 0))) ∧
    (kennel? few 4).any (fun x => x.state != 3) = true ∧
    (drainCount (draining true) 3 = 0 ∧ drainCount (draining false) 3 = 1 ∧ devErr (draining false) = false ∧
     fatal (draining false) = false ∧ (kennel? (draining true) 3).any (fun x => x.state == 3) = true) :=
  ⟨served_when (by decide +kernel), served_when (by decide +kernel), by decide +kernel, by decide +kernel⟩

theorem test_reset_done : (kennel? (run (.kennelResetDone 3) (draining true)) 3).map (·.state) = some 1 ∧
    evtPending (run (.kennelResetDone 3) (draining true)) 259 = true := by decide +kernel

/-! ### Table spaces -/

/-- A table-store entry on space `sp`: two units of operands. -/
def tsEntryB (opc sp off len : Nat) : Bytes :=
  if opc = 0x12 then entryOf opc 1 (toLe 2 sp ++ zeros 14) else entryOf opc 2 (toLe 2 sp ++ zeros 6 ++ toLe 8 off ++ toLe 8 len ++ toLe 8 65536)
def lockCmd (n : Nat) : TsCmd :=
  { order := n, kennel := 0, wq := 0, seq := 9, opc := 0x11, space := 5, off := 0, len := 64, arg := 0, waits := [] }

theorem witness_tableEntries : (∀ opc ∈ [0x10, 0x11, 0x12, 0x13], headEntry startable q0 (wqRing 64) (tsEntryB opc 5 64 4096) ∧
      tsFault startable 0 opc (tsEntryB opc 5 64 4096) = none ∧
      (tsFault startable 0 opc (tsEntryB opc 6 64 4096)).isSome = true) ∧
    (lockFree startable 0 = true ∧ startable.store.cmds = []) ∧
    (let s := withRegs { startable with store := { startable.store with cmds := (List.range 4).map lockCmd } } []
     poolUsed s ≤ poolSize s) ∧
    (tsFault startable 0 0x10 (tsEntryB 0x10 5 (2097152 - 4096) 4096) = none ∧
     tsFault startable 0 0x10 (tsEntryB 0x10 5 (2097152 - 4096) 4097) = some 0x0E03) := by
  refine ⟨?_, by decide +kernel, by decide +kernel, by decide +kernel⟩
  intro opc ho
  simp only [List.mem_cons, List.not_mem_nil, or_false] at ho
  rcases ho with rfl | rfl | rfl | rfl <;> exact ⟨head_of (by decide +kernel), by decide +kernel, by decide +kernel⟩

/-- An accepted command, and one that has issued with its last piece, or two pieces, to go. -/
def moving (opc : Nat) (issued : Bool) (ps : List (Nat × Nat)) : State :=
  let c : TsCmd := { order := 7, kennel := 0, wq := 0, seq := 3, opc, space := 5, off := 0, len := 8, arg := 65536, waits := [],
                     issued, pieces := ps }
  let f : Inflight := { seq := 3, opc, tag := 2, solicit := false, work := .ts 7, space := some 5 }
  { ringing 0 { wqRing 0 with inflight := [f] } with store := { up.store with spaces := [(5, space5)], cmds := [c] } }

/-- The clocks of all movers are off. -/
def allMoversOff : PowerSt := { up.power with gated := (List.range 16).map (fun n => .mv (Fin.ofNat 16 n)) }

theorem witness_tableTransfers : (∀ opc ∈ [0x10, 0x11, 0x13],
      (tsCmd? (moving opc false []) 7).any (tsIssuable (moving opc false [])) = true ∧
      (tsCmd? (moving opc true [(0, 8)]) 7).any (fun c => c.issued && c.pieces == [(0, 8)] && c.status == 0) = true) ∧
    space? (moving 0x10 true [(0, 4), (4, 4)]) 5 = some space5 ∧ hostUp (moving 0x10 true [(0, 8)]) = true ∧
    tsPoison (moving 0x10 true [(0, 8)]) space5 2 0 8 = none ∧
    (wq? (moving 0x10 true [(0, 8)]) 0 0).any (fun q => (q.inflight.find? (·.seq == 3)).isSome) = true ∧
    moverUp (moving 0x10 true [(0, 8)]) = true ∧ moverUp { moving 0x10 true [(0, 8)] with power := allMoversOff } = false ∧
    (up.shc.lines.map (·.2.line)).Nodup ∧ (∀ e ∈ up.shc.ebuf, shcFind up e.line = none) ∧
    up.dram.mem.wf = true ∧ up.dram.lost = 0 ∧ space5.granules.Nodup ∧ 0 + (zeros 8).length ≤ spaceSize space5 := by decide +kernel

theorem witness_tableTransfers_room : cqRoom (moving 0x10 true [(0, 8)]) 0 1 cq8 := room_of (by decide +kernel)

theorem test_ts_write : (dramLine (run (.tsPieceComplete 7 0 (some [1, 2, 3, 4, 5, 6, 7, 8])) (moving 0x11 true [(0, 8)])) 98304).1 =
    0x0807060504030201 := by decide +kernel
theorem test_ts_read : (run (.tsPieceComplete 7 0 none) (moving 0x10 true [(0, 8)])).out.head? = some (.hostWrite 5 65536 (zeros 8)) := by
  decide +kernel

/-- tableMessages: a create that fits in 64 MiB, one that does not; an owned space and one in flight. -/
def small : State := { smallUp with store := { up.store with spaces := [(0, space5)] } }
theorem witness_tableMessages :
    (∀ n ∈ [0, 1, 64], served small (dmpMsg .mb0 0x0500 (msg (toLe 8 n)))) ∧
    (small.store.spaces.length + small.store.creating.length < 4096 ∧ spacesOf small 0 < 256 ∧ spaceTaken small 0 = true ∧
      spaceTaken small 1 = false ∧ (granulesFree small 0).length = 31 ∧ kennelGranules small 0 + 1 ≤ granuleLimit share0) ∧
    (∀ op ∈ [0x0501, 0x0502], ∀ n ∈ [0, 9], served small (dmpMsg .mb0 op (msg (toLe 8 n)))) ∧
    ((reachedSpace small (dmpMsg .mb0 0x0501 (msg (zeros 8))) 0).isSome = true ∧
      reachedSpace small (dmpMsg .mb0 0x0501 (msg (zeros 8))) 9 = none ∧ spaceBusy small 0 0 = false ∧
      spaceBusy (moving 0x10 true [(0, 8)]) 0 5 = true) := by
  refine ⟨?_, by decide +kernel, ?_, by decide +kernel⟩
  · intro n hn
    simp only [List.mem_cons, List.not_mem_nil, or_false] at hn
    rcases hn with rfl | rfl | rfl <;> exact served_when (by decide +kernel)
  · intro op ho n hn
    simp only [List.mem_cons, List.not_mem_nil, or_false] at ho hn
    rcases ho with rfl | rfl <;> rcases hn with rfl | rfl <;> exact served_when (by decide +kernel)

def making : State :=
  { small with store := { small.store with creating := [(256, { space := 1, body := { space5 with granules := [0] } })] } }
theorem witness_tsZeroDone : mbKennel 256 = 0 ∧ making.store.creating.length = 1 ∧ making.dram.lost = 0 ∧
    making.dram.mem.wf = true := by decide +kernel
theorem test_ts_created : (space? (run (.tsZeroDone 0) making) 1).map (·.granules) = some [0] := by decide +kernel

/-! ### Leash -/

/-- Port 2, on side B, is up, with `q`; the node has its ID where `reg` says so. -/
def linked (q : LPort) (cfg node : Nat) : State :=
  let s := withRegs up [(0x120000, cfg), (0x120008, node)]
  { s with leash := { s.leash with ports := [{}, {}, { q with up := true }, {}] } }
/-- LSH_NODE of node 1 in a chain of 4. -/
def node1 : Nat := 2 ^ 63 + 4 * 2 ^ 32 + 0xFFFF0000 + 1

theorem witness_leashLinks : (lport (linked {} 0 0) 2).up = true ∧ (lport (linked {} 0 0) 0).up = false ∧
    (linked {} 0 0).leash.ports.length = 4 ∧ linksRun (linked {} 0 0) = true ∧ nodeValid (linked {} 0 0) = false ∧
    isHead (linked {} 0 0) = false ∧ (isHead (linked {} 1 0) = true ∧ (regVal (linked {} 1 0) 0x120000).testBit 5 = false) ∧
    (let s := linked {} 0 (node1 + 2 ^ 62)
     nodeValid s = true ∧ nodeRing s = true ∧ (sidePorts 1).filter (portUsable s) = [2]) ∧
    (4 : Fin 5).val ≠ 0 := by decide +kernel

/-- leashStream: in order, out of order, for this node and for the next; a replay of one frame. -/
def xend (dst : Nat) : Bytes := leashFrame 8 false 2 dst 0 0 0 (zeros 8)
theorem witness_leashStream :
    (∀ d ∈ [1, 2], let f := xend d
      let s := linked { rxSeq := 5, unacked := 1 } 0 node1
      (lport s 2).up = true ∧ (5 : BitVec 16).toNat = (lport s 2).rxSeq ∧ (lport s 2).unacked < 31 ∧ portUsable s 2 = true ∧
      le f 0 1 = 8 ∧ (le f 1 1).testBit 7 = false ∧ nodeValid s = true ∧ le f 2 2 = d ∧ nodeId s = 1) ∧
    (let f := xend 2
     let s := { linked {} 0 node1 with leash := { (linked {} 0 node1).leash with ports := [{ up := true }, {}, { up := true }, {}] } }
     routeSide s 2 = some 1 ∧ (sidePorts 1).filter (portUsable s) = [2] ∧ (lport s 2).wait = [] ∧
     vcCredit (lport s 2) (lfVc f) f.length = true) ∧
    (let q := lport (linked { replay := [(7, 2, xend 2)], nacked := 7, tries := 15, wait := [(2, xend 2)] } 0 node1) 2
     (∃ e ∈ q.replay, e.1 = (7 : BitVec 16).toNat) ∧ q.nacked = 7 ∧ 15 ≤ q.tries ∧
     vcCredit { q with replay := [] } 2 (xend 2).length = true ∧ ∀ e ∈ q.replay, e.1 ≠ (8 : BitVec 16).toNat) := by decide +kernel

theorem witness_lfOk : lfOk (xend 2) = true := by decide +kernel
/-- A LINK frame, and one whose length is not that of its subtype. -/
theorem witness_linkFrames : (let f := leashFrame 1 false 0 0 0 0 0 (toLe 1 1 ++ zeros 7)
      le f 0 1 = 1 ∧ linkLength (le f 16 1) = some (le f 12 2)) ∧
    (let f := leashFrame 1 false 0 0 0 0 0 (toLe 1 3 ++ zeros 7)
     le f 0 1 = 1 ∧ linkLength (le f 16 1) ≠ some (le f 12 2)) := by decide +kernel

theorem test_ack_frees : (lport (run (.ack 2 7) (linked { replay := [(7, 2, xend 2), (8, 2, xend 2)] } 0 node1)) 2).replay.map (·.1) = [8] := by
  decide +kernel
theorem test_sixteenth_nack : (lport (run (.nack 2 7) (linked { replay := [(7, 2, xend 2)], nacked := 7, tries := 15 } 0 node1)) 2).up = false := by
  decide +kernel

/-- leashDelays: the 255th and the 256th sample; TOF moves by 1.0 ns and by more. -/
theorem witness_leashDelays :
    (let s := linked { samples := List.replicate 255 10 } 0 0
     (lport s 2).up = true ∧ (lport s 2).samples.length = 255 ∧ (lport (linked {} 0 0) 2).samples.length < 255) ∧
    ((20 : BitVec 64).toNat - (0 : BitVec 64).toNat < 2 ^ 63 ∧ (5 : BitVec 64).toNat ≤ (9 : BitVec 64).toNat) := by decide +kernel

theorem test_echo : (lport (run (.echo 2 0 0 5 9 24) (linked {} 0 0)) 2).samples = [10] := by decide +kernel

/-- leashWalks: a node that is not the head, with a way on and without; the head's own walk back. -/
def walk1 : WalkBody := { next := 1, gen := 3, ring := false, ended := false, err := false, errCode := 0, count := 0 }
def headWalks : State :=
  let s := withRegs (linked {} 1 0) [(0x120004, 4)]
  { s with leash := { s.leash with gen := 3, tempId := some 0, ports := [{ up := true }, {}, {}, {}] } }
theorem witness_leashWalks :
    (let s := linked {} 0 0
     portUsable s 2 = true ∧ isHead s = false ∧ walk1.next.toNat < 65536 ∧ nodeValid s = false ∧ s.leash.prevId = none ∧
     sideUp s (1 - sideOf 2) = false ∧ (sidePorts (sideOf 2)).filter (portUsable s) = [2] ∧ vcCredit (lport s 2) 0 28 = true ∧
     (sidePorts (1 - sideOf 0)).filter (portUsable s) = [2]) ∧
    (isHead headWalks = true ∧ walking headWalks = true ∧ portUsable headWalks 0 = true ∧ headWalks.leash.tempId = some 0 ∧
      walk1.gen.toNat = headWalks.leash.gen ∧ (sideUp headWalks 0 && sideUp headWalks 1) = false) ∧
    (let s := { linked {} 0 0 with leash := { (linked {} 0 0).leash with gen := 3, tempId := some 1 } }
     isHead s = false ∧ (3 : BitVec 16).toNat = s.leash.gen ∧ s.leash.tempId = some 1) := by decide +kernel

theorem test_walk_takes_id : let t := run (.walk 2 walk1) (linked {} 0 0); nodeId t = 1 ∧ walking t = true ∧ t.leash.gen = 3 := by
  decide +kernel
theorem test_walk_ends : let t := run (.walk 0 { walk1 with ended := true, count := 4 }) headWalks
    nodeValid t = true ∧ nodeCount t = 4 ∧ walking t = false := by decide +kernel

/-- chainMend: a head that walks anew, one that does not, and a node that is no head. -/
theorem witness_chainMend : (let s := linked {} 0x21 0
      isHead s = true ∧ (regVal s 0x120000).testBit 5 = true ∧ portUsable s 2 = true) ∧
    isHead (linked {} 1 0) = true ∧ (regVal (linked {} 1 0) 0x120000).testBit 5 = false ∧ isHead (linked {} 0 0) = false := by
  decide +kernel

/-- leashTime: marks pass a node that does not count; PHASE mode; a fanned-out verdict. -/
def phased (n : Nat) : State :=
  let s := withRegs (linked {} (64 * n) node1) [(0x30000, 3), (0x31000, 2 ^ 31), (0x120060, 1)]
  { s with timing := { s.timing with epoch := 9, count := 10, tick := 36874, bTable := [(9, 36864)] } }
theorem witness_leashTime :
    (let s := linked {} 0 node1
     isHead s = false ∧ ticksFit s 0 = true ∧ (sidePorts (1 - sideOf 0)).filter (portUsable s) = [2] ∧
     decide (s.timing.count ≤ s.timing.len / 16) = true ∧ s.timing.tick < 2 ^ 64 ∧
     regField s 0x120000 6 2 = 0 ∧ (lport s 2).wait = [] ∧ vcCredit (lport s 2) 0 32 = true) ∧
    (let s := phased 1
     isHead s = false ∧ ticksFit s 0 = true ∧ epRunning s = true ∧ regField s 0x120000 6 2 = 1 ∧ portUsable s 2 = true ∧
     decide (s.timing.count ≤ s.timing.len / 16) = true ∧ s.timing.tick < 2 ^ 64 ∧
     sideUp s (1 - sideOf 2) = false ∧ s.timing.len = 4096 ∧ s.timing.epoch = 9) ∧
    (let s := phased 1
     nodeValid s = true ∧ inDet s 0 = true ∧ (regVal s 0x120060).testBit 0 = true ∧ startOf s 9 = some 36864) := by
  decide +kernel

/-- leashExchange: the vertex's job is there, or not yet; a tile that stays here. -/
def exCfg : Bytes := [1, 1, 0, 0] ++ toLe 2 7 ++ toLe 2 2 ++ toLe 2 4 ++ toLe 2 0xFFFF ++ zeros 52 ++ toLe 2 1 ++ toLe 2 2
def exchOn (e : ExchSt) (q : List EItem) : State :=
  let s := linked {} 0 node1
  let t := onEng (.fe 0) (engVert 0x40 1 exCfg) { eng := .exch e } q []
  { s with kennels := t.kennels, jobs := t.jobs }
def hdr (channel : BitVec 16) : LHdr := { dst := 1, src := 2, kennel := 0, channel }
theorem witness_leashExchange :
    (exchTaken (exchOn {} []) 2 (hdr 7) = true ∧ (exchTarget (exchOn {} []) (hdr 7) 0).any (fun x => jobLive x.job) = true ∧
      (exchTarget (exchOn {} []) (hdr 8) 0).isNone = true ∧ keyInUse (exchOn {} []) 0 8 0 = false ∧
      exColNode exCfg = 0xFFFF) ∧
    (exchTarget (exchOn { sends := [(2, tile0)] } []) (hdr 7) 0).any (fun x => (exchOf x.st).sends == [(2, tile0)] &&
      tget (exchOf x.st).credits 2 0 == 0 && nodeId (exchOn {} []) != 2) = true ∧
    (exchTarget (exchOn { parts := [{ src := 2, total := 192, seq := 0, data := zeros 64 }] } []) (hdr 7) 0).any (fun x =>
      ((exchOf x.st).parts.find? (·.src == 2)).isSome) = true ∧
    (let s := exchOn { credits := [(1, 1)] } [.tile 1 tile0]
     (liveVx s { job := 9, vid := 1 }).any (fun x => x.vert.kind == kExch && (exchOf x.st).sends.isEmpty && !deferHolds x 0 &&
       tget (exchOf x.st).credits (nodeId s) 0 == 1 &&
       (match readTile s x tile0 with
        | .ok p => (match exchSplit x.vert.cfg p tile0 with | .ok l => !l.isEmpty | .error _ => false)
        | .error _ => false)) = true) ∧
    (liveVx (exchOn {} [.skip 3]) { job := 9, vid := 1 }).any (fun x => inHead x 0 == some (.skip 3)) = true := by decide +kernel

theorem test_xend : (vx? (run (.xend 2 (hdr 7) 0) (exchOn {} [])) { job := 9, vid := 1 }).any (fun x => (exchOf x.st).ended == [2]) = true := by
  decide +kernel

/-- leashMessages. -/
theorem witness_leashMessages :
    served up (dmpMsg .mb0 0x0800 (msg [])) ∧ served up (dmpMsg .mb0 0x0801 (msg [])) ∧ served headWalks (dmpMsg .mb0 0x0801 (msg [])) ∧
    served (linked {} 1 0) (dmpMsg .mb0 0x0801 (msg [])) ∧ (∀ n ∈ [0, 1, 2, 4], served (linked {} 0 0) (dmpMsg .mb0 0x0802 (msg (toLe 8 n))) ∧
      served (linked {} 0 0) (dmpMsg .mb0 0x0803 (msg (toLe 8 n)))) ∧
    (∀ n ∈ [0x300, 0x400, 0x301], served up (dmpMsg .mb0 0x0804 (msg (toLe 8 n)))) ∧
    (sideUp (linked {} 1 0) 1 = true ∧ isHead (withRegs up [(0x120000, 1)]) = true ∧ sideUp up 0 = false ∧ sideUp up 1 = false ∧
      (lport (linked {} 0 0) 2).up = true ∧ kennel? up 1 = none) := by
  refine ⟨served_when (by decide +kernel), served_when (by decide +kernel), served_when (by decide +kernel),
    served_when (by decide +kernel), ?_, ?_, by decide +kernel⟩
  · intro n hn
    simp only [List.mem_cons, List.not_mem_nil, or_false] at hn
    rcases hn with rfl | rfl | rfl | rfl <;> exact ⟨served_when (by decide +kernel), served_when (by decide +kernel)⟩
  · intro n hn
    simp only [List.mem_cons, List.not_mem_nil, or_false] at hn
    rcases hn with rfl | rfl | rfl <;> exact served_when (by decide +kernel)

/-! ### The block as a whole -/

/-- StepTakesFrontCommand, StepKeepsMemory, StepKeepsImages and StepKeepsHounds: states that keep their forms, and a step from them. -/
def queuedUp : State := { two with pending := [.registerWrite 0x20000 4 5 {}], hounds := [(0, {})] }
theorem witness_steps : queuedUp.dram.mem.wf = true ∧ (queuedUp.herder.slotA.wf && queuedUp.herder.slotB.wf) = true ∧
    queuedUp.hounds.all (fun e => e.2.shaped) = true ∧ (match step queuedUp with | .next _ => true | _ => false) = true := by decide +kernel
theorem witness_StepTakesFrontCommand : queuedUp.pending = .registerWrite 0x20000 4 5 {} :: [] := by decide +kernel
theorem test_idle : (match step State.reset with | .next t => decide (t = State.reset) | _ => false) = true := by decide +kernel

end Sys2Proof.Tests
end

