-- ==== Sys2Proof/WellFormed.lean ====
section
/-! DEFINITION. Which commands are well formed: operands that are carried as numbers or
byte strings fit the fields that the spec gives them. -/

namespace Sys2Proof

/-- The width of an access that a register takes, in bytes (R8). -/
def sizeOk (size : Nat) : Bool := size == 4 || size == 8

/-- A queue entry: (LEN + 1) × 16 bytes with LEN of 8 bits (R370). -/
def entryOk (e : Bytes) : Bool := e.length % 16 == 0 && 16 ≤ e.length && e.length ≤ 4096

/-- The body of a message fits its window (R448). -/
def bodyOk (m : Msg) : Bool := m.body.length ≤ 4080

/-- The operands of a command fit their fields. -/
def Instr.wellFormed (c : Instr) : Bool :=
  match c with
  | .registerWrite off size val env => off < 2 ^ 26 && sizeOk size && val < 2 ^ (8 * size) && env.hwSet < 2 ^ (8 * size)
  | .counterReadClear off size hwInc => off < 2 ^ 26 && sizeOk size && hwInc < 2 ^ (8 * size)
  | .setDeterministic _ m _ => bodyOk m
  | .planLoad _ m _ => bodyOk m
  | .planUnload _ m => bodyOk m
  | .planStatus _ m => bodyOk m
  | .jobStart _ e => entryOk e
  | .nop _ e => entryOk e
  | .scnLoad _ e _ => entryOk e
  | .scnInval _ e => entryOk e
  | .dgeInit _ e => entryOk e
  | .dgeUpdate _ e _ => entryOk e
  | .dgeRead _ e => entryOk e
  | .dgeVerify _ e => entryOk e
  | .dgeClose _ e => entryOk e
  | .dgeKey _ e _ _ => entryOk e
  | .dramRead line _ _ _ => line < 2 ^ 36
  | .dramWrite line _ _ => line < 2 ^ 36
  | .rowActivate _ _ bank row => bank < 2 ^ 16 && row < 2 ^ 30
  | .ddrRetune _ m => bodyOk m
  | .shcLookup _ _ line _ _ => line < 2 ^ 36
  | .wqCreate _ m => bodyOk m
  | .wqDestroy _ m => bodyOk m
  | .cqCreate _ m => bodyOk m
  | .cqDestroy _ m => bodyOk m
  | .queueReset _ m => bodyOk m
  | .pushDoorbell _ data _ => data.length ≤ 64
  | .kennelCreate _ m => bodyOk m
  | .kennelDestroy _ m => bodyOk m
  | .setShare _ m => bodyOk m
  | .getShare _ m => bodyOk m
  | .kennelReset _ m => bodyOk m
  | .tsRead _ e => entryOk e
  | .tsWrite _ e => entryOk e
  | .tsFill _ e => entryOk e
  | .tsFlush _ e => entryOk e
  | .tsCreate _ m => bodyOk m
  | .tsDelete _ m => bodyOk m
  | .tsInfo _ m => bodyOk m
  | .tsSelftest _ m => bodyOk m
  | .tsSelftestStop _ m => bodyOk m
  | .tsSelftestStatus _ m => bodyOk m
  | .hello _ m => bodyOk m
  | .getVersion _ m => bodyOk m
  | .getEnvironment _ m fresh => bodyOk m && (fresh.isEmpty || fresh.length == 1600)
  | .getLog _ m => bodyOk m
  | .getMlog _ m => bodyOk m
  | .getIdentity _ m => bodyOk m
  | .attest _ m => bodyOk m
  | .bindQuarantine _ m => bodyOk m
  | .bindVerdict _ m => bodyOk m
  | .fwWrite _ m _ => bodyOk m
  | .fwVerify _ m => bodyOk m
  | .fwActivate _ m => bodyOk m
  | .fwSetBoot _ m => bodyOk m
  | .environmentMeasure report => report.length == 1600
  | .leashLinkUp _ tof _ => tof < 65536
  | .leashFrameReceive _ _ _ f => 16 ≤ f.length && f.length ≤ 16384
  | .probe _ num _ _ _ => num < 256
  | .echo _ num _ _ _ _ => num < 256
  | .tofMeasure _ raw => raw < 2 ^ 64
  | .leashVerdict _ _ msg _ => msg.length == 48
  | .xdata _ _ _ off total _ data => off < 2 ^ 32 && total < 2 ^ 32 && data.length ≤ 16352
  | .xcredit _ _ _ n => n < 2 ^ 32
  | .xabort _ _ _ status => status < 65536
  | .chainStatus _ m => bodyOk m
  | .chainWalk _ m => bodyOk m
  | .chainSetHead _ m => bodyOk m
  | .linkReset _ m => bodyOk m
  | .setVfan _ m => bodyOk m
  | .pwrEnterP1 _ m => bodyOk m
  | .pwrEnterP2 _ m => bodyOk m
  | .pwrEnterP3 _ m => bodyOk m
  | .pwrEnterP4 _ m => bodyOk m
  | .pwrExit _ m => bodyOk m
  | .pwrStatus _ m => bodyOk m
  | .warmReset _ m _ => bodyOk m
  | .coldReset _ m => bodyOk m
  | .pauseFrameReceive _ _ _ quanta => quanta < 65536
  | .mailboxBadOpcode _ _ m => bodyOk m
  | .unitClockGate .. | .packPllStop .. | .unitWake .. | .slotGrant .. | .groupModeWrite ..
  | .ethFrameReceive .. | .rawlinkFrameReceive .. | .rawlinkStrayBlock .. | .fragmentForward ..
  | .flowControlRepeat .. | .epochBoundary .. | .epLenWrite .. | .esyncEdge ..
  | .epochWindowMiss .. | .resyncNow .. | .epochCounterStart .. | .epochCounterStop ..
  | .tclkLost .. | .tclkReturn .. | .tevResultArrive .. | .verdictDue .. | .verdictMessageSend ..
  | .engineSchedule .. | .srcTsTile .. | .tilePublish .. | .spillReadback .. | .endMarkSend ..
  | .sinkWrite .. | .jobComplete .. | .jobFailRetire .. | .jobTimeout .. | .unitStop ..
  | .fragmentBlockPublish .. | .sheDataFragment .. | .sheCloseFragment .. | .sheHeartbeat ..
  | .eventWindowTimeout .. | .tombstoneExpire .. | .eventTileFlush .. | .sheIntakeResume ..
  | .joinBuildTile .. | .joinProbeTile .. | .winjoinTile .. | .facetTile .. | .gateRelease ..
  | .sortInputTile .. | .sortMergePass .. | .sortFinalPass .. | .aggInputTile .. | .aggEmit ..
  | .scentSearchTile .. | .scentPatrol .. | .add .. | .sub .. | .and .. | .or .. | .xor ..
  | .sll .. | .srl .. | .sra .. | .slt .. | .sltu .. | .min .. | .max .. | .minu .. | .maxu ..
  | .mul .. | .mulh .. | .mulhu .. | .div .. | .divu .. | .rem .. | .remu .. | .clz .. | .ctz ..
  | .popc .. | .bswap .. | .addi .. | .andi .. | .ori .. | .xori .. | .slti .. | .sltiu ..
  | .slli .. | .srli .. | .srai .. | .lui .. | .jalr .. | .csrSwap .. | .csrSet .. | .csrClear ..
  | .csrRead .. | .syscall .. | .eret .. | .fence .. | .wfi .. | .breaknz .. | .lexit ..
  | .beq .. | .bne .. | .blt .. | .bge .. | .bltu .. | .bgeu .. | .lb .. | .lbu .. | .lh ..
  | .lhu .. | .lw .. | .lwu .. | .ld .. | .sb .. | .sh .. | .sw .. | .sd .. | .loop ..
  | .loopi .. | .j .. | .jal .. | .li .. | .liu .. | .lih .. | .addil .. | .vadd .. | .vsub ..
  | .vand .. | .vor .. | .vxor .. | .vandn .. | .vsll .. | .vsrl .. | .vsra .. | .vmin ..
  | .vmax .. | .vminu .. | .vmaxu .. | .vmul .. | .vmulh .. | .vmulhu .. | .vrsub .. | .sadd ..
  | .ssub .. | .uadd .. | .usub .. | .avg .. | .sabs .. | .sneg .. | .sshl .. | .vcmp ..
  | .vqmul .. | .vqshr .. | .vqnrw .. | .vmv .. | .vmerge .. | .vbcast .. | .vid .. | .vext ..
  | .vins .. | .mand .. | .mor .. | .mxor .. | .mandn .. | .mnot .. | .mpop .. | .mfirst ..
  | .mfromx .. | .mtox .. | .vld .. | .vst .. | .vgather .. | .vscatter .. | .vredSum ..
  | .vredSumu .. | .vredSsum .. | .vredMin .. | .vredMax .. | .vredMinu .. | .vredMaxu ..
  | .vsldn .. | .vslup .. | .vperm .. | .vcompress .. | .fadd .. | .fsub .. | .fmul .. | .fmin ..
  | .fmax .. | .fabs .. | .fneg .. | .feq .. | .flt .. | .fle .. | .i2f .. | .f2i .. | .swlo ..
  | .swhi .. | .uwlo .. | .uwhi .. | .interruptTake .. | .niWindowExpire .. | .houndReset ..
  | .houndAbortTimeout .. | .houndJobStart .. | .houndStageTile .. | .take .. | .release ..
  | .alloc .. | .publish .. | .skip .. | .done .. | .fail .. | .czeCompressTile ..
  | .czeDecompressTile .. | .czeEndMark .. | .czeStateRestore .. | .czeStateSave ..
  | .dgeInitGrant .. | .dgeBlock .. | .dgeVertexTile .. | .dramWqIssue .. | .dramPatrolRead ..
  | .refreshWindowEnd .. | .ddrRetuneAuto .. | .dramZeroingDone .. | .shcFill ..
  | .shcEvictWrite .. | .shcDisable .. | .shcEnable .. | .shcFlushDone .. | .shcPortDrain ..
  | .queueResetComplete .. | .cqReset .. | .wqDoorbell .. | .wqShadowRead .. | .wqFetch ..
  | .wqCiWrite .. | .cqDoorbell .. | .cqCiPoll .. | .cqOverflowDrain .. | .cqModTimer ..
  | .msixSend .. | .hostDStateChange .. | .pmeRepeat .. | .kennelResetDone ..
  | .kennelDrainOverrun .. | .tsIssue .. | .tsPieceComplete .. | .tsZeroDone ..
  | .selftestUnit .. | .selftestSuspend .. | .selftestResume .. | .boot ..
  | .fwActivateDrainDone .. | .fwActivateTimeout .. | .fwReadyTimeout ..
  | .herderWatchdogExpire .. | .leashLinkDown .. | .leashLinkRetrain .. | .leashAckTimer ..
  | .ack .. | .nack .. | .cap .. | .walk .. | .walkTimeout .. | .chainDone .. | .chainAbort ..
  | .chainBreak .. | .chainMend .. | .epochMark .. | .xend .. | .perst .. | .powerOn ..
  | .powerLimitCheck .. | .railOutOfRange .. | .pmbAlert .. | .thermalTrip .. | .evtTest ..
  | .evtStatusClear .. | .evtMaskWrite .. | .evtRouteWrite .. | .knEventClear .. | .msixUnmask ..
  | .tapInstruction .. | .ingestLinkUp .. | .ingestLinkDown .. | .rawlinkIdleBlock ..
  | .reservedInstruction .. | .mailboxBusyWrite .. | .herderCoreLockup .. | .gridLinkRetryFail ..
  | .powerDown .. | .leashExchTile .. => true

end Sys2Proof
end

