-- ==== Sys2Proof/Tests/Slice0.lean ====
section
/-! SUPPORT. Tests of what is well formed, and of Hounds: witnesses for the hypotheses of
the statements, and results worked out by hand from the rules. -/

set_option Elab.async false

namespace Sys2Proof.Tests

open Sys2Proof Sys2Proof.Machine Sys2Proof.Claims

/-! ### Well-formedness: each check refuses something -/

def msgOf (n : Nat) : Msg := { length := BitVec.ofNat 16 n, status := 0, seq := 0, rsv := false, body := zeros n }

theorem test_wellFormed_accepts : ([.registerWrite 0x30004 4 0x1000 {}, .nop ⟨0, 0⟩ (zeros 64),
    .hello .mb0 (msgOf 8), .dramRead (2 ^ 36 - 1) .none .ok 0, .rowActivate 15 1 65535 5] : List Instr).all
    Instr.wellFormed = true := by decide +kernel
theorem test_wellFormed_register_size : (Instr.registerWrite 0 3 0 {}).wellFormed = false := by decide
theorem test_wellFormed_register_offset : (Instr.registerWrite (2 ^ 26) 4 0 {}).wellFormed = false := by decide
theorem test_wellFormed_register_value : (Instr.registerWrite 0 4 (2 ^ 32) {}).wellFormed = false := by decide
theorem test_wellFormed_body : (Instr.hello .mb0 (msgOf 4081)).wellFormed = false := by decide +kernel
theorem test_wellFormed_entry : (Instr.nop ⟨0, 0⟩ (zeros 24)).wellFormed = false := by decide
theorem test_wellFormed_line : (Instr.dramRead (2 ^ 36) .none .ok 0).wellFormed = false := by decide
theorem test_wellFormed_activated_row : (Instr.rowActivate 0 0 65536 0).wellFormed = false := by decide
theorem test_wellFormed_push : (Instr.pushDoorbell ⟨0, 0⟩ (zeros 65) false).wellFormed = false := by decide +kernel
theorem test_wellFormed_report : (Instr.environmentMeasure (zeros 1599)).wellFormed = false := by decide +kernel
theorem test_wellFormed_frame : (Instr.leashFrameReceive 0 0 true (zeros 15)).wellFormed = false := by decide
theorem test_wellFormed_verdict : (Instr.leashVerdict 0 0 (zeros 47) 0).wellFormed = false := by decide
theorem test_wellFormed_quanta : (Instr.pauseFrameReceive 0 0 1 65536).wellFormed = false := by decide

theorem test_wellFormed_probe : (Instr.probe 0 256 0 0 0).wellFormed = false := by decide
theorem test_wellFormed_raw : (Instr.tofMeasure 0 (2 ^ 64)).wellFormed = false := by decide

/-! ### Hounds: hypotheses that are met -/

/-- HoundArithmetic, houndBranchTargets, HoundCsrs in both modes, and the system instructions. -/
theorem witness_canIssue : canIssue onS 0 false = true ∧ canIssue onS 0 true = true ∧
    canIssue onU 0 false = true ∧ canIssue onU 0 true = true ∧ (hregs onS 0).smode = true ∧
    (hregs onU 0).smode = false := by decide +kernel

/-- A shift by 63, the last that IMM16 admits, and the long forms with and without RS1. -/
theorem witness_houndImmediateResults : (63 : BitVec 16).extractLsb' 8 8 = 0 ∧ canIssue onU 0 false = true ∧
    canIssue onU 0 true = true ∧ (longTable.any (fun p => p.2.1) && longTable.any (fun p => !p.2.1)) = true := by
  decide +kernel

/-- A body that ends with the section is legal at both levels; so is one that fits no more by a word not. -/
theorem witness_loopLegal : loopLegal onU 0 0 15 (pcAfter onU 0 4) = true ∧
    loopLegal onU 0 0 16 (pcAfter onU 0 4) = false ∧ loopLegal onU 0 1 14 (pcAfter onU 0 8) = true ∧
    loopLegal onS 0 1 1 (pcAfter onS 0 4) = true ∧ atBodyEnd (hregs onU 0) = false := by decide +kernel

/-- U mode in a loop of level 0 whose body is the word after PC, or the word at PC and the next. -/
def inLoop (start len : Nat) : HoundRegs :=
  (uRegs.setLcnt 0 (start * 2 ^ 40 + len * 2 ^ 24 + 5)).setLoop 0 true

/-- LoopsRefused: the four cases of R226. -/
theorem witness_LoopsRefused :
    (let s := busy (houndRun (inLoop 0 4)); canIssue s 0 false = true ∧
      (hregs s 0).loopOn 0 = true ∧ (hregs s 0).loopStart 0 + (hregs s 0).loopLen 0 < 1 + 4) ∧
    (let s := busy (houndRun (inLoop 0 1)); canIssue s 0 false = true ∧ canIssue s 0 true = true ∧
      (hregs s 0).loopOn 0 = true ∧
      (pcAfter s 0 4 - loopBase (hregs s 0).smode) / 4 = (hregs s 0).loopStart 0 + (hregs s 0).loopLen 0) ∧
    (let s := busy (houndRun (inLoop 0 2)); (hregs s 0).loopOn 0 = true ∧
      (pcAfter s 0 8 - loopBase (hregs s 0).smode) / 4 = (hregs s 0).loopStart 0 + (hregs s 0).loopLen 0) := by
  decide +kernel

/-- houndCsrReads: a number outside the table. -/
theorem witness_houndCsrReads : ∀ c ∈ csrTable, c.1 ≠ 0x012 := by decide

/-- houndCsrWrites: a VLEN of 4096 is taken, one of 4608 and a body of 0 words are not. -/
theorem witness_houndCsrWrites :
    (csrWrites.find? (fun c => c.1 == 0x010)).map (fun c => (c.2.2.1 4096, c.2.2.1 512, c.2.2.1 4608, c.2.2.1 0)) =
      some (true, true, false, false) ∧
    (csrWrites.find? (fun c => c.1 == 0x030)).map (fun c => (c.2.2.1 0, c.2.2.1 0x1000000)) = some (false, true) ∧
    (csrWrites.all (fun c => csrTable.any (fun g => g.1 == c.1))) = true := by decide +kernel

/-- houndSystemInstructions: WFI with and without a line that is pending and enabled. -/
theorem witness_wfi : let x := { houndRun sRegs with ipend := (2 : BitVec 3) }
    canIssue (busy x) 0 false = true ∧ (x.ipend &&& x.ien) ≠ 0 ∧ ((houndRun sRegs).ipend &&& (houndRun sRegs).ien) = 0 := by
  decide +kernel

/-- A Hound in S mode with a frame at SSP, the lowest place of a stack of 64 bytes: PC, STATUS, NICNT. -/
def framed (status nicnt : Nat) : HoundSt :=
  let r := { sRegs with ssp := 0xBC000, sstkBase := 0xBC000, sstkLimit := 0xBC040 }
  let frame := toLe 8 codeBase ++ toLe 8 status ++ zeros 24 ++ toLe 8 0x103 ++ toLe 8 nicnt ++ zeros 8
  { houndRun r with spad := Memory.write [] 0xBC000 frame }

/-- houndReturns: each return on a stack of one frame. -/
theorem witness_houndReturns :
    (∀ x ∈ [framed 0 0, framed 2 0, framed 4 0, framed 1 1], canIssue (busy x) 0 false = true ∧
      x.regs.smode = true ∧ x.regs.ssp.toNat % 64 = 0 ∧ x.regs.sstkBase.toNat ≤ x.regs.ssp.toNat ∧
      x.regs.ssp.toNat + 64 ≤ x.regs.sstkLimit.toNat ∧ x.regs.ssp.toNat + 64 ≤ 0xC0000) ∧
    2 ≤ frameWord (framed 2 0) 1 % 4 ∧ bitAt (frameWord (framed 4 0) 1 % 64) 2 = true ∧
    frameWord (framed 1 1) 6 % 8192 = 1 ∧ frameWord (framed 1 1) 1 % 4 ≤ (framed 1 1).privCeil.toNat ∧
    frameWord (framed 0 0) 6 % 8192 = 0 ∧ ((framed 0 0).ipend &&& (framed 0 0).ien) = 0 := by decide +kernel

/-- houndReservedWords: the first and the last reserved major, and functions of majors 0 and 0x0B. -/
theorem witness_houndReservedWords : [0xE8000000, 0xFBFFFFFF, 0x0E, 0x24, 0x2C006000].all reservedWord = true := by
  decide +kernel

/-- houndReservedFields: canIssue holds above; one field for each form that is not 0. -/
theorem witness_houndReservedFields : (0x0100 : BitVec 16).extractLsb' 8 8 ≠ 0 ∧ (1 : BitVec 2) ≠ 0 ∧
    (1 : Fin 32).val % 16 ≠ 0 ∧ 2 ^ 24 ≤ (0x01000000 : BitVec 32).toNat := by decide

/-- houndExceptionEntry: entry onto a stack with room for just one frame, no room, and no entry. -/
theorem witness_houndExceptionEntry :
    (let s := busy (readyH uRegs); let r := hregs s 0
     let v := (tget (hound s 0).vec 1 0).toNat
     r.ssp.toNat % 64 = 0 ∧ r.sstkBase.toNat + 64 ≤ r.ssp.toNat ∧ r.ssp.toNat ≤ r.sstkLimit.toNat ∧
     r.ssp.toNat ≤ 0xC0000 ∧ v % 2 = 1 ∧ rtBase ≤ v % 2 ^ 48 / 4 * 4 ∧
     v % 2 ^ 48 / 4 * 4 + 4 ≤ rtBase + s.herder.runtime.length ∧ s.herder.runtime.length ≤ rtEnd - rtBase ∧
     (tget (hound s 0).vec 2 0).toNat % 2 = 0) ∧
    (let s := onU; (hregs s 0).ssp.toNat < (hregs s 0).sstkBase.toNat + 64 ∧ (hound s 0).job = some 9 ∧
     (hound s 0).serves = some (0, 1, 1, 0) ∧ job? s 9 = some job0 ∧ (vx? s { job := 9, vid := 1 }).isSome = true ∧
     job0.failed = none ∧ job0.abandoned = false ∧ job0.retired = false) := by decide +kernel

/-- houndInterrupts: a Hound with interrupts open and line 1 pending, and one in a window. -/
theorem witness_houndInterrupts :
    (let s := busy { readyH { uRegs with status := 4 } with ipend := 2 }
     interruptible s 0 = true ∧ (hound s 0).wfi = false ∧ (hound s 0).job = some 9 ∧ job? s 9 = some job0 ∧
     jobLive job0 = true ∧ (hregs s 0).ie = true ∧ ((hound s 0).ipend &&& (hound s 0).ien).getLsbD 1 = true ∧
     ((hound s 0).ipend &&& (hound s 0).ien).getLsbD 0 = false) ∧
    (let s := busy { readyH { sRegs with status := 9 } with window := 5 }
     interruptible s 0 = true ∧ (hregs s 0).niw = true) := by decide +kernel

/-- houndResets: a Hound that is locked up, and one that an ABORT has not ended. -/
theorem witness_houndResets : (let x := { houndRun uRegs with lockup := true }; x.lockup = true) ∧
    (let x := { houndRun uRegs with ipend := (1 : BitVec 3) }
     x.lockup = false ∧ x.job.isSome = true ∧ x.ipend.getLsbD 0 = true) := by decide

/-! ### Hounds: results -/

theorem test_add : xAfter (.add 0 3 1 2) (busy (houndRun ((sRegs.wx 1 7).wx 2 (BitVec.allOnes 64)))) 3 = 6 := by
  decide +kernel
theorem test_add_to_x0 : xAfter (.add 0 0 1 1) (sWith 1 7) 0 = 0 := by decide +kernel
theorem test_sra_by_65 : xAfter (.sra 0 3 1 2) (busy (houndRun ((sRegs.wx 1 0x8000000000000000).wx 2 65))) 3 =
    0xC000000000000000 := by decide +kernel
theorem test_div_overflow : xAfter (.div 0 3 1 2)
    (busy (houndRun ((sRegs.wx 1 0x8000000000000000).wx 2 (BitVec.allOnes 64)))) 3 = 0x8000000000000000 := by
  decide +kernel
theorem test_rem_by_zero : xAfter (.rem 0 3 1 2) (sWith 1 7) 3 = 7 := by decide +kernel
theorem test_clz_zero : xAfter (.clz 0 3 1 0) onS 3 = 64 := by decide +kernel
theorem test_bswap : xAfter (.bswap 0 3 1 0) (sWith 1 0x0102030405060708) 3 = 0x0807060504030201 := by decide +kernel
theorem test_addi_negative : xAfter (.addi 0 3 1 0xFFFF) (sWith 1 1) 3 = 0 := by decide +kernel
theorem test_lih : xAfter (.lih 0 3 0 0 0xDEADBEEF) (sWith 3 0x11112222) 3 = 0xDEADBEEF11112222 := by decide +kernel
theorem test_beq_backwards : (hregs (run (.beq 0 1 2 0xFFFF) onU) 0).pc = BitVec.ofNat 64 (codeBase - 4) := by
  decide +kernel
theorem test_jal_links : xAfter (.jal 0 2) onS 1 = BitVec.ofNat 64 (rtBase + 4) ∧
    (hregs (run (.jal 0 2) onS) 0).pc = BitVec.ofNat 64 (rtBase + 8) := by decide +kernel
theorem test_loop_goes_back : (hregs (run (.addi 0 3 3 1) (busy (houndRun (inLoop 0 1)))) 0).pc = BitVec.ofNat 64 codeBase ∧
    (hregs (run (.addi 0 3 3 1) (busy (houndRun (inLoop 0 1)))) 0).loopCount 0 = 4 := by decide +kernel
theorem test_breaknz_leaves : (hregs (run (.breaknz 0 0 1 0) (busy (houndRun ((inLoop 0 3).wx 1 9)))) 0).pc =
    BitVec.ofNat 64 (codeBase + 12) := by decide +kernel
theorem test_csr_vlen : (hregs (run (.csrSwap 0 3 1 0 0x010) (sWith 1 4096)) 0).vlen = 4096 ∧
    xAfter (.csrSwap 0 3 1 0 0x010) (sWith 1 4096) 3 = 512 := by decide +kernel
theorem test_syscall_enters : let t := run (.syscall 0 0 0 5) (busy (readyH uRegs))
    (hregs t 0).pc = BitVec.ofNat 64 rtBase ∧ (hregs t 0).epc = BitVec.ofNat 64 (codeBase + 4) ∧
    (hregs t 0).ecause = 7 ∧ (hregs t 0).ssp = 0xBC000 ∧
    leNat ((hound t 0).spad.read 0xBC000 8) = codeBase + 4 := by decide +kernel
theorem test_no_stack_locks_up : (hound (run (.reservedInstruction 0 0xFBFFFFFF) onU) 0).lockup = true ∧
    (job? (run (.reservedInstruction 0 0xFBFFFFFF) onU) 9).map (·.failed) = some (some (0x0912, 1)) := by
  decide +kernel
theorem test_eret : (hregs (run (.eret 0 0 0 0) (busy (framed 1 1))) 0).pc = BitVec.ofNat 64 codeBase ∧
    (hregs (run (.eret 0 0 0 0) (busy (framed 1 1))) 0).status = 9 ∧
    (hound (run (.eret 0 0 0 0) (busy (framed 1 1))) 0).window = 1 := by decide +kernel
theorem test_interrupt_taken : (hregs (run (.interruptTake 0 2) (busy (readyH { uRegs with status := 4 }))) 0).ecause =
    0x21 := by decide +kernel

end Sys2Proof.Tests
end

