-- ==== Sys2Proof/Tests/System.lean ====
section
/-! SUPPORT. Tests of errors, resets, boots, firmware and power. -/

set_option Elab.async false

namespace Sys2Proof.Tests

open Sys2Proof Sys2Proof.Machine Sys2Proof.Claims

/-- `served`, from what it asks as one Boolean. -/
theorem served_if {s : State} {r : HeldMsg} (h : (!dmpDead s && mbExists s r.mb && !mbBusy s r.mb && !dmpWaits s r &&
    (dmpFault s r).isNone) = true) : served s r := by
  simpa [served, and_assoc] using h

theorem tj_cases : tjMax = 95 ∨ tjMax = 105 := by
  unfold tjMax
  cases Config.gradeFe <;> simp

/-! ### Errors and resets -/

/-- errorCommands: before and after READY; the least temperature that trips. -/
theorem witness_errorCommands : fatal up = false ∧ devErr up = false ∧ pState up ≠ 4 ∧ ready up = true ∧
    (let s := withRegs up [(0x110000, 0)]; fatal s = false ∧ pState s ≠ 4 ∧ ready s = false) := by decide +kernel
theorem witness_thermalTrip : 16 * (tjMax + 10) ≤ 16 * (tjMax + 10) := Int.le_refl _

/-- A dirty line in the cache, and table spaces of K0, of kennel 3, and of no one. -/
def before : State :=
  let s := { up with
    shc := { up.shc with lines := [(16 * shcSet 5, { line := 5, dirty := true, poison := false, age := 0, data := 9 })] }
    store := { up.store with spaces := [
      (5, { owner := some 0, former := 0, pasid := 5, eighths := 255, granules := [3] }),
      (6, { owner := some 3, former := 3, pasid := 7, eighths := 255, granules := [4] }),
      (7, { owner := none, former := 2, pasid := 7, eighths := 255, granules := [5] })] } }
  withRegs s [(0xD0000, 1)]

/-- resetCommands: the messages, PERST# in P0 and in P4, and the supply. -/
theorem witness_resetCommands : served before (dmpMsg .mb0 0x0702 (msg (zeros 8))) ∧
    served before (dmpMsg .mb0 0x0702 (msg (toLe 8 1))) ∧ zeroes (toLe 8 1) 1 7 = true ∧
    (before.shc.misses = [] ∧ before.dram.wqs = [] ∧ before.dram.held = [] ∧ before.dram.mem.wf = true ∧
      before.dram.lost = 0 ∧ (before.shc.lines.map (·.2.line)).Nodup ∧ before.pins.thermtripLow = false ∧
      pState before ≠ 4 ∧ pState (withRegs before [(0x130004, 4)]) = 4 ∧ fatal (withRegs before [(0x130004, 4)]) = false ∧
      State.reset.herder.warm = false ∧ ({ State.reset.pins with railsOk := false }).railsOk = false) :=
  ⟨served_if (by decide +kernel), served_if (by decide +kernel), by decide, by decide +kernel⟩

theorem test_warm_reset_keeps : let t := run (.warmReset .mb0 (msg (zeros 8)) false) before
    (dramLine t 5).1 = 9 ∧ t.store.spaces.map (fun e => (e.1, e.2.owner)) = [(5, some 0), (6, none), (7, none)] ∧
    t.kennels = [] ∧ ready t = false := by decide +kernel
theorem test_cold_reset_clears : let t := run (.coldReset .mb0 (msg (toLe 8 1))) before
    t.dram = {} ∧ t.store = {} ∧ t.regs.length ≤ 1 := by decide +kernel

/-! ### Boot and firmware -/

theorem witness_bootCommand : bootable State.reset = true ∧ State.reset.herder.held = [] ∧
    State.reset.herder.cold = false ∧
    (let s := { State.reset with herder := { State.reset.herder with cold := true } }
     bootable s = true ∧ (regVal s 0x110000).testBit 2 = decide (s.herder.slot = 2)) := by decide +kernel

/-- A report with five sensors at `t` sixteenths of a degree, and one DIMM of 32 GiB at 7,200 MT/s in each channel. -/
def report (t : Nat) : Bytes :=
  let dimm := [1, 2, 4, 16] ++ toLe 2 32 ++ toLe 2 7200 ++ zeros 24
  zeros 16 ++ (List.replicate 5 (toLe 2 t)).flatten ++ zeros 166 ++ (List.replicate 16 (dimm ++ zeros 32)).flatten ++ zeros 384

/-- bootCommand: sensors at 20 °C, and at -30 °C, which is below the minimum of either grade. -/
theorem witness_coldBoot : State.reset.herder.warm = false ∧ 16 * tjMin ≤ coldest (report 320) ∧
    coldest (report (65536 - 480)) < 16 * tjMin := by
  refine ⟨by decide, ?_, ?_⟩
  · rw [show coldest (report 320) = 320 by decide +kernel]
    unfold tjMin
    cases Config.gradeFe <;> simp
  · rw [show coldest (report (65536 - 480)) = -480 by decide +kernel]
    unfold tjMin
    cases Config.gradeFe <;> simp

/-- bootRates: 7,200 MT/s at one DIMM per channel. -/
theorem test_bootRate : dramRate (report 0) = some 7200 ∧ (report 0).length = 1600 := by decide +kernel
theorem test_bootRate_two : dramRate (zeros 192 ++ (List.replicate 32 ([1, 2, 4, 16] ++ toLe 2 32 ++ toLe 2 7200 ++ zeros 24)).flatten ++
    zeros 384) = some 6400 := by decide +kernel
theorem test_bootRate_mismatch : dramRate (putAt (report 0) 197 [1]) = none := by decide +kernel

/-- Slot B is verified; slot A runs. -/
def flashed : State := { up with jobs := [], herder := { up.herder with verified := 2 } }
def act0 : Activation := { slot := 1, force := false }
def activating (a : Activation) (r jobs : Bool) : State :=
  let s := withRegs flashed [(0x110000, if r then 1 else 0)]
  { s with
    jobs := if jobs then up.jobs else []
    herder := { s.herder with act := some a, slot := if a.restarted then 1 else 0 } }

/-- A write of the longest piece at the end of a slot, to each slot. -/
def fwBody (n : Nat) : Bytes := toLe 4 n ++ toLe 4 (25165824 - 1048576) ++ zeros 8 ++ toLe 4 1048576 ++ zeros 4

theorem witness_firmwareCommands : (∀ n ∈ [0, 1], served flashed { dmpMsg .mb0 0x0900 (msg (fwBody n)) with host := none }) ∧
    (zeroes (fwBody 1) 1 3 = true ∧ zeroes (fwBody 1) 20 4 = true ∧ le (fwBody 1) 16 4 = 1048576 ∧
      le (fwBody 1) 4 4 + le (fwBody 1) 16 4 = 25165824 ∧ flashed.herder.slot = 0 ∧
      flashed.herder.verified.getLsbD 1 = true ∧ flashed.herder.verified.getLsbD 0 = false) ∧
    served flashed (dmpMsg .mb0 0x0901 (msg (toLe 8 1))) ∧ served flashed (dmpMsg .mb0 0x0903 (msg (toLe 8 1))) ∧
    served flashed (dmpMsg .mb0 0x0902 (msg (toLe 8 0x101))) :=
  ⟨by intro n hn
      simp only [List.mem_cons, List.not_mem_nil, or_false] at hn
      rcases hn with rfl | rfl
      · exact served_if (by decide +kernel)
      · exact served_if (by decide +kernel),
   by decide +kernel, served_if (by decide +kernel), served_if (by decide +kernel), served_if (by decide +kernel)⟩
theorem witness_fwWrite_data : served flashed { dmpMsg .mb0 0x0900 (msg (toLe 4 1 ++ zeros 12 ++ toLe 4 64 ++ zeros 4)) with
    host := some (zeros 64) } := served_if (by decide +kernel)

theorem witness_activation :
    (let s := activating act0 true false; s.herder.act = some act0 ∧ fatal s = false ∧ drained s = true ∧ s.herder.held = []) ∧
    (let s := activating act0 true true; drained s = false ∧ act0.force = false ∧ act0.restarted = false) ∧
    (let s := activating { act0 with restarted := true } false false; ready s = false ∧ s.herder.slot = 1 ∧
      s.kennels.all (fun e => e.2.wqs.isEmpty) = true) := by decide +kernel

theorem test_fw_write : (run (.fwWrite .mb0 (msg (toLe 4 1 ++ toLe 4 16 ++ zeros 8 ++ toLe 4 4 ++ zeros 4)) (some [1, 2, 3, 4]))
    flashed).herder.slotB = [(16, 1), (17, 2), (18, 3), (19, 4)] := by decide +kernel
theorem test_set_boot : (run (.fwSetBoot .mb0 (msg (toLe 8 1))) flashed).herder.bootSlot = 1 := by decide +kernel
theorem test_activate_times_out : let t := run .fwActivateTimeout (activating act0 true true)
    t.herder.act = none ∧ le (tget t.windows 256 []) 8 2 = 0x0F13 := by decide +kernel

/-! ### Power -/

/-- Gating after 1 µs; Pack 0 has every Hound gated. -/
def gating : State :=
  let s := withRegs { up with jobs := [] } [(0x130008, 1 + 65536)]
  { s with power := { s.power with gated := packUnits 0 } }

theorem witness_gating : mayGate gating (.srt 3) = true ∧ unitGated gating (.hound 15) = true ∧ pState gating < 2 ∧
    pState gating = 0 ∧ regField gating 0x130008 16 16 ≠ 0 ∧ (0 : Nat) ∉ gating.power.pllOff ∧
    (∀ u ∈ packUnits 0, unitGated gating u = true ∧ exempt gating u = false) ∧
    (let s := { gating with power := { gating.power with pllOff := [0] } }; s.power.pllOff.contains (15 / 16) = true) := by
  decide +kernel

/-- powerCommands: HCLK above, at and below what the limits allow. -/
def clocked (mhz above calm : Nat) : State :=
  let s := withRegs up [(0x130010, 4096 + mhz), (0x130000, 2200 * 65536 + 1)]
  { s with power := { s.power with overTicks := above, calmTicks := calm } }

theorem witness_powerLimit : pState (clocked 2100 0 0) < 2 ∧ ready (clocked 2100 0 0) = true ∧ 2000 < hclk (clocked 2100 0 0) ∧
    hclk (clocked 2000 97 0) = 2000 ∧ (clocked 2000 97 0).power.overTicks < 98 ∧ (clocked 2000 99 0).power.overTicks = 99 ∧
    (clocked 2100 0 199).power.calmTicks % 100 = 99 ∧ hclk (clocked 2100 0 199) + 100 ≤ hclkMax (clocked 2100 0 199) ∧
    hclkMax (clocked 2300 0 0) < hclk (clocked 2300 0 0) := by decide +kernel
theorem witness_overLimit : overLimit 300001 0 0 = true ∧ overLimit 0 380001 0 = true := by
  constructor <;> simp [overLimit]
theorem witness_wellBelow : overLimit 284999 360999 0 = false ∧ wellBelow 284999 360999 0 = true ∧
    overLimit 300000 380000 0 = false ∧ wellBelow 300000 380000 0 = false := by
  rcases tj_cases with h | h <;> simp [overLimit, wellBelow, h]

/-- Regulator 0 is there and in range; a word with an alarm bit. -/
theorem witness_pmbAlert : ready up = true ∧ fatal up = false ∧ devErr up = false ∧ envAlarm (envStatus (zeros 1600) []) = false ∧
    envAlarm (envStatus (zeros 1600) [some 0x0010]) = true := by decide +kernel

/-- A self-test runs. -/
def testing4 : State := { up with jobs := [], selfTest := { running := true } }

/-- powerMessages: entry to each state and back; a fault; PWR_STATUS. -/
theorem witness_powerMessages : (∀ n ∈ [1, 2, 3, 4], served { up with jobs := [] } (dmpMsg .mb0 0x0700 (msg (toLe 8 n))) ∧
      pwrFault { up with jobs := [] } (dmpMsg .mb0 0x0700 (msg (toLe 8 n))) = none) ∧
    (∀ p ∈ [1, 2, 3], served (withRegs { up with jobs := [] } [(0x130004, p)]) (dmpMsg .mb0 0x0700 (msg (zeros 8))) ∧
      pwrFault (withRegs { up with jobs := [] } [(0x130004, p)]) (dmpMsg .mb0 0x0700 (msg (zeros 8))) = none) ∧
    (served testing4 (dmpMsg .mb0 0x0700 (msg (toLe 8 2))) ∧
      pwrFault testing4 (dmpMsg .mb0 0x0700 (msg (toLe 8 2))) = some (0x1101, 4, [])) ∧
    served up (dmpMsg .mb0 0x0701 (msg [])) := by
  refine ⟨?_, ?_, ⟨served_if (by decide +kernel), by decide +kernel⟩, served_if (by decide +kernel)⟩
  · intro n hn
    simp only [List.mem_cons, List.not_mem_nil, or_false] at hn
    rcases hn with rfl | rfl | rfl | rfl <;> exact ⟨served_if (by decide +kernel), by decide +kernel⟩
  · intro n hn
    simp only [List.mem_cons, List.not_mem_nil, or_false] at hn
    rcases hn with rfl | rfl | rfl <;> exact ⟨served_if (by decide +kernel), by decide +kernel⟩

theorem test_sleep_and_wake : let s := run (.pwrEnterP2 .mb0 (msg (toLe 8 2))) { up with jobs := [] }
    pState s = 2 ∧ pState (run (.pwrExit .mb0 (msg (zeros 8))) s) = 0 := by decide +kernel
theorem test_pack_wakes : regField (run (.unitWake (.hound 15)) { gating with power := { gating.power with pllOff := [0] } })
    0x130010 12 1 = 1 := by decide +kernel

end Sys2Proof.Tests
end

/-! ## The Hound core: loops that are refused, and misaligned accesses -/

namespace Sys2Proof.Machine

open Sys2Proof Sys2Proof.Claims

/-! ### An issued instruction that traps -/

/-- The counters that a fetch moves, of the L1I and of the SHC port, are none of a Hound's
issue counters (R239, R351). -/
theorem regVal_l1iFetch_issueCounter (s : State) {h : Nat} (hh : h < 128) (pc : Nat) :
    regVal (l1iFetch s h pc) (houndCounter h 0) = regVal s (houndCounter h 0) := by
  refine (l1iFetch_spec s h pc).2.2 _ (houndCounter_inj (by decide) (by decide) (by decide)) ?_ ?_ <;>
    (rw [houndCounter, if_pos (by decide)]; omega)

/-- Issue counts one in HND_ISSUE. -/
theorem counted_issued (s : State) {h : Nat} (hh : h < 128) :
    counted s (issued s h) (houndCounter h 0) 1 := by
  unfold counted issued
  rw [if_neg Nat.one_ne_zero, regVal_hcnt, cnt, cntW, if_neg Nat.one_ne_zero, regVal_setReg_same,
    regVal_l1iFetch_issueCounter s hh]

/-- An instruction that can issue, and whose body answers a trap and leaves the issued state
alone, takes that trap and has no other effect. -/
theorem attempt_issue_tookTrap {s : State} {h : Fin 128} {long : Bool} (hc : canIssue s h.val long = true)
    {word : Nat} {body : Body} {tr : Trap} (hb : body (issued s h.val) = (issued s h.val, some tr)) :
    ∃ t, attempt (issue h.val word long body) s = .next t ∧ tookTrap s t h.val word tr := by
  refine ⟨_, attempt_some (issue_eq hc word body), issued s h.val, onlyHound_issued s _, hound_issued s _,
    counted_issued s h.isLt, ?_⟩
  rw [hb]

/-! ### Where code can be fetched (R213) -/

theorem le_of_regionOf_eq_rtcode {a off : Nat} (hr : regionOf a = .rtcode off) : rtBase ≤ a := by
  unfold regionOf at hr
  by_cases hin : (decide (rtBase ≤ a) && decide (a < rtEnd)) = true
  · exact of_decide_eq_true (Bool.and_eq_true_iff.1 hin).1
  · rw [if_neg hin] at hr
    repeat' split at hr
    all_goals cases hr

theorem le_of_regionOf_eq_code {a off : Nat} (hr : regionOf a = .code off) : codeBase ≤ a := by
  unfold regionOf at hr
  by_cases hin : (decide (codeBase ≤ a) && decide (a < codeEnd)) = true
  · exact of_decide_eq_true (Bool.and_eq_true_iff.1 hin).1
  · rw [if_neg hin] at hr
    repeat' split at hr
    all_goals cases hr

/-- Code is fetched from RTCODE, in S mode alone, and from CODE: never from below the base
from which the privilege loops. -/
theorem loopBase_le_of_fetch {s : State} {h a n : Nat} {smode vec : Bool}
    (hok : accessOk s h smode vec .fetch a n = true) : loopBase smode ≤ a := by
  unfold accessOk at hok
  cases hr : regionOf a with
  | rtcode off =>
    have ha := le_of_regionOf_eq_rtcode hr
    cases smode with
    | true => exact ha
    | false => simp [hr] at hok
  | code off =>
    have ha := le_of_regionOf_eq_code hr
    cases smode with
    | true => exact Nat.le_trans (by decide) ha
    | false => exact ha
  | _ => simp [hr] at hok

/-- The PC of a Hound that can issue is at or behind the base of its loops. -/
theorem loopBase_le_pc {s : State} {h : Nat} {long : Bool} (hc : canIssue s h long = true) :
    loopBase (hregs s h).smode ≤ (hregs s h).pc.toNat := by
  simp only [canIssue, Bool.and_eq_true] at hc
  obtain ⟨⟨_, hfetch⟩, _⟩ := hc
  by_cases hok : accessOk s h (hregs s h).smode false .fetch (hregs s h).pc.toNat 4 = true
  · exact loopBase_le_of_fetch hok
  · simp [fetchTrap, hok] at hfetch

/-! ### Loops that R226 forbids -/

/-- The word of index `w` ends the body of an active loop. -/
theorem lastOfBody_iff (r : HoundRegs) (w : Nat) :
    lastOfBody r w = true ↔ ∃ m, m < 2 ∧ r.loopOn m = true ∧ w + 1 = r.loopStart m + r.loopLen m := by
  constructor
  · intro hl
    simp only [lastOfBody, Bool.or_eq_true, Bool.and_eq_true, beq_iff_eq] at hl
    rcases hl with hl | hl
    · exact ⟨0, by decide, hl⟩
    · exact ⟨1, by decide, hl⟩
  · rintro ⟨m, hm, hl⟩
    simp only [lastOfBody, Bool.or_eq_true, Bool.and_eq_true, beq_iff_eq]
    obtain rfl | rfl : m = 0 ∨ m = 1 := by omega
    · exact .inl hl
    · exact .inr hl

/-- A loop that R226 forbids is not opened, whatever its COUNT. A body whose first word is
the section's first has no instruction before it, hence the bound on `next`. -/
theorem openLoop_eq_none {r : HoundRegs} {n len next : Nat} (hf : loopForbidden r n len next)
    (hnext : loopBase r.smode + 4 ≤ next) (count limit : Nat) : openLoop r n count len next limit = none := by
  unfold loopForbidden at hf
  unfold openLoop
  rcases hf with hon | ⟨hn, hon, hend⟩ | ⟨m, hm, hon, hend⟩ | hlen
  · rw [if_pos (by simp [hon])]
  · simp [hn, hon, hend]
  · have hlast : lastOfBody r ((next - loopBase r.smode) / 4 - 1) = true :=
      (lastOfBody_iff r _).2 ⟨m, hm, hon, by omega⟩
    simp [hlast]
  · rw [if_pos (by simp [hlen])]

/-- LOOP or LOOPI of `size` bytes, with a loop that R226 forbids, is illegal and does nothing. -/
theorem startLoop_illegal {s : State} {h n len size : Nat} {long : Bool} (hc : canIssue s h long = true)
    (hsize : 4 ≤ size) (hf : loopForbidden (hregs s h) n len (pcAfter s h size)) (count : Nat) :
    startLoop h n size count len (issued s h) = (issued s h, some illegal) := by
  have hnext : loopBase (hregs s h).smode + 4 ≤ pcAfter s h size := Nat.add_le_add (loopBase_le_pc hc) hsize
  unfold startLoop
  simp only [hregs_issued]
  rw [show (hregs s h).pc.toNat + size = pcAfter s h size from rfl, openLoop_eq_none hf hnext]

/-- The instruction at PC ends the body of an active loop where the word behind it is the
first after that body. -/
theorem atBodyEnd_of_next {s : State} {h : Nat} {long : Bool} (hc : canIssue s h long = true)
    (hend : ∃ m, m < 2 ∧ (hregs s h).loopOn m = true ∧
      (pcAfter s h 4 - loopBase (hregs s h).smode) / 4 = (hregs s h).loopStart m + (hregs s h).loopLen m) :
    atBodyEnd (hregs s h) = true := by
  have hbase := loopBase_le_pc hc
  obtain ⟨m, hm, hon, hend⟩ := hend
  unfold pcAfter at hend
  have hlast : lastOfBody (hregs s h) (((hregs s h).pc.toNat - loopBase (hregs s h).smode) / 4) = true :=
    (lastOfBody_iff _ _).2 ⟨m, hm, hon, by omega⟩
  simp only [atBodyEnd, hlast, hbase, decide_true, Bool.and_self]

theorem exec_loop (h : Fin 128) (rdf rs1 : Fin 32) (len : BitVec 16) (s : State) :
    exec (.loop h rdf rs1 len) s = execLoop h rdf rs1 len s := rfl

/-- Word 0 of a long form whose RS1 field is 0. -/
theorem wordL_zero (rd sub aux : Nat) :
    wordL rd (0 : Fin 32).val sub aux = 0x3F * 2 ^ 26 + rd * 2 ^ 21 + sub * 2 ^ 11 + aux := by
  rw [wordL, Fin.val_zero, Nat.zero_mul, Nat.add_zero]

theorem exec_loopi (h : Fin 128) (rdf rs1 : Fin 32) (aux : BitVec 11) (imm : BitVec 32) (s : State) :
    exec (.loopi h rdf rs1 aux imm) s = execLoopi h rdf rs1 aux imm s := rfl

theorem exec_breaknz (h : Fin 128) (rd rs1 : Fin 32) (arg : BitVec 12) (s : State) :
    exec (.breaknz h rd rs1 arg) s = execBreaknz h rd rs1 arg s := rfl

theorem loop_refused {h : Fin 128} {n : Fin 2} {rs1 : Fin 32} {len : BitVec 16} {s : State}
    (hc : canIssue s h.val false = true)
    (hf : loopForbidden (hregs s h.val) n.val len.toNat (pcAfter s h.val 4)) :
    ∃ t, exec (.loop h (Fin.ofNat 32 (16 * n.val)) rs1 len) s = .next t ∧
      tookTrap s t h.val (0x17 * 2 ^ 26 + 16 * n.val * 2 ^ 21 + rs1.val * 2 ^ 16 + len.toNat) { cause := 1 } := by
  have hfield : (Fin.ofNat 32 (16 * n.val)).val = 16 * n.val := Nat.mod_eq_of_lt (by omega)
  rw [exec_loop, execLoop, hfield, wordI]
  refine attempt_issue_tookTrap hc ?_
  rw [if_neg (by simp), Nat.mul_div_cancel_left _ (by decide)]
  exact startLoop_illegal hc (by decide) hf _

theorem loopi_refused {h : Fin 128} {n : Fin 2} {len : BitVec 11} {count : BitVec 24} {s : State}
    (hc : canIssue s h.val true = true)
    (hf : loopForbidden (hregs s h.val) n.val len.toNat (pcAfter s h.val 8)) :
    ∃ t, exec (.loopi h (Fin.ofNat 32 n.val) 0 len (count.zeroExtend 32)) s = .next t ∧
      tookTrap s t h.val (0x3F * 2 ^ 26 + n.val * 2 ^ 21 + 4 * 2 ^ 11 + len.toNat) { cause := 1 } := by
  have hfield : (Fin.ofNat 32 n.val).val = n.val := Nat.mod_eq_of_lt (by omega)
  have hcount : (count.zeroExtend 32).toNat < 2 ^ 24 := by
    rw [BitVec.toNat_setWidth]
    omega
  rw [exec_loopi, execLoopi, hfield, wordL_zero]
  refine attempt_issue_tookTrap hc ?_
  rw [if_neg (by simp only [Bool.or_eq_true, decide_eq_true_eq]; omega)]
  exact startLoop_illegal hc (by decide) hf _

theorem breaknz_refused {h : Fin 128} {rs1 : Fin 32} {n : Fin 2} {s : State}
    (hc : canIssue s h.val false = true) (hend : atBodyEnd (hregs s h.val) = true) :
    ∃ t, exec (.breaknz h 0 rs1 (BitVec.ofNat 12 n.val)) s = .next t ∧
      tookTrap s t h.val (0x0B * 2 ^ 26 + rs1.val * 2 ^ 16 + 4 * 2 ^ 12 + n.val) { cause := 1 } := by
  have harg : (BitVec.ofNat 12 n.val).toNat = n.val := Nat.mod_eq_of_lt (by omega)
  have hword : wordSys 4 0 rs1 (BitVec.ofNat 12 n.val) = 0x0B * 2 ^ 26 + rs1.val * 2 ^ 16 + 4 * 2 ^ 12 + n.val := by
    rw [wordSys, wordI, harg, Fin.val_zero, Nat.zero_mul, Nat.add_zero, ← Nat.add_assoc]
  rw [exec_breaknz, execBreaknz, hword]
  refine attempt_issue_tookTrap hc ?_
  simp only [hregs_issued, hend, Bool.or_true, if_true]
  rfl

/-- Settles O3: the three bodies answer ILLEGAL_INSTR on the state in which they issue. -/
theorem loopsRefused : Obligations.LoopsRefused :=
  ⟨fun _ _ _ _ _ hc hf => loop_refused hc hf, fun _ _ _ _ _ hc hf => loopi_refused hc hf,
    fun _ _ _ _ hc hend => breaknz_refused hc (atBodyEnd_of_next hc hend)⟩

/-! ### Misaligned accesses (R214) -/

/-- Every load of R218's table is a load of its MAJOR and size. -/
theorem exec_load_eq {l : Nat × Nat × (Fin 128 → Fin 32 → Fin 32 → BitVec 16 → Instr) × (Nat → Word)}
    (hl : l ∈ loadTable) (h : Fin 128) (rd rs1 : Fin 32) (imm : BitVec 16) (s : State) :
    ∃ ext, exec (l.2.2.1 h rd rs1 imm) s = attempt (loadOp h l.1 l.2.1 rd rs1 imm ext) s := by
  simp only [loadTable, List.mem_cons, List.not_mem_nil, or_false] at hl
  rcases hl with rfl | rfl | rfl | rfl | rfl | rfl | rfl <;> exact ⟨_, rfl⟩

/-- Every store of R218's table is a store of its MAJOR and size. -/
theorem exec_store_eq {w : Nat × Nat × (Fin 128 → Fin 32 → Fin 32 → BitVec 16 → Instr)}
    (hw : w ∈ storeTable) (h : Fin 128) (rs2 rs1 : Fin 32) (imm : BitVec 16) (s : State) :
    exec (w.2.2 h rs2 rs1 imm) s = attempt (storeOp h w.1 w.2.1 rs2 rs1 imm) s := by
  simp only [storeTable, List.mem_cons, List.not_mem_nil, or_false] at hw
  rcases hw with rfl | rfl | rfl | rfl <;> rfl

/-- Alignment is judged before the region is: a misaligned scalar access traps wherever it lies. -/
theorem accessTrap_of_misaligned (s : State) (h : Nat) (acc : Acc) {a n : Nat} (ha : a % n ≠ 0) :
    accessTrap s h acc a n none =
      some { cause := cMisaligned, eaddr := a, info := b2n (decide (acc = .store)) * 2 ^ 15 } := by
  unfold accessTrap
  rw [if_pos ha, Nat.add_zero]

theorem loadOp_misaligned {s : State} {h : Fin 128} {rs1 : Fin 32} {imm : BitVec 16} {n : Nat}
    (hc : canIssue s h.val false = true) (ha : addrOf (hregs s h.val) rs1 imm % n ≠ 0) (major : Nat)
    (rd : Fin 32) (ext : Nat → BitVec 64) :
    ∃ t, attempt (loadOp h major n rd rs1 imm ext) s = .next t ∧
      tookTrap s t h.val (wordI major rd.val rs1.val imm.toNat)
        { cause := cMisaligned, eaddr := addrOf (hregs s h.val) rs1 imm } := by
  refine attempt_issue_tookTrap hc ?_
  simp only [hregs_issued]
  rw [show scalarAddr (hregs s h.val) rs1 imm = addrOf (hregs s h.val) rs1 imm from rfl,
    accessTrap_of_misaligned _ _ _ ha]
  rfl

theorem storeOp_misaligned {s : State} {h : Fin 128} {rs1 : Fin 32} {imm : BitVec 16} {n : Nat}
    (hc : canIssue s h.val false = true) (ha : addrOf (hregs s h.val) rs1 imm % n ≠ 0) (major : Nat)
    (rs2 : Fin 32) :
    ∃ t, attempt (storeOp h major n rs2 rs1 imm) s = .next t ∧
      tookTrap s t h.val (wordI major rs2.val rs1.val imm.toNat)
        { cause := cMisaligned, eaddr := addrOf (hregs s h.val) rs1 imm, info := 2 ^ 15 } := by
  refine attempt_issue_tookTrap hc ?_
  simp only [hregs_issued]
  rw [show scalarAddr (hregs s h.val) rs1 imm = addrOf (hregs s h.val) rs1 imm from rfl,
    accessTrap_of_misaligned _ _ _ ha]
  rfl

/-- Settles O8: each table row is `loadOp` or `storeOp` of its size, and both judge alignment
before they touch the state. -/
theorem misalignedAccesses : Obligations.MisalignedAccesses := by
  refine ⟨fun l hl _ h rd rs1 imm s hc ha => ?_, fun w hw _ h rs2 rs1 imm s hc ha => ?_⟩
  · obtain ⟨ext, hexec⟩ := exec_load_eq hl h rd rs1 imm s
    rw [hexec]
    exact loadOp_misaligned hc ha l.1 rd ext
  · rw [exec_store_eq hw]
    exact storeOp_misaligned hc ha w.1 rs2

end Sys2Proof.Machine

/-! ## KENNEL_DESTROY: a waiting mask whose number is no kennel's -/

namespace Sys2Proof.Machine

open Sys2Proof Sys2Proof.Claims

theorem exec_kennelDestroy (mb : Mb) (m : Msg) (s : State) :
    exec (.kennelDestroy mb m) s = .next (dmpTake destroyKennel (dmpMsg mb 0x0101 m) s) := rfl

/-- KENNEL_DESTROY of kennel 1. -/
def destroyOne : Msg := { length := 8, status := 0, seq := 0, rsv := false, body := toLe 8 1 }

/-- A kennel that holds nothing. -/
def emptyKennel (pasid : Nat) : Kennel := { pasid, share := zeros 64 }

/-- A number that is no kennel's. -/
def strayNumber : Nat := 0x3C02

/-- Counted on past kennel 255, the SHC_KMASK of the stray number lies at KN_PASID2 (R416). -/
theorem kmask_strayNumber_eq_pasid : 0xD2000 + 8 * strayNumber = 0xF0000 + 8 * 2 := rfl

/-- Kennels 1 and 2 exist. SHC_KMASK1 is 1 and engine port 0 has a miss in flight, so SHC_KMASK1
is zeroed only after the drain of the engine ports (R355, log entry 104). A mask of 2 already
waits under the stray number; it differs from what stands there in bit 63 alone, which alters no
port, so that it waits for no drain. -/
def strayMask : State :=
  { State.reset with
    regs := [(0xD2008, 1), (0xF0008, 2 ^ 63 + 1), (0xF0010, 2 ^ 63 + 2), (0x110000, 1)]
    kennels := [(1, emptyKennel 1), (2, emptyKennel 2)]
    herder := { State.reset.herder with hello := true }
    shc := { State.reset.shc with
      misses := [(0, { kennel := 1, line := 0, op := .read, way := none })]
      kmasks := [(strayNumber, (2, []))] } }

theorem served_destroyOne_strayMask : served strayMask (dmpMsg .mb0 0x0101 destroyOne) :=
  ⟨by decide +kernel, by decide +kernel, by decide +kernel, by decide +kernel, by decide +kernel⟩

theorem regVal_strayMask_pasid : regVal strayMask (0xF0000 + 8 * 2) = 2 ^ 63 + 2 := by decide +kernel

/-- Engine port 1 has no miss, so its drain ends at once, and then the Herder writes every waiting
mask whose ports have drained: the stray one too. -/
theorem regVal_destroyOne_strayMask :
    regVal (dmpTake destroyKennel (dmpMsg .mb0 0x0101 destroyOne) strayMask) (0xD2000 + 8 * strayNumber) = 2 := by
  decide +kernel

/-- Refutes O49: the destroy of kennel 1 clears VALID in KN_PASID2, which it is to leave as it was.
No message enters a mask for a number above 255, but the statement speaks of every state, and no
premise of it bounds the numbers under which masks wait. -/
theorem not_kennelDestroy : ¬ Obligations.KennelDestroy := by
  unfold Obligations.KennelDestroy
  intro h
  have hdestroyed := (h .mb0 destroyOne strayMask (emptyKennel 1) served_destroyOne_strayMask
    (by decide) (by decide) (by decide) (by decide)).2 (by decide)
  obtain ⟨t, hexec, _, _, _, hothers⟩ := hdestroyed
  rw [exec_kennelDestroy] at hexec
  injection hexec with ht
  obtain ⟨_, hpasid⟩ := hothers 2 (by decide) (by decide)
  rw [regVal_strayMask_pasid, ← ht, ← kmask_strayNumber_eq_pasid, regVal_destroyOne_strayMask] at hpasid
  exact absurd hpasid (by decide)

end Sys2Proof.Machine
